-- ==== Sys2Proof/Word.lean ====
section
/-! DEFINITION. The word types of Nuilasor and their plainest arithmetic. -/

namespace Sys2Proof

/-- One byte of memory. -/
abbrev Byte := BitVec 8

/-- A scalar register, an address or a control register (R84). -/
abbrev Word := BitVec 64

/-- A vector register slot (R108), a token, or half of a doubleword. -/
abbrev Slot := BitVec 32

/-- A 16-bit instruction parcel (R36). -/
abbrev Parcel := BitVec 16

/-- The number of a scalar register x0 to x31. -/
abbrev XReg := BitVec 5

/-- The number of a vector register v0 to v31. -/
abbrev VReg := BitVec 5

/-- The number of a mask register m0 to m7. -/
abbrev MReg := BitVec 3

/-- The number of a tile t0 to t3. -/
abbrev TReg := BitVec 2

/-- A partition number, 0 to 15 (R12). -/
abbrev PartId := BitVec 4

/-- A natural number as a 64-bit word, modulo 2^64. -/
def word (n : Nat) : Word := BitVec.ofNat 64 n

/-- The all-ones word, which the manual writes −1. -/
def minusOne : Word := BitVec.allOnes 64

end Sys2Proof
end

