-- ==== Sys2Proof/Syntax.lean ====
section
/-! DEFINITION. The instructions and events of Nuilasor: one constructor of Instr for each row of spec/opcode_table.json.
The operand structures follow the forms of R38; a field's width is its width in the word. The rows without an encoding
are the events of the table: what the host, the fabric, the management plane, an engine or time does in one step. -/

namespace Sys2Proof

/-- The R form with three registers. -/
structure R3 where
  c : XReg
  b : XReg
  a : XReg
  deriving DecidableEq, Repr

/-- An R or X form with a source B and a destination A. -/
structure R2 where
  b : XReg
  a : XReg
  deriving DecidableEq, Repr

/-- An X form with two sources and no destination. -/
structure RBC where
  c : XReg
  b : XReg
  deriving DecidableEq, Repr

/-- SEXT and ZEXT: the code w of the width stands in C (R43). -/
structure RW where
  w : BitVec 5
  b : XReg
  a : XReg
  deriving DecidableEq, Repr

/-- The I form. -/
structure I15 where
  imm : BitVec 15
  b : XReg
  a : XReg
  deriving DecidableEq, Repr

/-- SHIFTI: the amount n is IMM[5:0]. -/
structure Sh where
  n : BitVec 6
  b : XReg
  a : XReg
  deriving DecidableEq, Repr

/-- The U form. -/
structure U20 where
  imm : BitVec 20
  a : XReg
  deriving DecidableEq, Repr

/-- The S form; imm is IMMhi:IMMlo. -/
structure St where
  imm : BitVec 15
  c : XReg
  b : XReg
  deriving DecidableEq, Repr

/-- The BR form; off is OFFhi:OFFlo, in halfwords. -/
structure Br where
  off : BitVec 12
  c : XReg
  b : XReg
  deriving DecidableEq, Repr

/-- The J form; off is in halfwords. -/
structure J20 where
  off : BitVec 20
  a : XReg
  deriving DecidableEq, Repr

/-- FOP with a rounding field and three registers (R44). -/
structure F3 where
  p : BitVec 1
  r : BitVec 3
  c : XReg
  b : XReg
  a : XReg
  deriving DecidableEq, Repr

/-- FOP with a rounding field and one source (R44). -/
structure F2 where
  p : BitVec 1
  r : BitVec 3
  b : XReg
  a : XReg
  deriving DecidableEq, Repr

/-- FOP that never rounds, with two sources (R44). -/
structure F3N where
  p : BitVec 1
  c : XReg
  b : XReg
  a : XReg
  deriving DecidableEq, Repr

/-- FOP that never rounds, with one source (R44). -/
structure F2N where
  p : BitVec 1
  b : XReg
  a : XReg
  deriving DecidableEq, Repr

/-- A read-modify-write atomic: order and scope (R45). -/
structure Amo where
  order : BitVec 2
  scope : BitVec 3
  c : XReg
  b : XReg
  a : XReg
  deriving DecidableEq, Repr

/-- LDAQ (R45). -/
structure Laq where
  scope : BitVec 3
  b : XReg
  a : XReg
  deriving DecidableEq, Repr

/-- STRL (R45). -/
structure Srl where
  scope : BitVec 3
  c : XReg
  b : XReg
  deriving DecidableEq, Repr

/-- FENCE: the kinds stand in C and the scope in B (R46). -/
structure Fnc where
  kinds : BitVec 5
  scope : BitVec 5
  deriving DecidableEq, Repr

/-- RDCR: the control register number and the destination (R46). -/
structure CrR where
  n : BitVec 12
  a : XReg
  deriving DecidableEq, Repr

/-- WRCR (R46). -/
structure CrW where
  n : BitVec 12
  b : XReg
  a : XReg
  deriving DecidableEq, Repr

/-- TLBINV (R47). -/
structure Tlb where
  k : BitVec 5
  b : XReg
  deriving DecidableEq, Repr

/-- A vector load or store with a scalar base; m is the predicate (R49). -/
structure VM2 where
  m : MReg
  b : XReg
  a : VReg
  deriving DecidableEq, Repr

/-- A vector load or store with a scalar base and a scalar C (R49). -/
structure VM3 where
  m : MReg
  c : XReg
  b : XReg
  a : VReg
  deriving DecidableEq, Repr

/-- A vector load or store with a scalar base and an offset vector C with its chain bit (R49). -/
structure VMK3 where
  m : MReg
  kc : BitVec 1
  c : VReg
  b : XReg
  a : VReg
  deriving DecidableEq, Repr

/-- The V form with vector B and C and their chain bits (R38). In VMERGE, m is the selector. -/
structure VVV where
  m : MReg
  kc : BitVec 1
  kb : BitVec 1
  c : VReg
  b : VReg
  a : VReg
  deriving DecidableEq, Repr

/-- The V form with vector B and scalar C (R50). In VXLAT, m receives the fault bits. -/
structure VVX where
  m : MReg
  kb : BitVec 1
  c : XReg
  b : VReg
  a : VReg
  deriving DecidableEq, Repr

/-- The V form with one vector source (R50). In VCMPR, m is the selector. -/
structure VV where
  m : MReg
  kb : BitVec 1
  b : VReg
  a : VReg
  deriving DecidableEq, Repr

/-- VCVT: d is the destination format code KC:C (R51). -/
structure Cvt where
  mode : BitVec 3
  sat : BitVec 1
  m : MReg
  kb : BitVec 1
  d : BitVec 6
  b : VReg
  a : VReg
  deriving DecidableEq, Repr

/-- VCMP with a vector C; the destination d is a mask (R52). -/
structure CmpV where
  m : MReg
  kc : BitVec 1
  kb : BitVec 1
  c : VReg
  b : VReg
  d : MReg
  deriving DecidableEq, Repr

/-- VCMP with a scalar C (R52). -/
structure CmpX where
  m : MReg
  kb : BitVec 1
  c : XReg
  b : VReg
  d : MReg
  deriving DecidableEq, Repr

/-- VMSK on three masks (R52). -/
structure M3 where
  c : MReg
  b : MReg
  a : MReg
  deriving DecidableEq, Repr

/-- VMSK on two masks (R52). -/
structure M2 where
  b : MReg
  a : MReg
  deriving DecidableEq, Repr

/-- VMSK with a mask source and a register destination (R52). -/
structure MX where
  m : MReg
  b : MReg
  a : XReg
  deriving DecidableEq, Repr

/-- MSETX (R52). -/
structure MSet where
  b : XReg
  a : MReg
  deriving DecidableEq, Repr

/-- VIDX (R52). -/
structure VIx where
  m : MReg
  a : VReg
  deriving DecidableEq, Repr

/-- TMAC: r is the code of REP and t the tile (R54). -/
structure Tm where
  kc : BitVec 1
  kb : BitVec 1
  c : VReg
  b : VReg
  r : BitVec 2
  t : TReg
  deriving DecidableEq, Repr

/-- TROW (R54). -/
structure Trw where
  m : MReg
  c : XReg
  t : TReg
  a : VReg
  deriving DecidableEq, Repr

/-- TSETROW (R54). -/
structure Tsr where
  m : MReg
  kb : BitVec 1
  c : XReg
  b : VReg
  t : TReg
  deriving DecidableEq, Repr

/-- BREF and BFREE with their order (R55). -/
structure Ord2 where
  order : BitVec 2
  b : XReg
  a : XReg
  deriving DecidableEq, Repr

/-- The compact form: S and D (R39). -/
structure C2 where
  s : BitVec 5
  d : BitVec 5
  deriving DecidableEq, Repr

/-- The hart an event concerns: its partition and its id (R84). -/
structure HartRef where
  pid : PartId
  id : BitVec 12
  deriving DecidableEq, Repr

/-- The object of a partition that an event concerns: a copy, block or launch by its handle or id. -/
structure ObjRef where
  pid : PartId
  handle : Slot
  deriving DecidableEq, Repr

/-- A port of a die's router, by the numbers of R349: die 0 to 3, then 0 to 9 a link, 10 the local egress queue, 11 the gallery input. -/
structure PortRef where
  die : BitVec 2
  k : BitVec 4
  deriving DecidableEq, Repr

/-- A write of BPBASE, BSZLOG, TPB or TOKB (which = 0 to 3) by WRCR (R224). -/
structure PoolW where
  which : BitVec 2
  b : XReg
  a : XReg
  deriving DecidableEq, Repr

/-- A fabric packet: the fields of the header flit and the payload (R328). -/
structure Packet where
  job : BitVec 16
  src : BitVec 16
  dst : BitVec 16
  kind : Byte
  vc : BitVec 2
  seq : Word
  addr : Word
  len : Nat
  payload : List Byte
  deriving DecidableEq, Repr

/-- A packet that carries a write of data at an address. -/
def Packet.carrying (p : Packet) (a : Word) (data : List Byte) : Packet := { p with addr := a, len := data.length, payload := data }

/-- A packet, and the port at which it comes in. -/
structure Arrival where
  port : PortRef
  packet : Packet
  deriving DecidableEq, Repr

/-- The host's node, the link through which packets for each node leave, and the node at the other end of each link (R331, R348). -/
structure Routing where
  host : BitVec 16
  links : List (BitVec 16 × PortRef)
  peers : List (PortRef × BitVec 16)
  deriving DecidableEq, Repr

/-- One window entry of the configuration page (R332, R336). -/
structure Window where
  index : BitVec 11
  r : Bool
  w : Bool
  dest : BitVec 16
  base : Word
  deriving DecidableEq, Repr

/-- A device of a job: its node, and the base, the size and the late capacity of its save area for the job (R344, R346). -/
structure JobDevice where
  node : BitVec 16
  saveBase : Nat
  saveSize : Nat
  lateCap : Nat
  deriving DecidableEq, Repr

/-- What the management plane configures for one partition: the contents of its configuration page (R336), the
page-table root it hands to the control hart (R16), the two interrupt vectors (R340), and the devices of each job it belongs
to or controls (R344). Halls are device hall numbers, in table order. -/
structure PartCfg where
  pid : PartId
  node : BitVec 16
  job : BitVec 16
  halls : List Nat
  l2 : BitVec 256
  chans : BitVec 256
  memSize : Nat
  faultBase : Nat
  intrBase : Nat
  faultLog : Nat
  intrLog : Nat
  ctxBase : Nat
  ctxSize : Nat
  engBase : Nat
  engSize : Nat
  saveBase : Nat
  saveSize : Nat
  lateCap : Nat
  ctrlTags : List (BitVec 16)
  limits : Word
  partners : List (Nat × (Byte × Byte × Byte))
  windows : List Window
  ptroot : Word
  intrVector : Word × Slot
  faultVector : Word × Slot
  jobNodes : List (BitVec 16 × List JobDevice)
  deriving DecidableEq, Repr

/-- A resize that removes hall src and moves it to dst, or adds an empty hall (R342). -/
inductive HallResize where
  | remove (p : PartId) (src dst : Nat)
  | add (p : PartId) (hall : Nat)
  deriving DecidableEq, Repr

/-- A firmware image with its header, the vendor's public key that comes with it, and the signature (R357). -/
structure Firmware where
  image : List Byte
  key : List Byte
  signature : List Byte
  deriving DecidableEq, Repr

/-- Why a parcel fetch failed (R37). -/
inductive FetchCause where
  | page
  | prot
  | uncor
  deriving DecidableEq, Repr

/-- A failed fetch: the cause and the address of the first parcel that failed (R37). -/
structure FetchFault where
  cause : FetchCause
  va : Word
  deriving DecidableEq, Repr

/-- One constructor per row of the table of operations and events. -/
inductive Instr where
  /-- Writes xB + xC to xA, modulo 2^64. (R110) -/
  | add (o : R3)
  /-- Writes xB − xC to xA. (R110) -/
  | sub (o : R3)
  /-- Writes the bitwise AND of xB and xC to xA. (R110) -/
  | and (o : R3)
  /-- Writes the bitwise OR of xB and xC to xA. (R110) -/
  | or (o : R3)
  /-- Writes the bitwise XOR of xB and xC to xA. (R110) -/
  | xor (o : R3)
  /-- Writes xB AND NOT xC to xA. (R110) -/
  | andn (o : R3)
  /-- Shifts xB left by xC[5:0]. (R110) -/
  | shl (o : R3)
  /-- Shifts xB right logically by xC[5:0]. (R110) -/
  | shr (o : R3)
  /-- Shifts xB right arithmetically by xC[5:0]. (R110) -/
  | sra (o : R3)
  /-- Rotates xB left by xC[5:0]. (R110) -/
  | rol (o : R3)
  /-- Rotates xB right by xC[5:0]. (R110) -/
  | ror (o : R3)
  /-- Writes 1 if xB < xC signed, else 0. (R110) -/
  | slt (o : R3)
  /-- Writes 1 if xB < xC unsigned, else 0. (R110) -/
  | sltn (o : R3)
  /-- Writes the signed smaller of xB and xC. (R110) -/
  | min (o : R3)
  /-- Writes the signed larger of xB and xC. (R110) -/
  | max (o : R3)
  /-- Writes the unsigned smaller of xB and xC. (R110) -/
  | minn (o : R3)
  /-- Writes the unsigned larger of xB and xC. (R110) -/
  | maxn (o : R3)
  /-- Writes the low 64 bits of xB × xC. (R110) -/
  | mul (o : R3)
  /-- Writes the high 64 bits of the signed product. (R110) -/
  | mulh (o : R3)
  /-- Writes the high 64 bits of the unsigned product. (R110) -/
  | mulhn (o : R3)
  /-- Signed division truncating toward zero, never trapping. (R111) -/
  | div (o : R3)
  /-- Unsigned division, never trapping. (R111) -/
  | divn (o : R3)
  /-- Signed remainder with the sign of the dividend. (R111) -/
  | rem (o : R3)
  /-- Unsigned remainder. (R111) -/
  | remn (o : R3)
  /-- Counts leading zeros of xB. (R110) -/
  | clz (o : R2)
  /-- Counts trailing zeros of xB. (R110) -/
  | ctz (o : R2)
  /-- Counts the one bits of xB. (R110) -/
  | popc (o : R2)
  /-- Sign-extends xB from 8, 16 or 32 bits. (R110) -/
  | sext (o : RW)
  /-- Zero-extends xB from 8, 16 or 32 bits. (R110) -/
  | zext (o : RW)
  /-- Adds and sign-extends the low 32 bits. (R110) -/
  | addw (o : R3)
  /-- Subtracts and sign-extends the low 32 bits. (R110) -/
  | subw (o : R3)
  /-- Adds a sign-extended 15-bit immediate to xB. (R112) -/
  | addi (o : I15)
  /-- ANDs xB with the immediate. (R112) -/
  | andi (o : I15)
  /-- ORs xB with the immediate. (R112) -/
  | ori (o : I15)
  /-- XORs xB with the immediate. (R112) -/
  | xori (o : I15)
  /-- Signed compare of xB with the immediate. (R112) -/
  | slti (o : I15)
  /-- Unsigned compare of xB with the sign-extended immediate. (R112) -/
  | sltni (o : I15)
  /-- Shifts xB left by an immediate amount. (R112) -/
  | shli (o : Sh)
  /-- Shifts xB right logically by an immediate amount. (R112) -/
  | shri (o : Sh)
  /-- Shifts xB right arithmetically by an immediate amount. (R112) -/
  | srai (o : Sh)
  /-- Rotates xB right by an immediate amount. (R112) -/
  | rori (o : Sh)
  /-- Loads a sign-extended upper 20-bit immediate. (R113) -/
  | lui (o : U20)
  /-- Adds the shifted immediate to the PC. (R113) -/
  | addpc (o : U20)
  /-- Loads a sign-extended byte. (R114) -/
  | ldb (o : I15)
  /-- Loads a sign-extended halfword. (R114) -/
  | ldh (o : I15)
  /-- Loads a sign-extended word. (R114) -/
  | ldw (o : I15)
  /-- Loads a doubleword. (R114) -/
  | ldd (o : I15)
  /-- Loads a zero-extended byte. (R114) -/
  | ldbn (o : I15)
  /-- Loads a zero-extended halfword. (R114) -/
  | ldhn (o : I15)
  /-- Loads a zero-extended word. (R114) -/
  | ldwn (o : I15)
  /-- Stores a byte into the strip's mortar. (R114) -/
  | stb (o : St)
  /-- Stores a halfword into the mortar. (R114) -/
  | sth (o : St)
  /-- Stores a word into the mortar. (R114) -/
  | stw (o : St)
  /-- Stores a doubleword into the mortar. (R114) -/
  | std (o : St)
  /-- Branches when xB == xC. (R116) -/
  | beq (o : Br)
  /-- Branches when xB != xC. (R116) -/
  | bne (o : Br)
  /-- Branches when xB < xC signed. (R116) -/
  | blt (o : Br)
  /-- Branches when xB >= xC signed. (R116) -/
  | bge (o : Br)
  /-- Branches when xB < xC unsigned. (R116) -/
  | bltn (o : Br)
  /-- Branches when xB >= xC unsigned. (R116) -/
  | bgen (o : Br)
  /-- Jumps PC-relative and writes the link to xA. (R116) -/
  | jal (o : J20)
  /-- Jumps to xB + offset and writes the link to xA. (R116) -/
  | jalr (o : I15)
  /-- Scalar floating add, rounded once. (R118) -/
  | fadd (o : F3)
  /-- Scalar floating subtract. (R118) -/
  | fsub (o : F3)
  /-- Scalar floating multiply. (R118) -/
  | fmul (o : F3)
  /-- Scalar floating divide. (R118) -/
  | fdiv (o : F3)
  /-- Scalar floating square root. (R118) -/
  | fsqrt (o : F2)
  /-- Scalar floating minimum. (R118) -/
  | fmin (o : F3N)
  /-- Scalar floating maximum. (R118) -/
  | fmax (o : F3N)
  /-- Fused xA + xB × xC, rounded once. (R118) -/
  | fmadd (o : F3)
  /-- Floating equality compare to an integer. (R118) -/
  | feq (o : F3N)
  /-- Floating less-than compare. (R118) -/
  | flt (o : F3N)
  /-- Floating less-or-equal compare. (R118) -/
  | fle (o : F3N)
  /-- Converts to a saturated signed integer. (R119) -/
  | fcvti (o : F2)
  /-- Converts to a saturated unsigned integer. (R119) -/
  | fcvtn (o : F2)
  /-- Converts a signed integer to floating. (R118) -/
  | fcvtf (o : F2)
  /-- Converts an unsigned integer to floating. (R118) -/
  | fcvtfn (o : F2)
  /-- Converts between binary32 and binary64. (R118) -/
  | fcvtp (o : F2)
  /-- Writes the class code of xB. (R120) -/
  | fclass (o : F2N)
  /-- Copies xB with xC's sign. (R118) -/
  | fsgnj (o : F3N)
  /-- Atomic add on a doubleword, returning the old value. (R123) -/
  | aaddD (o : Amo)
  /-- Atomic add on a word. (R123) -/
  | aaddW (o : Amo)
  /-- Atomic swap of a doubleword. (R123) -/
  | aswpD (o : Amo)
  /-- Atomic swap of a word. (R123) -/
  | aswpW (o : Amo)
  /-- Atomic compare-and-swap of a doubleword. (R123) -/
  | acasD (o : Amo)
  /-- Atomic compare-and-swap of a word. (R123) -/
  | acasW (o : Amo)
  /-- Atomic AND of a doubleword. (R123) -/
  | aandD (o : Amo)
  /-- Atomic OR of a doubleword. (R123) -/
  | aorD (o : Amo)
  /-- Atomic XOR of a doubleword. (R123) -/
  | axorD (o : Amo)
  /-- Atomic signed minimum. (R123) -/
  | aminD (o : Amo)
  /-- Atomic signed maximum. (R123) -/
  | amaxD (o : Amo)
  /-- Atomic unsigned minimum. (R123) -/
  | aminnD (o : Amo)
  /-- Atomic unsigned maximum. (R123) -/
  | amaxnD (o : Amo)
  /-- Acquire load of a doubleword. (R123) -/
  | ldaqD (o : Laq)
  /-- Release store of a doubleword. (R123) -/
  | strlD (o : Srl)
  /-- Acquire load of a word. (R123) -/
  | ldaqW (o : Laq)
  /-- Release store of a word. (R123) -/
  | strlW (o : Srl)
  /-- Closes the strip and orders the chosen kinds at a scope. (R124) -/
  | fence (o : Fnc)
  /-- Closes the strip and waits for a doubleword to change. (R125) -/
  | waita (o : R3)
  /-- Closes the strip and waits for a word to change. (R125) -/
  | waitaw (o : R3)
  /-- Lets the sequencer switch to another resident hart. (R127) -/
  | yield
  /-- Reads a control register after the checks of R63. (R128) -/
  | rdcr (o : CrR)
  /-- Writes a control register without behaviour of its own and returns the old value. (R128) -/
  | wrcr (o : CrW)
  /-- A WRCR to PRIO sets the ceiling, may lower the lease priority and is an arbitration event. (R363) -/
  | prioWrite (o : R2)
  /-- A WRCR to FRND sets the dynamic rounding mode unless the value is 7. (R121) -/
  | frndWrite (o : R2)
  /-- A WRCR to BPBASE, BSZLOG, TPB or TOKB takes effect only while every block is FREE and none retiring. (R224) -/
  | poolRegisterWrite (o : PoolW)
  /-- A WRCR to DOMAINW sets DOMAIN for later instructions, not undone by rollback. (R268) -/
  | domainwWrite (o : R2)
  /-- A WRCR to PTROOT changes the translation root without flushing the TLB. (R159) -/
  | ptrootWrite (o : R2)
  /-- Closes the strip and traps with TRAPI and the code n. (R130) -/
  | trap (n : BitVec 5)
  /-- Closes the strip and traps with BREAK. (R130) -/
  | brk
  /-- Returns from a trap, restoring mode, LDL and trim limit. (R209) -/
  | tret
  /-- Stops the hart until a queue entry, timeout or pre-emption. (R131) -/
  | halt
  /-- Saves one hart's vector state to a save area and frees its bricks. (R215) -/
  | vsave (b : XReg)
  /-- Loads the issuing hart's vector state from a save area. (R216) -/
  | vrestore (b : XReg)
  /-- Invalidates cached translations of a page, a root or the partition. (R132) -/
  | tlbinv (o : Tlb)
  /-- Closes the strip so later fetches see earlier visible stores. (R133) -/
  | icsync
  /-- Commits the strip, takes the grant and opens a strip with VL. (R138) -/
  | setvl (o : R2)
  /-- Loads SHAPE from xB and clips VL. (R139) -/
  | setshape (b : XReg)
  /-- Closes the strip, sets NREG and zeroes registers and tiles. (R140) -/
  | vconf (n : BitVec 5)
  /-- Closes the strip and opens a continuation strip. (R141) -/
  | vclose
  /-- Loads SHAPE from the immediate. (R139) -/
  | setshapei (imm : BitVec 15)
  /-- Unit-stride vector load. (R150) -/
  | vldu (o : VM2)
  /-- Strided vector load. (R150) -/
  | vlds (o : VM3)
  /-- Indexed vector load (gather). (R150) -/
  | vldx (o : VMK3)
  /-- Broadcast vector load of one location. (R150) -/
  | vldb (o : VM2)
  /-- Two-dimensional vector load. (R150) -/
  | vld2d (o : VM3)
  /-- Unit-stride vector store into the mortar. (R150) -/
  | vstu (o : VM2)
  /-- Strided vector store. (R150) -/
  | vsts (o : VM3)
  /-- Ordered indexed vector store (scatter). (R150) -/
  | vstx (o : VMK3)
  /-- Unit-stride vector store with unordered elements. (R74) -/
  | vstuu (o : VM2)
  /-- Indexed vector store with unordered elements. (R74) -/
  | vstxu (o : VMK3)
  /-- Two-dimensional vector store. (R150) -/
  | vst2d (o : VM3)
  /-- Element-wise integer add, vector C. (R184) -/
  | vadd (o : VVV)
  /-- Element-wise integer subtract, vector C. (R184) -/
  | vsub (o : VVV)
  /-- Element-wise low product, vector C. (R184) -/
  | vmul (o : VVV)
  /-- Element-wise signed high product, vector C. (R184) -/
  | vmulh (o : VVV)
  /-- Element-wise unsigned high product, vector C. (R184) -/
  | vmulhn (o : VVV)
  /-- Element-wise signed division, vector C. (R184) -/
  | vdiv (o : VVV)
  /-- Element-wise unsigned division, vector C. (R184) -/
  | vdivn (o : VVV)
  /-- Element-wise signed remainder, vector C. (R184) -/
  | vrem (o : VVV)
  /-- Element-wise unsigned remainder, vector C. (R184) -/
  | vremn (o : VVV)
  /-- Element-wise signed minimum, vector C. (R184) -/
  | vmin (o : VVV)
  /-- Element-wise signed maximum, vector C. (R184) -/
  | vmax (o : VVV)
  /-- Element-wise unsigned minimum, vector C. (R184) -/
  | vminn (o : VVV)
  /-- Element-wise unsigned maximum, vector C. (R184) -/
  | vmaxn (o : VVV)
  /-- Element-wise AND, vector C. (R184) -/
  | vand (o : VVV)
  /-- Element-wise OR, vector C. (R184) -/
  | vor (o : VVV)
  /-- Element-wise XOR, vector C. (R184) -/
  | vxor (o : VVV)
  /-- Element-wise left shift, vector C. (R184) -/
  | vshl (o : VVV)
  /-- Element-wise logical right shift, vector C. (R184) -/
  | vshr (o : VVV)
  /-- Element-wise arithmetic right shift, vector C. (R184) -/
  | vsra (o : VVV)
  /-- Element-wise signed saturating add, vector C. (R184) -/
  | vsadd (o : VVV)
  /-- Element-wise unsigned saturating add, vector C. (R184) -/
  | vsaddn (o : VVV)
  /-- Element-wise signed saturating subtract, vector C. (R184) -/
  | vssub (o : VVV)
  /-- Element-wise unsigned saturating subtract, vector C. (R184) -/
  | vssubn (o : VVV)
  /-- Element-wise absolute difference, vector C. (R184) -/
  | vabsd (o : VVV)
  /-- Element-wise multiply-accumulate, vector C. (R184) -/
  | vmacc (o : VVV)
  /-- Element-wise integer add with scalar xC. (R184) -/
  | vaddX (o : VVX)
  /-- Integer subtract with scalar xC. (R184) -/
  | vsubX (o : VVX)
  /-- Low product with scalar xC. (R184) -/
  | vmulX (o : VVX)
  /-- Signed high product with scalar xC. (R184) -/
  | vmulhX (o : VVX)
  /-- Unsigned high product with scalar xC. (R184) -/
  | vmulhnX (o : VVX)
  /-- Signed division by scalar xC. (R184) -/
  | vdivX (o : VVX)
  /-- Unsigned division by scalar xC. (R184) -/
  | vdivnX (o : VVX)
  /-- Signed remainder by scalar xC. (R184) -/
  | vremX (o : VVX)
  /-- Unsigned remainder by scalar xC. (R184) -/
  | vremnX (o : VVX)
  /-- Signed minimum with scalar xC. (R184) -/
  | vminX (o : VVX)
  /-- Signed maximum with scalar xC. (R184) -/
  | vmaxX (o : VVX)
  /-- Unsigned minimum with scalar xC. (R184) -/
  | vminnX (o : VVX)
  /-- Unsigned maximum with scalar xC. (R184) -/
  | vmaxnX (o : VVX)
  /-- AND with scalar xC. (R184) -/
  | vandX (o : VVX)
  /-- OR with scalar xC. (R184) -/
  | vorX (o : VVX)
  /-- XOR with scalar xC. (R184) -/
  | vxorX (o : VVX)
  /-- Left shift by scalar xC. (R184) -/
  | vshlX (o : VVX)
  /-- Logical right shift by scalar xC. (R184) -/
  | vshrX (o : VVX)
  /-- Arithmetic right shift by scalar xC. (R184) -/
  | vsraX (o : VVX)
  /-- Signed saturating add with scalar xC. (R184) -/
  | vsaddX (o : VVX)
  /-- Unsigned saturating add with scalar xC. (R184) -/
  | vsaddnX (o : VVX)
  /-- Signed saturating subtract with scalar xC. (R184) -/
  | vssubX (o : VVX)
  /-- Unsigned saturating subtract with scalar xC. (R184) -/
  | vssubnX (o : VVX)
  /-- Absolute difference with scalar xC. (R184) -/
  | vabsdX (o : VVX)
  /-- Multiply-accumulate with scalar xC. (R184) -/
  | vmaccX (o : VVX)
  /-- Element-wise floating add, vector C. (R186) -/
  | vfadd (o : VVV)
  /-- Floating subtract, vector C. (R186) -/
  | vfsub (o : VVV)
  /-- Floating multiply, vector C. (R186) -/
  | vfmul (o : VVV)
  /-- Floating divide, vector C. (R186) -/
  | vfdiv (o : VVV)
  /-- Floating minimum, vector C. (R186) -/
  | vfmin (o : VVV)
  /-- Floating maximum, vector C. (R186) -/
  | vfmax (o : VVV)
  /-- Sign injection, vector C. (R186) -/
  | vfsgnj (o : VVV)
  /-- Negated sign injection, vector C. (R186) -/
  | vfsgnjn (o : VVV)
  /-- Element-wise square root. (R186) -/
  | vfsqrt (o : VV)
  /-- Correctly rounded reciprocal square root. (R187) -/
  | vfrsqrt (o : VV)
  /-- Correctly rounded reciprocal. (R187) -/
  | vfrcp (o : VV)
  /-- Correctly rounded 2^b. (R187) -/
  | vfexp2 (o : VV)
  /-- Correctly rounded log2 b. (R187) -/
  | vflog2 (o : VV)
  /-- Clears the sign bit. (R186) -/
  | vfabs (o : VV)
  /-- Inverts the sign bit. (R186) -/
  | vfneg (o : VV)
  /-- Writes each element's class code. (R186) -/
  | vfclass (o : VV)
  /-- Fused a + b × c, vector C. (R186) -/
  | vfma (o : VVV)
  /-- Fused a − b × c, vector C. (R186) -/
  | vfms (o : VVV)
  /-- Fused −a − b × c, vector C. (R186) -/
  | vfnma (o : VVV)
  /-- Scales b by 2^c, vector C. (R186) -/
  | vfscale (o : VVV)
  /-- Widening add, vector C. (R188) -/
  | vfwadd (o : VVV)
  /-- Widening multiply, vector C. (R188) -/
  | vfwmul (o : VVV)
  /-- Widening fused multiply-add, vector C. (R188) -/
  | vfwma (o : VVV)
  /-- Floating add with scalar xC. (R186) -/
  | vfaddX (o : VVX)
  /-- Floating subtract with scalar xC. (R186) -/
  | vfsubX (o : VVX)
  /-- Floating multiply with scalar xC. (R186) -/
  | vfmulX (o : VVX)
  /-- Floating divide by scalar xC. (R186) -/
  | vfdivX (o : VVX)
  /-- Floating minimum with scalar xC. (R186) -/
  | vfminX (o : VVX)
  /-- Floating maximum with scalar xC. (R186) -/
  | vfmaxX (o : VVX)
  /-- Sign injection from scalar xC. (R186) -/
  | vfsgnjX (o : VVX)
  /-- Negated sign injection from scalar xC. (R186) -/
  | vfsgnjnX (o : VVX)
  /-- Fused a + b × xC. (R186) -/
  | vfmaX (o : VVX)
  /-- Fused a − b × xC. (R186) -/
  | vfmsX (o : VVX)
  /-- Fused −a − b × xC. (R186) -/
  | vfnmaX (o : VVX)
  /-- Scales b by 2^xC. (R186) -/
  | vfscaleX (o : VVX)
  /-- Widening add with scalar xC. (R188) -/
  | vfwaddX (o : VVX)
  /-- Widening multiply with scalar xC. (R188) -/
  | vfwmulX (o : VVX)
  /-- Widening fused multiply-add with scalar xC. (R188) -/
  | vfwmaX (o : VVX)
  /-- Converts every element to the destination format in the chosen mode. (R178) -/
  | vcvt (o : Cvt)
  /-- Integer equality compare into a mask, vector C. (R190) -/
  | vceq (o : CmpV)
  /-- Integer inequality compare, vector C. (R190) -/
  | vcne (o : CmpV)
  /-- Signed less-than compare, vector C. (R190) -/
  | vclt (o : CmpV)
  /-- Signed less-or-equal compare, vector C. (R190) -/
  | vcle (o : CmpV)
  /-- Unsigned less-than compare, vector C. (R190) -/
  | vcltn (o : CmpV)
  /-- Unsigned less-or-equal compare, vector C. (R190) -/
  | vclen (o : CmpV)
  /-- Floating equality compare, vector C. (R190) -/
  | vfceq (o : CmpV)
  /-- Floating less-than compare, vector C. (R190) -/
  | vfclt (o : CmpV)
  /-- Floating less-or-equal compare, vector C. (R190) -/
  | vfcle (o : CmpV)
  /-- Unordered (NaN) test, vector C. (R190) -/
  | vfcun (o : CmpV)
  /-- Integer equality compare with scalar xC. (R190) -/
  | vceqX (o : CmpX)
  /-- Integer inequality compare with scalar xC. (R190) -/
  | vcneX (o : CmpX)
  /-- Signed less-than with scalar xC. (R190) -/
  | vcltX (o : CmpX)
  /-- Signed less-or-equal with scalar xC. (R190) -/
  | vcleX (o : CmpX)
  /-- Unsigned less-than with scalar xC. (R190) -/
  | vcltnX (o : CmpX)
  /-- Unsigned less-or-equal with scalar xC. (R190) -/
  | vclenX (o : CmpX)
  /-- Floating equality with scalar xC. (R190) -/
  | vfceqX (o : CmpX)
  /-- Floating less-than with scalar xC. (R190) -/
  | vfcltX (o : CmpX)
  /-- Floating less-or-equal with scalar xC. (R190) -/
  | vfcleX (o : CmpX)
  /-- Unordered test with scalar xC. (R190) -/
  | vfcunX (o : CmpX)
  /-- Mask AND. (R191) -/
  | mand (o : M3)
  /-- Mask OR. (R191) -/
  | mor (o : M3)
  /-- Mask XOR. (R191) -/
  | mxor (o : M3)
  /-- Mask AND NOT. (R191) -/
  | mandn (o : M3)
  /-- Mask NOT. (R191) -/
  | mnot (o : M2)
  /-- Counts active set mask bits into xA. (R191) -/
  | mpop (o : MX)
  /-- Writes the least active set bit index, or −1. (R191) -/
  | mfirst (o : MX)
  /-- Sets mask bits from xB. (R191) -/
  | msetx (o : MSet)
  /-- Clears every bit of a mask, bound masks included. (R192) -/
  | mclr (a : MReg)
  /-- Writes prefix counts of set mask bits. (R191) -/
  | viota (o : MX)
  /-- Writes each element's index. (R191) -/
  | vidx (o : VIx)
  /-- Writes mask bits as 0 or 1 elements. (R191) -/
  | mmovv (o : MX)
  /-- Ordered floating sum reduction. (R194) -/
  | vrsumo (o : VVX)
  /-- Tree floating sum reduction. (R195) -/
  | vrsumt (o : VVX)
  /-- Floating maximum reduction. (R196) -/
  | vrmaxf (o : VVX)
  /-- Floating minimum reduction. (R196) -/
  | vrminf (o : VVX)
  /-- Index of the least maximal floating element. (R196) -/
  | vrmaxfi (o : VVX)
  /-- Integer sum reduction. (R196) -/
  | vrsum (o : VVX)
  /-- Signed maximum reduction. (R196) -/
  | vrmax (o : VVX)
  /-- Signed minimum reduction. (R196) -/
  | vrmin (o : VVX)
  /-- Unsigned maximum reduction. (R196) -/
  | vrmaxn (o : VVX)
  /-- Unsigned minimum reduction. (R196) -/
  | vrminn (o : VVX)
  /-- AND reduction. (R196) -/
  | vrand (o : VVX)
  /-- OR reduction. (R196) -/
  | vror (o : VVX)
  /-- XOR reduction. (R196) -/
  | vrxor (o : VVX)
  /-- Index of the least maximal integer element. (R196) -/
  | vrmaxi (o : VVX)
  /-- Gathers elements by index per row. (R199) -/
  | vrgath (o : VVV)
  /-- Slides elements up by xC. (R198) -/
  | vslup (o : VVX)
  /-- Slides elements down by xC. (R198) -/
  | vsldn (o : VVX)
  /-- Compresses selected elements. (R198) -/
  | vcmpr (o : VV)
  /-- Merges two vectors under a selector mask. (R198) -/
  | vmerge (o : VVV)
  /-- Moves xB into element 0. (R198) -/
  | vmvs (o : VM2)
  /-- Moves element 0 to xA. (R198) -/
  | vmvx (o : VV)
  /-- Broadcasts xB to every element. (R198) -/
  | vbcst (o : VM2)
  /-- Copies a vector group. (R198) -/
  | vmov (o : VV)
  /-- Moves whole blocks between dies of a spread hart. (R200) -/
  | xchg (o : VVX)
  /-- Tile multiply-accumulate of REP column blocks. (R202) -/
  | tmac (o : Tm)
  /-- Zeroes a tile. (R203) -/
  | tzero (t : TReg)
  /-- Reads a tile row into a vector. (R203) -/
  | trow (o : Trw)
  /-- Writes a vector into a tile row. (R203) -/
  | tsetrow (o : Tsr)
  /-- Binds a vector register to a stream record. (R259) -/
  | vbind (o : R2)
  /-- Writes the position back and drops the binding. (R259) -/
  | vunbind (b : XReg)
  /-- Reads and optionally sets a stream position. (R259) -/
  | vspos (o : R3)
  /-- Writes the stream position to the record, keeping the binding. (R259) -/
  | vsflush (b : XReg)
  /-- Creates a hart from a spawn record. (R89) -/
  | hspawn (o : R2)
  /-- Performs the mortar, writes the exit word and ends the hart. (R90) -/
  | hexit (b : XReg)
  /-- Replaces the hart's or gang's lease. (R92) -/
  | lease (o : R2)
  /-- Arrives at the gang barrier as a gang-scope release. (R94) -/
  | garrive (a : XReg)
  /-- Waits for a barrier phase to complete, as an acquire. (R94) -/
  | gwait (o : R2)
  /-- Waits for a hart to end and frees its id. (R91) -/
  | hjoin (o : R2)
  /-- Starts a copy from a record and binds its mask. (R251) -/
  | cpystart (o : R2)
  /-- Cancels a copy's unstarted chunks. (R254) -/
  | cpycan (b : XReg)
  /-- Returns a copy's state or bytes written. (R255) -/
  | cpystat (o : R3)
  /-- CPYSTAT selector 2 unbinds the mask and frees the slot of a completed copy. (R255) -/
  | cpystatRelease (o : R3)
  /-- Allocates the lowest FREE block id as RESIDENT. (R232) -/
  | balloc (o : R2)
  /-- BALLOC with xB bit 0 set allocates the id in state FAR. (R232) -/
  | ballocFar (o : R2)
  /-- Adds one reference to a block. (R233) -/
  | bref (o : Ord2)
  /-- Drops one reference; at 0 the block retires with an epoch stamp. (R233) -/
  | bfree (o : Ord2)
  /-- Returns a private id for writing, copying a shared block. (R234) -/
  | bcow (o : R2)
  /-- Starts promotion of a FAR block from far memory. (R236) -/
  | bpromo (o : RBC)
  /-- Starts moving accepted draft entries into place and freeing draft blocks. (R237) -/
  | bcompact (b : XReg)
  /-- Advances EPOCH and selects retiring blocks to reclaim. (R240) -/
  | epadv (a : XReg)
  /-- Announces the current epoch for the hart. (R239) -/
  | eprd (o : R2)
  /-- EPRD with xB bit 0 set withdraws the hart's announcement. (R239) -/
  | eprdWithdraw (o : R2)
  /-- Returns block metadata or pool counts. (R235) -/
  | bstat (o : R3)
  /-- Translates positions to pool offsets, recording block faults in a mask. (R228) -/
  | vxlat (o : VVX)
  /-- Translates positions, with block faults trapping or trimming. (R228) -/
  | vxlatf (o : VVX)
  /-- Creates an unsealed index object owned by DOMAIN. (R276) -/
  | ixnew (o : R2)
  /-- Appends a token run to an index object. (R277) -/
  | ixapp (o : R3)
  /-- Seals an index object. (R278) -/
  | ixseal (o : R2)
  /-- Ends an index object and removes it from cursors. (R279) -/
  | ixdrop (b : XReg)
  /-- Adds a domain key to a sealed object's share list. (R280) -/
  | ixshare (o : R3)
  /-- IXSHARE with bit 32 set removes a key from the share list. (R280) -/
  | ixshareRemove (o : R3)
  /-- Creates a cursor, optionally linked to an object. (R282) -/
  | curnew (o : R2)
  /-- Attaches a readable object to a cursor slot in a fixed 96 ticks. (R283) -/
  | curatt (o : R3)
  /-- Appends tokens to W and returns the match length. (R285) -/
  | curfeed (o : R3)
  /-- Proposes up to K draft chains and writes the output area. (R286) -/
  | curprop (o : R3)
  /-- Accepts drafts up to the first disagreement and commits them. (R288) -/
  | curacc (o : R3)
  /-- Undoes the last CURACC of a cursor. (R289) -/
  | curroll (o : R2)
  /-- Ends a cursor. (R290) -/
  | curdrop (b : XReg)
  /-- Returns one field of a cursor. (R291) -/
  | curstat (o : R3)
  /-- Starts a frontier launch and creates its task harts. (R310) -/
  | flaunch (o : R2)
  /-- Returns whether a point is pending, held or done. (R313) -/
  | fpoint (o : R3)
  /-- Finishes the held point as a release and updates the stair table. (R312) -/
  | fdone (o : RBC)
  /-- Asks for the next ready point, waiting in the engine. (R311) -/
  | fnext (o : R2)
  /-- Cuts a launch and saves its frontier. (R317) -/
  | fsave (b : XReg)
  /-- Checks and loads a save area and resumes the launch. (R318) -/
  | fresume (b : XReg)
  /-- Returns a launch field chosen by xC. (R313) -/
  | fquery (o : R3)
  /-- Moves a launch to CANCELLING. (R314) -/
  | fcancel (b : XReg)
  /-- Starts taking a job off every device along a cut. (R348) -/
  | gswitch (b : XReg)
  /-- Starts re-injecting a switched-out job. (R351) -/
  | gresume (b : XReg)
  /-- Returns a fabric job field chosen by xC. (R352) -/
  | fbstat (o : R3)
  /-- Compact move xD := xS. (R60) -/
  | cMov (o : C2)
  /-- Compact xD := L + xS. (R60) -/
  | cAdd (o : C2)
  /-- Compact xD := L − xS. (R60) -/
  | cSub (o : C2)
  /-- Compact xD := L AND xS. (R60) -/
  | cAnd (o : C2)
  /-- Compact xD := L OR xS. (R60) -/
  | cOr (o : C2)
  /-- Compact xD := L XOR xS. (R60) -/
  | cXor (o : C2)
  /-- Compact xD := L << xS. (R60) -/
  | cShl (o : C2)
  /-- Compact xD := L + signed 5-bit immediate. (R60) -/
  | cAddi (o : C2)
  /-- Compact doubleword load at L + 8 × S. (R60) -/
  | cLdd (o : C2)
  /-- Compact xD := L × xS. (R60) -/
  | cMul (o : C2)
  /-- Compact signed compare of L with xS. (R60) -/
  | cSlt (o : C2)
  /-- Compact vector move. (R60) -/
  | cVmov (o : C2)
  /-- Compact vector add with L. (R60) -/
  | cVadd (o : C2)
  /-- Compact vector subtract with L. (R60) -/
  | cVsub (o : C2)
  /-- Compact vector multiply with L. (R60) -/
  | cVmul (o : C2)
  /-- Compact floating vector add with L. (R60) -/
  | cVfadd (o : C2)
  /-- Compact floating vector subtract with L. (R60) -/
  | cVfsub (o : C2)
  /-- Compact floating vector multiply with L. (R60) -/
  | cVfmul (o : C2)
  /-- Compact vD := vD + L × vS. (R60) -/
  | cVfma (o : C2)
  /-- Compact floating vector maximum with L. (R60) -/
  | cVfmax (o : C2)
  /-- Compact floating vector minimum with L. (R60) -/
  | cVfmin (o : C2)
  /-- Compact vector AND with L. (R60) -/
  | cVand (o : C2)
  /-- Compact vector XOR with L. (R60) -/
  | cVxor (o : C2)
  /-- A SETVL waiting for its lease minimum completes once it holds the minimum. (R98) -/
  | setvlGrantWaitEnd (h : HartRef)
  /-- A shrink not taken within WDOG ticks rolls back the victim and takes its bricks. (R99) -/
  | forcedShrink (h : HartRef)
  /-- A pre-emption request is taken at the hart's next commit point. (R211) -/
  | preemption (h : HartRef)
  /-- A pre-emption not taken within WDOG ticks rolls back the strip and takes the hart. (R211) -/
  | watchdogExpiry (h : HartRef)
  /-- CYBUD reaching 0 raises BUDGET before the next fetch and rolls back the strip. (R105) -/
  | budget
  /-- A resident hart with target 0 for WDOG ticks is pre-empted for a waiting hart. (R101) -/
  | residencyEviction (h : HartRef)
  /-- A hart stalled on a full engine queue enqueues its command when room appears. (R7) -/
  | engineQueueAdmit (h : HartRef)
  /-- A write to the watched location ends a WAITA or WAITAW with an acquire. (R125) -/
  | waitaWake (h : HartRef)
  /-- WTIME ticks pass and a WAITA or WAITAW ends with the unchanged value. (R125) -/
  | waitTimeout (h : HartRef)
  /-- A queue entry posted after HALT resumes the halted hart. (R131) -/
  | haltResume (h : HartRef)
  /-- WTIME ticks pass and a halted hart resumes. (R131) -/
  | haltTimeout (h : HartRef)
  /-- TLBINV completes once every strip holding an invalidated translation has committed or rolled back. (R132) -/
  | tlbinvComplete (h : HartRef)
  /-- A copy chunk finishes and its mask bit is set, or it fails with UNCOR. (R252) -/
  | copyChunkDone (o : ObjRef) (chunk : Nat)
  /-- The BCOW block copy finishes or stops, damaging the new block on a fault. (R234) -/
  | bcowCopyDone (h : HartRef)
  /-- A promotion finishes its read and CRC check and writes its completion word. (R236) -/
  | promotionComplete (o : ObjRef)
  /-- A compaction finishes or stops and writes its completion word. (R237) -/
  | compactionComplete (p : PartId)
  /-- Once every engine has passed the epoch, the selected blocks become FREE. (R240) -/
  | epochReclaim (p : PartId)
  /-- The IXDROP hart resumes once no earlier command reads the storage. (R279) -/
  | ixdropStorageReleased (h : HartRef)
  /-- The proposal output area is written and visible, releasing the hart. (R287) -/
  | curpropOutputWritten (h : HartRef)
  /-- A waiting FNEXT receives a ready point (its firing) or −1. (R311) -/
  | fnextServe (o : ObjRef)
  /-- Every task is off its hall, the save area is written, and the launch is SAVED or PARKED. (R317) -/
  | fsaveAreaWritten (o : ObjRef)
  /-- A higher-priority wait lasting WDOG ticks makes the engine park a launch. (R319) -/
  | launchPark (o : ObjRef)
  /-- The host's start message is checked and starts the control hart. (R15) -/
  | startMessage (port : PortRef) (p : Packet)
  /-- A host write of data at a virtual address is performed in arrival order; a holds the header of its packet. (R82) -/
  | hostWrite (a : Arrival) (va : Word) (data : List Byte)
  /-- A remote read packet is checked and performed at the destination's home. (R334) -/
  | read (a : Arrival)
  /-- A read response completes a waiting remote load, or is discarded after rollback. (R333) -/
  | readResponse (a : Arrival)
  /-- A remote write packet is performed at the destination or dropped if refused. (R334) -/
  | write (a : Arrival)
  /-- A write acknowledgement retires an outstanding remote store and may let a commit continue. (R333) -/
  | writeAcknowledgement (a : Arrival)
  /-- A remote atomic packet is performed at the destination. (R334) -/
  | atomic (a : Arrival)
  /-- An atomic response completes a waiting remote atomic. (R333) -/
  | atomicResponse (a : Arrival)
  /-- A marker arriving on an input ends that input's sweep on its VC. (R348) -/
  | marker (tag : BitVec 16) (port : PortRef) (vc : BitVec 2)
  /-- A management packet reaches the management endpoint on VC 2. (R328) -/
  | management (a : Arrival)
  /-- A flit whose CRC fails is replayed from the sender's replay buffer. (R327) -/
  | flitReplay (port : PortRef)
  /-- A returned credit lets a waiting packet be sent on its VC. (R329) -/
  | credit (port : PortRef) (vc : BitVec 2)
  /-- A packet enters a port once the partition's token bucket holds its flits. (R341) -/
  | injectionAdmit (port : PortRef)
  /-- A link trains at four lanes of 200 Gb/s or stays down. (R326) -/
  | linkTraining (port : PortRef) (lanes : BitVec 4)
  /-- A link goes down; its input is closed and packets are re-routed from replay. (R353) -/
  | linkDown (port : PortRef)
  /-- A device reports every job hart off; when all have, injection stops and markers are sent. (R348) -/
  | hartsOff (tag node : BitVec 16)
  /-- All devices report their sweeps; the job becomes OUT or DEAD and the completion word is written. (R348) -/
  | jobSwitchedOut (tag : BitVec 16)
  /-- A job packet after its input's sweep is appended to the late list or overflows. (R350) -/
  | latePacket (port : PortRef) (p : Packet)
  /-- All devices finish re-injection; the job becomes RUNNING and the completion word is written. (R351) -/
  | jobResumed (tag : BitVec 16)
  /-- The management plane configures a partition and the device writes its configuration page. (R336) -/
  | partitionConfigure (cfg : PartCfg)
  /-- The management plane assigns node ids and routes. (R331) -/
  | routeConfigure (node : BitVec 16) (routes : Routing)
  /-- A resize drains, moves, scrubs and reassigns a hall. (R342) -/
  | resizeHall (r : HallResize)
  /-- L2 slices or HBM channels are added to or removed from a partition. (R343) -/
  | resizeMemory (p : PartId) (l2 chans : BitVec 256)
  /-- A 4 KiB granule is migrated to its new home while the partition runs. (R343) -/
  | granuleMigration (p : PartId) (granule : Nat)
  /-- The management plane pre-empts a whole partition. (R9) -/
  | partitionPreemption (p : PartId)
  /-- A host request with a nonce yields a signed attestation report. (R359) -/
  | attestationReport (p : PartId) (nonce : List Byte)
  /-- The host writes 1 to DEVSTAT.UNC to clear it. (R354) -/
  | uncClear
  /-- Reset starts the boot ROM in phase 1 and extends MR0. (R355) -/
  | deviceReset
  /-- The boot ROM's signature and version check of the image completes. (R357) -/
  | firmwareVerify (fw : Firmware)
  /-- Die self-tests complete, leading to reduced service or failure. (R355) -/
  | dieSelfTest (passed : BitVec 4)
  /-- HBM training completes, sets RDY, or fails and withdraws or fails the device. (R356) -/
  | hbmTraining (failed : BitVec 256)
  /-- Once no partition holds a live hart, the device reconfigures for full service. (R356) -/
  | fullServiceReconfigure
  /-- The monitor retires a brick lane after an uncorrectable error, an arbitration event. (R361) -/
  | laneRetirement (hall brick : Nat) (lane : BitVec 4)
  /-- A die at 95 °C sets THR and lowers the clock by 0.3 GHz. (R360) -/
  | throttle
  /-- Below 90 °C the clock is raised again. (R360) -/
  | unthrottle
  /-- At 105 °C every partition stops and the device resets into phase 4. (R360) -/
  | thermalShutdown
  /-- A fetched word with a reserved major, a nonzero must-be-zero field or an unlisted function value raises ILL. (R41) -/
  | reservedEncoding (w : BitVec 32)
  /-- A parcel fetch that fails translation or meets an uncorrectable error raises PAGE, PROT or UNCOR before any decode. (R37) -/
  | fetchFault (f : FetchFault)
  /-- A running copy's up-front translation of its pages faults, or the copy has no chunks, and it completes with that status and no payload byte written. (R252) -/
  | copyTranslationFault (o : ObjRef)
  /-- Exactly 96 ticks after acceptance the CURATT writes xA and its hart goes on. (R283) -/
  | curattResult (h : HartRef)
  deriving DecidableEq, Repr

end Sys2Proof
end

