-- ==== Sys2Proof/WellFormed.lean ====
section
/-! DEFINITION. What an instruction must satisfy beyond the widths of its fields: the limits that R42 to R55 state as decode
faults on field values, and the limits of an event's data. The checks that depend on the state (SHAPE, NREG, LDL, the mode) are
made when the instruction executes. -/

namespace Sys2Proof

/-- The format codes that the table of R165 lists. -/
def isFormat (c : BitVec 6) : Bool :=
  c.toNat < 0x0C || (0x11 ≤ c.toNat && c.toNat ≤ 0x17) || (0x19 ≤ c.toNat && c.toNat ≤ 0x1F) ||
    (0x21 ≤ c.toNat && c.toNat ≤ 0x27) || (0x29 ≤ c.toNat && c.toNat ≤ 0x2F)

/-- A packet's length and payload lie within R328: at most 268 bytes, 28 in the header and four flits of 60. -/
def Packet.wf (p : Packet) : Bool :=
  decide (p.len ≤ 268) && decide (p.payload.length ≤ 268)

/-- The port codes of R349. -/
def PortRef.wf (p : PortRef) : Bool :=
  decide (p.k.toNat ≤ 11)

/-- A hall list names halls of the device, each once (R2, R11). -/
def hallsWf (hs : List Nat) : Bool :=
  !hs.isEmpty && hs.all (fun h => decide (h < 48)) && decide hs.Nodup

/-- The number of ones of a 256-bit mask. -/
def ones256 (m : BitVec 256) : Nat :=
  ((List.range 256).filter (fun i => m.getLsbD i)).length

/-- The limits of a configuration: R2, R11, R336, R337. -/
def PartCfg.wf (c : PartCfg) : Bool :=
  hallsWf c.halls && decide (4 ≤ ones256 c.l2) && decide (8 ≤ ones256 c.chans) &&
    decide (c.faultBase % 64 = 0) && decide (c.intrBase % 64 = 0) &&
    decide (4 ≤ c.faultLog ∧ c.faultLog ≤ 16) && decide (4 ≤ c.intrLog ∧ c.intrLog ≤ 16) &&
    decide (c.lateCap ≤ 1024) && decide (c.ctrlTags.length ≤ 4) && decide (c.memSize ≤ ones256 c.chans * 1500000000)

/-- The halls a resize names are halls of the device (R2). -/
def HallResize.wf : HallResize → Bool
  | .remove _ src dst => decide (src < 48) && decide (dst < 48) && src != dst
  | .add _ hall => decide (hall < 48)

/-- Well-formed instructions and events. -/
def Instr.wf : Instr → Bool
  | .add _ => true
  | .sub _ => true
  | .and _ => true
  | .or _ => true
  | .xor _ => true
  | .andn _ => true
  | .shl _ => true
  | .shr _ => true
  | .sra _ => true
  | .rol _ => true
  | .ror _ => true
  | .slt _ => true
  | .sltn _ => true
  | .min _ => true
  | .max _ => true
  | .minn _ => true
  | .maxn _ => true
  | .mul _ => true
  | .mulh _ => true
  | .mulhn _ => true
  | .div _ => true
  | .divn _ => true
  | .rem _ => true
  | .remn _ => true
  | .clz _ => true
  | .ctz _ => true
  | .popc _ => true
  | .sext o => decide (o.w.toNat ≤ 2)
  | .zext o => decide (o.w.toNat ≤ 2)
  | .addw _ => true
  | .subw _ => true
  | .addi _ => true
  | .andi _ => true
  | .ori _ => true
  | .xori _ => true
  | .slti _ => true
  | .sltni _ => true
  | .shli _ => true
  | .shri _ => true
  | .srai _ => true
  | .rori _ => true
  | .lui _ => true
  | .addpc _ => true
  | .ldb _ => true
  | .ldh _ => true
  | .ldw _ => true
  | .ldd _ => true
  | .ldbn _ => true
  | .ldhn _ => true
  | .ldwn _ => true
  | .stb _ => true
  | .sth _ => true
  | .stw _ => true
  | .std _ => true
  | .beq _ => true
  | .bne _ => true
  | .blt _ => true
  | .bge _ => true
  | .bltn _ => true
  | .bgen _ => true
  | .jal _ => true
  | .jalr _ => true
  | .fadd _ => true
  | .fsub _ => true
  | .fmul _ => true
  | .fdiv _ => true
  | .fsqrt _ => true
  | .fmin _ => true
  | .fmax _ => true
  | .fmadd _ => true
  | .feq _ => true
  | .flt _ => true
  | .fle _ => true
  | .fcvti _ => true
  | .fcvtn _ => true
  | .fcvtf _ => true
  | .fcvtfn _ => true
  | .fcvtp _ => true
  | .fclass _ => true
  | .fsgnj _ => true
  | .aaddD o => decide (o.scope.toNat ≤ 5)
  | .aaddW o => decide (o.scope.toNat ≤ 5)
  | .aswpD o => decide (o.scope.toNat ≤ 5)
  | .aswpW o => decide (o.scope.toNat ≤ 5)
  | .acasD o => decide (o.scope.toNat ≤ 5)
  | .acasW o => decide (o.scope.toNat ≤ 5)
  | .aandD o => decide (o.scope.toNat ≤ 5)
  | .aorD o => decide (o.scope.toNat ≤ 5)
  | .axorD o => decide (o.scope.toNat ≤ 5)
  | .aminD o => decide (o.scope.toNat ≤ 5)
  | .amaxD o => decide (o.scope.toNat ≤ 5)
  | .aminnD o => decide (o.scope.toNat ≤ 5)
  | .amaxnD o => decide (o.scope.toNat ≤ 5)
  | .ldaqD o => decide (o.scope.toNat ≤ 5)
  | .strlD o => decide (o.scope.toNat ≤ 5)
  | .ldaqW o => decide (o.scope.toNat ≤ 5)
  | .strlW o => decide (o.scope.toNat ≤ 5)
  | .fence o => o.kinds != 0 && decide (o.scope.toNat ≤ 5)
  | .waita _ => true
  | .waitaw _ => true
  | .yield => true
  | .rdcr _ => true
  | .wrcr _ => true
  | .prioWrite _ => true
  | .frndWrite _ => true
  | .poolRegisterWrite _ => true
  | .domainwWrite _ => true
  | .ptrootWrite _ => true
  | .trap _ => true
  | .brk => true
  | .tret => true
  | .halt => true
  | .vsave _ => true
  | .vrestore _ => true
  | .tlbinv o => decide (o.k.toNat ≤ 2)
  | .icsync => true
  | .setvl _ => true
  | .setshape _ => true
  | .vconf n => decide (n.toNat ≤ 2)
  | .vclose => true
  | .setshapei _ => true
  | .vldu _ => true
  | .vlds _ => true
  | .vldx _ => true
  | .vldb _ => true
  | .vld2d _ => true
  | .vstu _ => true
  | .vsts _ => true
  | .vstx _ => true
  | .vstuu _ => true
  | .vstxu _ => true
  | .vst2d _ => true
  | .vadd _ => true
  | .vsub _ => true
  | .vmul _ => true
  | .vmulh _ => true
  | .vmulhn _ => true
  | .vdiv _ => true
  | .vdivn _ => true
  | .vrem _ => true
  | .vremn _ => true
  | .vmin _ => true
  | .vmax _ => true
  | .vminn _ => true
  | .vmaxn _ => true
  | .vand _ => true
  | .vor _ => true
  | .vxor _ => true
  | .vshl _ => true
  | .vshr _ => true
  | .vsra _ => true
  | .vsadd _ => true
  | .vsaddn _ => true
  | .vssub _ => true
  | .vssubn _ => true
  | .vabsd _ => true
  | .vmacc _ => true
  | .vaddX _ => true
  | .vsubX _ => true
  | .vmulX _ => true
  | .vmulhX _ => true
  | .vmulhnX _ => true
  | .vdivX _ => true
  | .vdivnX _ => true
  | .vremX _ => true
  | .vremnX _ => true
  | .vminX _ => true
  | .vmaxX _ => true
  | .vminnX _ => true
  | .vmaxnX _ => true
  | .vandX _ => true
  | .vorX _ => true
  | .vxorX _ => true
  | .vshlX _ => true
  | .vshrX _ => true
  | .vsraX _ => true
  | .vsaddX _ => true
  | .vsaddnX _ => true
  | .vssubX _ => true
  | .vssubnX _ => true
  | .vabsdX _ => true
  | .vmaccX _ => true
  | .vfadd _ => true
  | .vfsub _ => true
  | .vfmul _ => true
  | .vfdiv _ => true
  | .vfmin _ => true
  | .vfmax _ => true
  | .vfsgnj _ => true
  | .vfsgnjn _ => true
  | .vfsqrt _ => true
  | .vfrsqrt _ => true
  | .vfrcp _ => true
  | .vfexp2 _ => true
  | .vflog2 _ => true
  | .vfabs _ => true
  | .vfneg _ => true
  | .vfclass _ => true
  | .vfma _ => true
  | .vfms _ => true
  | .vfnma _ => true
  | .vfscale _ => true
  | .vfwadd _ => true
  | .vfwmul _ => true
  | .vfwma _ => true
  | .vfaddX _ => true
  | .vfsubX _ => true
  | .vfmulX _ => true
  | .vfdivX _ => true
  | .vfminX _ => true
  | .vfmaxX _ => true
  | .vfsgnjX _ => true
  | .vfsgnjnX _ => true
  | .vfmaX _ => true
  | .vfmsX _ => true
  | .vfnmaX _ => true
  | .vfscaleX _ => true
  | .vfwaddX _ => true
  | .vfwmulX _ => true
  | .vfwmaX _ => true
  | .vcvt o => isFormat o.d
  | .vceq _ => true
  | .vcne _ => true
  | .vclt _ => true
  | .vcle _ => true
  | .vcltn _ => true
  | .vclen _ => true
  | .vfceq _ => true
  | .vfclt _ => true
  | .vfcle _ => true
  | .vfcun _ => true
  | .vceqX _ => true
  | .vcneX _ => true
  | .vcltX _ => true
  | .vcleX _ => true
  | .vcltnX _ => true
  | .vclenX _ => true
  | .vfceqX _ => true
  | .vfcltX _ => true
  | .vfcleX _ => true
  | .vfcunX _ => true
  | .mand _ => true
  | .mor _ => true
  | .mxor _ => true
  | .mandn _ => true
  | .mnot _ => true
  | .mpop _ => true
  | .mfirst _ => true
  | .msetx _ => true
  | .mclr _ => true
  | .viota _ => true
  | .vidx _ => true
  | .mmovv _ => true
  | .vrsumo _ => true
  | .vrsumt _ => true
  | .vrmaxf _ => true
  | .vrminf _ => true
  | .vrmaxfi _ => true
  | .vrsum _ => true
  | .vrmax _ => true
  | .vrmin _ => true
  | .vrmaxn _ => true
  | .vrminn _ => true
  | .vrand _ => true
  | .vror _ => true
  | .vrxor _ => true
  | .vrmaxi _ => true
  | .vrgath _ => true
  | .vslup _ => true
  | .vsldn _ => true
  | .vcmpr o => o.m != 0
  | .vmerge o => o.m != 0
  | .vmvs _ => true
  | .vmvx _ => true
  | .vbcst _ => true
  | .vmov _ => true
  | .xchg _ => true
  | .tmac o => o.r != 3 && decide (o.t.toNat + 2 ^ o.r.toNat ≤ 4)
  | .tzero _ => true
  | .trow _ => true
  | .tsetrow _ => true
  | .vbind _ => true
  | .vunbind _ => true
  | .vspos _ => true
  | .vsflush _ => true
  | .hspawn _ => true
  | .hexit _ => true
  | .lease _ => true
  | .garrive _ => true
  | .gwait _ => true
  | .hjoin _ => true
  | .cpystart _ => true
  | .cpycan _ => true
  | .cpystat _ => true
  | .cpystatRelease _ => true
  | .balloc _ => true
  | .ballocFar _ => true
  | .bref _ => true
  | .bfree _ => true
  | .bcow _ => true
  | .bpromo _ => true
  | .bcompact _ => true
  | .epadv _ => true
  | .eprd _ => true
  | .eprdWithdraw _ => true
  | .bstat _ => true
  | .vxlat _ => true
  | .vxlatf _ => true
  | .ixnew _ => true
  | .ixapp _ => true
  | .ixseal _ => true
  | .ixdrop _ => true
  | .ixshare _ => true
  | .ixshareRemove _ => true
  | .curnew _ => true
  | .curatt _ => true
  | .curfeed _ => true
  | .curprop _ => true
  | .curacc _ => true
  | .curroll _ => true
  | .curdrop _ => true
  | .curstat _ => true
  | .flaunch _ => true
  | .fpoint _ => true
  | .fdone _ => true
  | .fnext _ => true
  | .fsave _ => true
  | .fresume _ => true
  | .fquery _ => true
  | .fcancel _ => true
  | .gswitch _ => true
  | .gresume _ => true
  | .fbstat _ => true
  | .cMov _ => true
  | .cAdd _ => true
  | .cSub _ => true
  | .cAnd _ => true
  | .cOr _ => true
  | .cXor _ => true
  | .cShl _ => true
  | .cAddi _ => true
  | .cLdd _ => true
  | .cMul _ => true
  | .cSlt _ => true
  | .cVmov _ => true
  | .cVadd _ => true
  | .cVsub _ => true
  | .cVmul _ => true
  | .cVfadd _ => true
  | .cVfsub _ => true
  | .cVfmul _ => true
  | .cVfma _ => true
  | .cVfmax _ => true
  | .cVfmin _ => true
  | .cVand _ => true
  | .cVxor _ => true
  | .setvlGrantWaitEnd _ => true
  | .forcedShrink _ => true
  | .preemption _ => true
  | .watchdogExpiry _ => true
  | .budget => true
  | .residencyEviction _ => true
  | .engineQueueAdmit _ => true
  | .waitaWake _ => true
  | .waitTimeout _ => true
  | .haltResume _ => true
  | .haltTimeout _ => true
  | .tlbinvComplete _ => true
  | .copyChunkDone _ _ => true
  | .bcowCopyDone _ => true
  | .promotionComplete _ => true
  | .compactionComplete _ => true
  | .epochReclaim _ => true
  | .ixdropStorageReleased _ => true
  | .curpropOutputWritten _ => true
  | .fnextServe _ => true
  | .fsaveAreaWritten _ => true
  | .launchPark _ => true
  | .startMessage _ p => p.wf && p.payload.length == 64
  | .hostWrite a va data => (a.packet.carrying va data).wf
  | .read a => a.packet.wf
  | .readResponse a => a.packet.wf
  | .write a => a.packet.wf
  | .writeAcknowledgement a => a.packet.wf
  | .atomic a => a.packet.wf
  | .atomicResponse a => a.packet.wf
  | .marker _ port _ => port.wf
  | .management a => a.packet.wf
  | .flitReplay port => port.wf
  | .credit port _ => port.wf
  | .injectionAdmit port => port.wf
  | .linkTraining port _ => port.wf
  | .linkDown port => port.wf
  | .hartsOff _ _ => true
  | .jobSwitchedOut _ => true
  | .latePacket port p => port.wf && p.wf
  | .jobResumed _ => true
  | .partitionConfigure cfg => cfg.wf
  | .routeConfigure _ _ => true
  | .resizeHall r => r.wf
  | .resizeMemory _ _ _ => true
  | .granuleMigration _ _ => true
  | .partitionPreemption _ => true
  | .attestationReport _ nonce => nonce.length == 32
  | .uncClear => true
  | .deviceReset => true
  | .firmwareVerify fw => decide (64 ≤ fw.image.length) && fw.key.length == 48 && fw.signature.length == 16224
  | .dieSelfTest _ => true
  | .hbmTraining _ => true
  | .fullServiceReconfigure => true
  | .laneRetirement hall brick _ => decide (hall < 48) && decide (brick < 12)
  | .throttle => true
  | .unthrottle => true
  | .thermalShutdown => true
  | .reservedEncoding _ => true
  | .fetchFault _ => true
  | .copyTranslationFault _ => true
  | .curattResult _ => true

/-- The rows that share the word of another row and differ from it by an operand's value: the decoder gives the other row
(DEDUCED, log entry 47). -/
def Instr.isAlias : Instr → Bool
  | .cpystatRelease _ | .ballocFar _ | .eprdWithdraw _ | .ixshareRemove _ => true
  | _ => false

end Sys2Proof
end

