-- ==== Sys2Proof/Config.lean ====
section
/-! DEFINITION. What one implementation fixes, and the free values: constants without a body, which nothing in Lean can evaluate,
for the values the manual leaves open. -/

namespace Sys2Proof.Config

/-- FREE VALUE (log entry 4): the ticks that pass in one step; the manual gives no cycle counts that bind. -/
opaque ticks : Nat → Nat

/-- FREE VALUE (log entry 6): a byte of a copy chunk that failed or was not finished (R252, R254). -/
opaque staleByte : Nat → Byte

/-- FREE VALUE (log entry 17): byte i of an index object's storage, by its handle and its tokens; the layout is private to the
device (R271). -/
opaque indexByte : Slot → List Slot → Nat → Byte

/-- FREE VALUE (log entry 17): the tokens that the engine finds in a storage that something else has written, by those that it
put there and by the bytes (R271). -/
opaque indexFound : List Slot → List Byte → List Slot

/-- FREE VALUE (log entry 53): which L2 slice, of as many as a partition has, is the home of a physical address (R3). -/
opaque homeSlice : Nat → Nat → Nat

/-- FREE VALUE (log entry 46): the unit, and the slot of it, that an uncorrectable error in a brick's lane has made unreadable
(R361). -/
opaque lostUnit : Nat → Nat

/-- FREE VALUE (log entry 51): what a hart's vector state holds where a VRESTORE has loaded another's into its bricks (R216), by the
restore, the register, mask or tile row, and the slot. -/
opaque straySlot : Nat → Nat → Nat → Slot

/-- FREE VALUE (log entry 52): a byte of the hart-context region after the device has saved a hart there (R212). -/
opaque contextByte : Nat → Byte

/-- FREE VALUE (log entry 7): the digest of the boot ROM, with which MR0 is extended at reset (R358). -/
opaque bootRomDigest : Nat → Byte

/-- FREE VALUE (log entry 7): byte i of the identity signature over a report (R358, R359); the manual gives no key. -/
opaque identitySignature : List Byte → Nat → Byte

/-- FREE VALUE (log entry 7): the identity public key, 32 bytes, and the vendor's certificate of it (R358). -/
opaque identityKey : Nat → Byte
opaque identityCertificate : Nat → Byte

/-- FREE VALUE (log entry 7): the fused SHA-256 digest of the vendor's public key (R357). -/
opaque vendorDigest : Nat → Byte

/-- FREE VALUE (log entry 7): whether SLH-DSA-SHA2-192s (FIPS 205, pure, empty context) accepts a signature over a message under a
key (R357); the manual names the algorithm and does not give it. -/
opaque slhVerify : List Byte → List Byte → List Byte → Bool

/-- FREE VALUE (log entry 7): the fused minimum firmware version (R357). -/
opaque minVersion : Nat → BitVec 32

/-- The first address of the hall scratchpad window (R4). -/
def padBase : Nat := 0x000FFF0000000000

/-- The size of a hall's scratchpad, 24 MiB (R4, R162). -/
def padSize : Nat := 24 * 2 ^ 20

/-- The end of the scratchpad window (R155). -/
def padEnd : Nat := 2 ^ 52

/-- Bricks per hall and lanes per brick (R2). -/
def bricksPerHall : Nat := 12
def lanesPerBrick : Nat := 16

/-- Sequencers per hall and resident harts of each (R2, R101). -/
def sequencers : Nat := 8
def slotsPerSequencer : Nat := 4

/-- Harts of a partition (R84, R89). -/
def maxHarts : Nat := 4096

/-- Entries of a hall's translation cache (R157). -/
def tlbEntries : Nat := 4096

/-- Commands an engine queue holds for one hart (R7). -/
def queueDepth : Nat := 16

/-- The bytes of an HBM channel and the bytes of a granule (R2, R3, R343). -/
def channelSize : Nat := 1500000000
def granule : Nat := 4096

/-- Packets of one VC that a local egress queue and a gallery input hold (R329). -/
def egressDepth : Nat := 16
def galleryDepth : Nat := 8

/-- The bytes of a packet that the model puts into one write or asks for in one read: at most 268 (R328; log entry 13). -/
def packetBytes : Nat := 256

end Sys2Proof.Config
end

