-- ==== Sys2Proof/Machine/State.lean ====
section
/-! DEFINITION. The state of the machine, as plain data, and the state after reset. Everything the manual gives the device is
here: the harts and their vector contexts, the partitions and their engine objects, the device, and memory. -/

namespace Sys2Proof.Machine

/-- Reasons for which the model stops. -/
inductive Fault where
  /-- Raised by an access whose translation names a physical address at or beyond the partition's memory size (R336): the manual
  gives no outcome. Safe: the model stops where the hardware goes on. -/
  | beyondMemory (pa : Nat)
  deriving DecidableEq, Repr

/-- Reasons for which an instruction has no meaning. -/
inductive Refusal where
  /-- Raised by exec for an instruction whose meaning is not written. Safe. -/
  | notModelled (mnemonic : String)
  deriving DecidableEq, Repr

/-- Memory: cells in ascending address order, none holding the byte that an unlisted address reads as. The address of a cell is a
key: partition × 2^48 + partition-relative physical address, or 2^52 + hall × 2^25 + scratchpad offset. -/
abbrev Memory := List Host.Cell

/-- Whether a list of cells has ascending addresses and no zero byte. -/
def cellsWf : List Host.Cell → Bool
  | [] => true
  | [c] => c.2 != 0
  | c :: d :: rest => c.2 != 0 && decide (c.1 < d.1) && cellsWf (d :: rest)

/-- The canonical form of memory. -/
def Memory.wf (m : Memory) : Bool := cellsWf m

/-- The engines that take commands (R5). -/
inductive EngineKind where
  | blk
  | copy
  | span
  | front
  | fab
  deriving DecidableEq, Repr

/-- User or supervisor (R84). -/
inductive Mode where
  | user
  | supervisor
  deriving DecidableEq, Repr

/-- What a waiting hart waits for. In the waits marked 'issued again' the program counter is still the instruction's. -/
inductive Wait where
  /-- SETVL, for its lease minimum (R98); issued again. -/
  | grant
  /-- WAITA or WAITAW: the location, its bytes, the compared value and the destination (R125). -/
  | value (key n : Nat) (cmp : Word) (rd : XReg)
  /-- HALT, and the number of queue entries posted when it stopped (R131). -/
  | halt (posted : Nat)
  /-- GARRIVE, while this member has arrived in the phase in progress (R94); issued again. -/
  | arrive
  /-- GWAIT (R94); issued again. -/
  | phase
  /-- HJOIN of a hart (R91); issued again. -/
  | join (id : Nat)
  /-- A full engine queue (R7); issued again. -/
  | queue (e : EngineKind)
  /-- FNEXT (R311). -/
  | fnext (handle : Slot) (rd : XReg)
  /-- BCOW of a block whose promotion runs (R234); issued again. -/
  | promotion
  /-- A block command behind a reclamation (R240); issued again. -/
  | reclaim
  /-- CURATT, until the 96 ticks have passed (R283). -/
  | curatt (rd : XReg) (result : Word)
  /-- A frontier command behind a save (R307); issued again. -/
  | saving (handle : Slot)
  /-- TLBINV, while another open strip holds an invalidated translation (R132); issued again. -/
  | tlbinv
  /-- A commit, while acknowledgements of remote stores are outstanding (R333); issued again. -/
  | acks
  /-- A remote load, until the response with n bytes at the key (R333); issued again. -/
  | remote (key n : Nat)
  /-- A hart that a trap ends with an exit value, until its stores are performed and acknowledged (R208, R333). -/
  | ending (v : Word)
  /-- A remote atomic with its destination, until its response (R333). -/
  | atomic (key n : Nat) (rd : XReg)
  /-- GSWITCH or GRESUME, until the job's state admits it (R347); issued again. -/
  | job
  /-- GSWITCH or GRESUME of a job, while a pre-emption of its partition is in progress (R10); issued again. -/
  | leaving (tag : BitVec 16)
  deriving DecidableEq, Repr

/-- What a hart that has completed an engine instruction still waits for before it issues, wherever it resumes. -/
inductive Hold where
  /-- The copy of a BCOW to a block, with its issuer, the EPOCH at its acceptance, and what the copy came to (R234, R238). -/
  | cow (dst ordinal : Nat) (epoch : Word) (status : BitVec 8)
  /-- The output of a CURPROP, as bytes at keys (R287). -/
  | output (cells : List (Nat × List Byte))
  /-- The storage of an object that IXDROP ended (R279). -/
  | storage
  /-- The save area of a launch, which FSAVE asked for (R317). -/
  | save (handle : Slot)
  deriving DecidableEq, Repr

/-- Why a hart is off its sequencer. -/
inductive Off where
  /-- It waits for a resident slot (R101, R211). -/
  | slot
  /-- Its launch is saved or parked (R317, R319). -/
  | launch (handle : Slot)
  /-- Its job is switched out (R348). -/
  | job
  /-- It is taken off by the management plane, and waits for a resident slot (R9, R342). -/
  | managed
  /-- Its target is 0: it leaves its bricks and stays resident (R96, R211). -/
  | bricks
  deriving DecidableEq, Repr

/-- The run state of a hart. -/
inductive HartStatus where
  /-- There is no such hart. -/
  | absent
  /-- It executes when it is scheduled. -/
  | ready
  | waiting (w : Wait)
  | off (why : Off)
  /-- Held at a continuation checkpoint until it has the bricks of its VL (R100). -/
  | held
  /-- Ended, and not joined if it is not detached (R90). -/
  | ended
  deriving DecidableEq, Repr

/-- One store in the mortar, in program order (R145): its virtual address, where it lies, the bytes, and the leaf entry whose A
and D bits its page needs at commit (R161); none for the scratchpad. -/
structure Store where
  va : Word
  key : Nat
  data : List Byte
  leaf : Option Nat
  deriving DecidableEq, Repr

/-- A bound stream (R256, R257); its position is part of the strip. -/
structure Binding where
  reg : VReg
  base : Word
  stride : Word
  len : Nat
  fmt : BitVec 6
  store : Bool
  sblog : Nat
  scale : Word
  sstride : Word
  recVa : Word
  deriving DecidableEq, Repr

/-- A translation that an open strip holds (R132): its root, the level of its leaf, its page at that level, and whether it is
global. -/
structure PageUse where
  root : Word
  level : Nat
  vpn : Nat
  glob : Bool
  deriving DecidableEq, Repr

/-- A tile: 16 rows of slots (R201). -/
abbrev Tile := Vector (List Slot) 16

/-- The state a strip may change and a rollback restores (R205). A vector register is its slots in order, a mask its bits, a tile
row its columns; what lies beyond the end of a list reads as zero. lost: the slots that an uncorrectable error has made unreadable
(R361), by unit, 0 to 31 for a register and 32 + 16 t + row for a tile row, and by slot. -/
structure Strip where
  pc : Word
  x : Vector Word 32
  vl : BitVec 32
  shape : BitVec 15
  ldl : BitVec 7
  efc : Word
  sbase : Word
  v : Vector (List Slot) 32
  m : Vector (List Bool) 8
  t : Vector Tile 4
  pos : List (VReg × Nat)
  lost : List (Nat × Nat)
  deriving DecidableEq, Repr

/-- Everything a hart owns (R84). rerun: the strip was rolled back to its SETVL, which has not executed again (R144). atSetvl:
the checkpoint is a SETVL (R99, R100). stale: the open strip holds an invalidated translation (R132). hold: what the hart
waits for before it issues again (R234, R279, R287, R317). outgoing:
stores of a committed strip that wait for acknowledgements of remote stores before them (R333). staleOut: such stores, or remote
stores not acknowledged, belong to a strip that held an invalidated translation (R132). gkey: the age of its gang, which no other
gang of the partition has. asked: the request whose response the hart awaits; acks: its remote stores not acknowledged, by their
node and request; reply and refused: responses that have come for the instruction in progress, and keys whose read was refused
(R333, R334). queued: engine kinds in whose queue a command of the hart lies (R7). reading: the engine whose objects its command reads on another
device (R8). cut: the least number of lanes of its grants since its vector state was last in
place, where a change of the grant has still to be carried out (R213). -/
structure Hart where
  pid : PartId
  id : Nat
  serial : Nat
  status : HartStatus
  mode : Mode
  live : Strip
  ckpt : Strip
  ckptSetvl : Bool
  rerun : Bool
  atSetvl : Bool
  mortar : List Store
  outgoing : List Store
  trim : Option Nat
  cut : Option Nat
  pages : List PageUse
  stale : Bool
  staleOut : Bool
  nreg : Nat
  vlgrant : BitVec 32
  bricks : Nat
  lmod : Nat
  dies : Nat
  grant : List (Nat × Nat)
  srseed : Word
  srstream : Word
  rad : BitVec 4
  frnd : BitVec 3
  wtime : Word
  domain : Slot
  instret : Word
  pending : Nat
  tstat : Word
  tcause : BitVec 8
  tepc : Word
  tval : Word
  tvalx : Word
  tvec : Word
  tscr : Word
  tldl : BitVec 7
  wdog : Slot
  cybud : Word
  ptroot : Word
  prio : BitVec 2
  vowner : Word
  gang : Nat
  gkey : Nat
  hall : Nat
  slot : Option Nat
  spread : Bool
  detached : Bool
  exitVa : Word
  binds : List Binding
  bound : List (MReg × Slot)
  announce : Option Word
  claim : Option Nat
  preempt : Option Off
  asked : Option Nat
  acks : List (BitVec 16 × Nat)
  reply : List (Nat × List Byte)
  refused : List Nat
  hold : Option Hold
  reading : Option EngineKind
  queued : List EngineKind
  accepted : List EngineKind
  entries : Nat
  deriving DecidableEq, Repr

/-- A gang: its lease, its place in the arbiter, its barrier, and its grant for the phase (R85, R93, R96, R98). Its age, the order
in which it was formed, is what its harts know it by: GANGID may come to name another gang once its first member has ended. -/
structure Gang where
  id : Nat
  declared : Nat
  joined : Nat
  size : Nat
  hall : Nat
  min : Nat
  pref : Nat
  prio : Nat
  age : Nat
  phase : BitVec 32
  arrived : List Nat
  phaseGrant : Option Nat
  deriving DecidableEq, Repr

/-- The address space and the issuer an engine command keeps: page-table root, privilege, hart, engine and acceptance ordinal
(R225, R251, R339), and the die of the issuing hart's sequencer, whose engine takes the command (R6). -/
structure Issuer where
  engine : EngineKind
  root : Word
  mode : Mode
  hart : Nat
  serial : Nat
  ordinal : Nat
  die : Nat
  deriving DecidableEq, Repr

/-- The state of a copy, by the codes of CPYSTAT (R255). -/
inductive CopyState where
  | running
  | complete
  | faulted
  | cancelled
  deriving DecidableEq, Repr

/-- A copy in its slot (R246 to R252). status is the cause of its first failed translation, or 0; srcMap and dstMap are the
translations made at its start, from 64 KiB page numbers to keys. epoch: EPOCH at its acceptance (R238). -/
structure Copy where
  handle : Slot
  by_ : Issuer
  epoch : Word
  src : Word
  dst : Word
  bytes : Nat
  rows : Nat
  stride : Nat
  strDst : Bool
  chunkLog : Nat
  mask : MReg
  intr : Bool
  cword : Word
  cval : Word
  state : CopyState
  status : BitVec 8
  srcMap : List (Nat × Nat)
  dstMap : List (Nat × Nat)
  done : List Nat
  failed : List Nat
  deriving DecidableEq, Repr

/-- The end of a command, whose completion word waits for its payload (R78) or for a table on another device (R333): the address
space, the command that has written the payload, and the EPOCH at acceptance where the command counts for it (R238); the address of the word, and its key where the command
keeps a translation (R309); its value; v1 of the entries; the status; the kind, cause and v1 of an interrupt entry; and the copy with
its last state, or the launch. asked, reply and refused: what has come of its reads of another device. -/
structure Completion where
  by_ : Issuer
  payload : Issuer
  epoch : Option Word
  va : Word
  key : Option Nat
  val : Word
  v1 : Word
  status : BitVec 8
  intr : Option (Nat × BitVec 8 × Word)
  copy : Option (Slot × CopyState)
  launch : Option Slot
  asked : Option Nat
  reply : List (Nat × List Byte)
  refused : List Nat
  deriving DecidableEq, Repr

/-- A host write that is not performed yet: its pieces and bytes, and what has come of its reads of another device (R82, R333). -/
structure HostWork where
  pieces : List (Nat × Nat)
  bytes : List Byte
  asked : Option Nat
  reply : List (Nat × List Byte)
  refused : List Nat
  deriving DecidableEq, Repr

/-- A running promotion (R236), with EPOCH at its acceptance (R238), and what has come of its reads of another device's memory
(R333). -/
structure Promotion where
  id : Nat
  by_ : Issuer
  epoch : Word
  asked : Option Nat
  reply : List (Nat × List Byte)
  refused : List Nat
  recVa : Word
  far : Word
  crc : Slot
  cword : Word
  cval : Word
  deriving DecidableEq, Repr

/-- A compaction (R237): its record, and EPOCH at its acceptance (R238). status: what its work came to; its completion word is not
written yet. -/
structure Compaction where
  by_ : Issuer
  epoch : Word
  recVa : Word
  table : Word
  p0 : Nat
  stride : Nat
  chain : Nat
  chains : Nat
  accepted : Nat
  cword : Word
  cval : Word
  status : BitVec 8
  deriving DecidableEq, Repr

/-- An index object (R271). base and pages: the address of its storage, and the keys of its 64 KiB pages. -/
structure IxObj where
  handle : Slot
  owner : Slot
  isSealed : Bool
  share : List Slot
  tokens : List Slot
  cap : Nat
  base : Word
  pages : List Nat
  deriving DecidableEq, Repr

/-- A draft chain (R286). -/
structure Chain where
  tokens : List Slot
  slot : Nat
  len : Nat
  deriving DecidableEq, Repr

/-- The mark of the last CURACC: the lengths before it and the tokens it committed (R288, R289). -/
structure Mark where
  wLen : Nat
  linked : Option (Slot × Nat)
  committed : Nat
  deriving DecidableEq, Repr

/-- A cursor (R281). -/
structure Cursor where
  handle : Slot
  domain : Slot
  w : List Slot
  slots : Vector (Option Slot) 4
  linked : Option Slot
  proposal : Option (List Chain)
  mark : Option Mark
  accDrafts : Word
  acceptances : Word
  proposed : Word
  proposals : Word
  committed : Word
  deriving DecidableEq, Repr

/-- The launch states of R307. -/
inductive LaunchState where
  | running
  | saving
  | saved
  | parked
  | cancelling
  | done
  deriving DecidableEq, Repr

/-- A task hart of a launch, the point it holds, and whether it has ended (R304, R316). -/
structure Task where
  hart : Nat
  held : Option Word
  ended : Bool
  deriving DecidableEq, Repr

/-- A launch: its record, its stair table and its tasks (R297 to R307). -/
structure Launch where
  handle : Slot
  by_ : Issuer
  dims : Nat
  deps : List (Int × Int × Int)
  ext : Nat × Nat × Nat
  prio : Nat
  intr : Bool
  saveVa : Word
  savePages : List (Nat × Nat)
  cwordKey : Nat
  cwordHs : Bool
  cwordVa : Word
  cval : Word
  state : LaunchState
  rows : List (Nat × Word)
  tasks : List Task
  waiting : List Nat
  saveBy : Nat
  failed : Bool
  wordWritten : Bool
  deriving DecidableEq, Repr

/-- A partition: its configuration and the objects its harts share. -/
structure Partition where
  configured : Bool
  cfg : PartCfg
  bpbase : Word
  bszlog : Word
  tpb : Word
  tokb : Word
  epoch : Word
  gangs : List Gang
  nextAge : Nat
  nextSerial : Nat
  copies : List Copy
  promotions : List Promotion
  compactions : List Compaction
  completions : List Completion
  hostWork : List HostWork
  reclaim : Option (Issuer × List Nat)
  objects : List IxObj
  ixGens : List (Nat × Nat)
  cursors : List Cursor
  curGens : List (Nat × Nat)
  launches : List Launch
  launchGens : List (Nat × Nat)
  posted : Nat
  kind8 : Nat
  kind9 : Nat
  deriving DecidableEq, Repr

/-- Who made a request of another device: a hart, by its id and serial number; an engine for a command, with v1 and v2 of the
entry where it writes a completion word (R364); the block engine for the promotion of a block (R236); the end of a command; the host's
write to a partition (R82); or a hart that ends, for its exit word at va and the sequence number of the entry that a refusal posts
(R90). -/
inductive Origin where
  | hart (id serial : Nat)
  | engine (b : Issuer) (word : Option (Word × Word))
  | promotion (id : Nat)
  | completion (b : Issuer)
  | host
  | exit (id seq : Nat) (va v : Word)
  deriving DecidableEq, Repr

/-- A request that has been sent to another device and not answered: its number, the partition, the key it is for, the packet's job,
destination, kind and address, and who made it (R333). -/
structure Request where
  num : Nat
  pid : PartId
  key : Nat
  job : BitVec 16
  node : BitVec 16
  kind : Byte
  addr : Word
  from_ : Origin
  deriving DecidableEq, Repr

/-- A brick: its owner tag and its retired lanes (R107, R213). -/
structure Brick where
  owner : Option Nat
  retired : BitVec 16
  deriving DecidableEq, Repr

/-- A cached translation: the root and page it stands for, the level of its leaf, the key of the entry, and the entry
(R157, R159). -/
structure TlbEntry where
  hall : Nat
  pid : PartId
  root : Word
  vpn : Nat
  level : Nat
  leafKey : Nat
  leaf : Word
  deriving DecidableEq, Repr

/-- The job states of R347. -/
inductive JobState where
  | running
  | switching
  | out
  | resuming
  | dead
  deriving DecidableEq, Repr

/-- A packet as it lies in a switch save area (R349). -/
structure Swept where
  port : PortRef
  packet : Packet
  deriving DecidableEq, Repr

/-- The counts that a device of a job reports when its sweep is done: swept and late packets, and whether its late list has
overflowed (R348, R350). -/
structure Counts where
  node : BitVec 16
  swept : Nat
  late : Nat
  full : Bool
  deriving DecidableEq, Repr

/-- A job of the gang switch as this device sees it (R344 to R351). home: the device on which its command was issued, there by ctrl.
offNodes: the devices that have reported their harts off; stopped: its injection has stopped here; marked: the inputs whose markers
have arrived; swept and late: its packets taken from the routers, and those that came too late; full: its late list has overflowed
here; overflow: on some device; reports: what the devices have counted; back: the devices that have finished their re-injection. -/
structure Job where
  tag : BitVec 16
  state : JobState
  ctrl : PartId
  by_ : Issuer
  recVa : Word
  intr : Bool
  cword : Word
  cval : Word
  home : BitVec 16
  offNodes : List (BitVec 16)
  reports : List Counts
  back : List (BitVec 16)
  stopped : Bool
  marked : List (PortRef × BitVec 2)
  swept : List Swept
  late : List Swept
  full : Bool
  overflow : Bool
  deriving DecidableEq, Repr

/-- A port of a die's router, a link or the gallery input: whether it is up, the credits that are held for a link's three channels, and
its input buffer (R326, R329). A gallery input's free places are what its senders hold credits for. -/
structure Port where
  ref : PortRef
  up : Bool
  credits : Vector Nat 3
  buffer : List Packet
  deriving DecidableEq, Repr

/-- What the device answers the host with. -/
inductive HostMsg where
  /-- The status byte that answers the start message of a job tag (R15). -/
  | startReply (job : BitVec 16) (status : Byte)
  /-- An attestation report (R359). -/
  | report (bytes : List Byte)
  deriving DecidableEq, Repr

/-- The device outside the partitions. verified: the firmware image has passed (R355); clock: in units of 0.1 GHz (R360);
withdrawn: channels that have failed training (R355); host: the host's node (R331); upstream: packets that their sources hold until
their egress queue has room or their job is admitted (R329, R348); mgmt: what has reached the management endpoint; outstanding: the
requests that await an answer, oldest first (R333); entering: packets of a switch save area that have still to enter a router (R351);
peers: the node at the other end of each link (R348); contexts: partitions in whose hart-context region a context has still to be
written (R212). -/
structure Device where
  devstat : Word
  verified : Bool
  cycle : Word
  clock : Nat
  bricks : List ((Nat × Nat) × Brick)
  tlb : List TlbEntry
  damaged : List Nat
  withdrawn : BitVec 256
  mr : Vector (BitVec 256) 4
  soft : List ((Nat × Bool) × Slot)
  node : BitVec 16
  host : BitVec 16
  routes : List (BitVec 16 × PortRef)
  peers : List (PortRef × BitVec 16)
  ports : List Port
  entering : List Swept
  upstream : List (BitVec 2 × Packet)
  egress : List (BitVec 2 × Packet)
  sent : List (PortRef × Packet)
  txSeq : List ((BitVec 16 × BitVec 16 × BitVec 2) × Word)
  rxSeq : List ((BitVec 16 × BitVec 16 × BitVec 2) × Word)
  rxHeld : List Packet
  outstanding : List Request
  nextReq : Nat
  mgmt : List Packet
  jobs : List Job
  contexts : List PartId
  outbox : List HostMsg
  freeIdx : Nat
  deriving DecidableEq, Repr

/-- A turn: a hart issues, or an event of the table happens. -/
inductive Turn where
  | hart (h : HartRef)
  | event (i : Instr)
  deriving DecidableEq, Repr

/-- The machine: memory, the device, the issuing hart and its partition, the other harts and partitions, and the turns still to be
taken. -/
structure State where
  mem : Memory
  dev : Device
  part : Partition
  parts : List Partition
  hart : Hart
  harts : List Hart
  sched : List Turn
  deriving DecidableEq, Repr

/-- The strip of a hart that has not run: every register zero (R16). -/
def Strip.zero : Strip :=
  { pc := 0, x := Vector.replicate 32 0, vl := 0, shape := 0, ldl := 0, efc := 0, sbase := 0,
    v := Vector.replicate 32 [], m := Vector.replicate 8 [], t := Vector.replicate 4 (Vector.replicate 16 []), pos := [],
    lost := [] }

/-- A hart with the register values of R16 and R206, and no work: DESIGN CHOICE (log entry 1) where the rules give no value. -/
def Hart.absent : Hart :=
  { pid := 0, id := 0, serial := 0, status := .absent, mode := .supervisor, live := Strip.zero, ckpt := Strip.zero,
    ckptSetvl := false, rerun := false, atSetvl := false, mortar := [], outgoing := [], trim := none, cut := none, pages := []
    stale := false, staleOut := false, nreg := 32, vlgrant := 0, bricks := 0, lmod := 0, dies := 0,
    grant := [], srseed := 0, srstream := 0, rad := 2, frnd := 0, wtime := 0, domain := 0, instret := 0,
    pending := 0, tstat := 0xFFFFFFFF00000000, tcause := 0, tepc := 0, tval := 0, tvalx := 0, tvec := 0, tscr := 0, tldl := 0,
    wdog := 16384, cybud := BitVec.allOnes 64, ptroot := 0, prio := 0, vowner := 0, gang := 0, gkey := 0, hall := 0, slot := none,
    spread := false, detached := false, exitVa := 0, binds := [], bound := [], announce := none, claim := none, preempt := none,
    asked := none, acks := [], reply := [], refused := [], hold := none, reading := none, queued := [], accepted := []
    entries := 0 }

/-- A configuration that names nothing: the partition is not configured (R355). -/
def PartCfg.none : PartCfg :=
  { pid := 0, node := 0, job := 0, halls := [], l2 := 0, chans := 0, memSize := 0, faultBase := 0, intrBase := 0, faultLog := 0,
    intrLog := 0, ctxBase := 0, ctxSize := 0, engBase := 0, engSize := 0, saveBase := 0, saveSize := 0, lateCap := 0,
    ctrlTags := [], limits := 0, partners := [], windows := [], ptroot := 0, intrVector := (0, 0), faultVector := (0, 0),
    jobNodes := [] }

/-- A partition as it stands when it is configured: pool registers, epoch and generations 0 (R222, R270, R306). -/
def Partition.fresh (c : PartCfg) (configured : Bool) : Partition :=
  { configured := configured, cfg := c, bpbase := 0, bszlog := 0, tpb := 0, tokb := 0, epoch := 0, gangs := [], nextAge := 0,
    nextSerial := 0, copies := [], promotions := [], compactions := [], completions := [], hostWork := [], reclaim := none,
    objects := [], ixGens := [],
    cursors := [], curGens := [], launches := [], launchGens := [], posted := 0, kind8 := 0, kind9 := 0 }

/-- The gallery input of each die, open with all its credits (R329). -/
def galleryPorts : List Port :=
  [0, 1, 2, 3].map (fun d => ⟨⟨d, 11⟩, true, Vector.replicate 3 8, []⟩)

/-- The device at reset: DEVSTAT in phase 0 with the stepping code of B0 (R354), measurement registers zero (R358). Bricks not
listed are free with no lane retired. -/
def Device.reset : Device :=
  { devstat := 0x0000B00000000000, verified := false, cycle := 0, clock := 18, bricks := [], tlb := [], damaged := []
    withdrawn := 0, mr := Vector.replicate 4 0,
    soft := [], node := 0, host := 0, routes := [], peers := [], ports := galleryPorts,
    entering := [], upstream := [], egress := [], sent := [], txSeq := [],
    rxSeq := [], rxHeld := [], outstanding := [], nextReq := 0, mgmt := [], jobs := [], contexts := [], outbox := [],
    freeIdx := 0 }

/-- The machine right after reset: no partition is configured and no hart exists (R355). -/
def State.reset : State :=
  { mem := [], dev := Device.reset, part := Partition.fresh PartCfg.none false, parts := [], hart := Hart.absent, harts := [],
    sched := [] }

end Sys2Proof.Machine
end

