-- ==== Sys2Proof/Machine/Flags.lean ====
section
/-! DEFINITION. The fields of the status-like registers: trap causes, SHAPE, TSTAT, the last-destination latch, VOWNER. This
hardware has no arithmetic flags; the latch LDL (R58, R59) is what an instruction leaves beside its result. -/

namespace Sys2Proof.Machine

/-- The trap causes of R64. -/
inductive Cause where
  | ill | priv | illshape | align | page | prot | vown | cmbusy | budget | trapi | brk
  | bpool | bid | bdamage | brefovf | bempty | bzero
  | crec | cmaskreg | chan | sbind | sunbound | send
  | ixhandle | ixowner | ixsealed | ixunsealed | ixlimit | curhandle | curlimit | tokrange
  | frec | baddep | fhandle | fnotask | fpointbad | fstate
  | xdie | jobhandle | lateovf | jstate | savearea | uncor | devio
  deriving DecidableEq, Repr

/-- The code of a cause (R64). -/
def Cause.code : Cause → BitVec 8
  | .ill => 0x01 | .priv => 0x02 | .illshape => 0x03 | .align => 0x04 | .page => 0x05 | .prot => 0x06 | .vown => 0x08
  | .cmbusy => 0x09 | .budget => 0x0A | .trapi => 0x0B | .brk => 0x0C | .bpool => 0x10 | .bid => 0x11 | .bdamage => 0x12
  | .brefovf => 0x13 | .bempty => 0x14 | .bzero => 0x15 | .crec => 0x20 | .cmaskreg => 0x21 | .chan => 0x22 | .sbind => 0x23
  | .sunbound => 0x24 | .send => 0x25 | .ixhandle => 0x30 | .ixowner => 0x31 | .ixsealed => 0x32 | .ixunsealed => 0x33
  | .ixlimit => 0x34 | .curhandle => 0x35 | .curlimit => 0x36 | .tokrange => 0x37 | .frec => 0x40 | .baddep => 0x41
  | .fhandle => 0x42 | .fnotask => 0x43 | .fpointbad => 0x44 | .fstate => 0x45 | .xdie => 0x50 | .jobhandle => 0x51
  | .lateovf => 0x52 | .jstate => 0x53 | .savearea => 0x54 | .uncor => 0x60 | .devio => 0x61

/-- How a meaning is cut short: a trap with its cause, TVAL and TVALX; a wait for remote bytes (R333), of an
engine's objects too (R8); a trim of the strip to k elements (R152); an implicit commit before the instruction (R145, R146); or a stop of the model. -/
inductive Abort where
  | trap (c : Cause) (val valx : Word)
  | remote (key n : Nat)
  | reading (e : EngineKind) (key n : Nat)
  | retrim (k : Nat)
  | commitFirst
  | stop (f : Fault)
  deriving DecidableEq, Repr

/-! SHAPE (R136). -/

def ewOf (shape : BitVec 15) : BitVec 6 := shape.extractLsb' 0 6
def grpOf (shape : BitVec 15) : Nat := 2 ^ (shape.extractLsb' 6 2).toNat
def rowsOf (shape : BitVec 15) : Nat := (shape.extractLsb' 8 3).toNat + 1
def tailZero (shape : BitVec 15) : Bool := shape.getLsbD 11
def maskZero (shape : BitVec 15) : Bool := shape.getLsbD 12
def rndOf (shape : BitVec 15) : BitVec 3 := (shape.extractLsb' 13 2).setWidth 3

/-- The width in bits of a format (R165). -/
def widthOf (fmt : BitVec 6) : Nat :=
  match fmt.toNat with
  | 0x01 => 16 | 0x02 => 32 | 0x03 => 64
  | 0x05 => 16 | 0x06 => 32 | 0x07 => 64
  | 0x08 => 16 | 0x09 => 16 | 0x0A => 32 | 0x0B => 64
  | _ => 8

/-- Signed integer formats i8 to i64. -/
def isSignedInt (fmt : BitVec 6) : Bool := decide (fmt.toNat < 4)
/-- Unsigned integer formats n8 to n64. -/
def isUnsignedInt (fmt : BitVec 6) : Bool := decide (4 ≤ fmt.toNat ∧ fmt.toNat < 8)
def isInt (fmt : BitVec 6) : Bool := decide (fmt.toNat < 8)
/-- The formats f16, bf16, f32 and f64. -/
def isIeee (fmt : BitVec 6) : Bool := decide (8 ≤ fmt.toNat ∧ fmt.toNat < 12)
def isBinary8 (fmt : BitVec 6) : Bool := isFormat fmt && decide (12 ≤ fmt.toNat)
def isFloat (fmt : BitVec 6) : Bool := isIeee fmt || isBinary8 fmt

/-! The last-destination latch (R58, R59): bit 6 V, bit 5 F, bits 4:0 N. -/

def ldlX (r : BitVec 5) : BitVec 7 := 0b10#2 ++ r
def ldlV (r : BitVec 5) : BitVec 7 := 0b11#2 ++ r
def ldlValid (l : BitVec 7) : Bool := l.getLsbD 6
def ldlIsVector (l : BitVec 7) : Bool := l.getLsbD 5
def ldlReg (l : BitVec 7) : BitVec 5 := l.extractLsb' 0 5

/-! TSTAT (R206). -/

def tstatTrim (t : Word) : BitVec 32 := t.extractLsb' 32 32
def tstatSk (t : Word) : Bool := t.getLsbD 3
def tstatTk (t : Word) : Bool := t.getLsbD 1
def tstatPm (t : Word) : Bool := t.getLsbD 0

def bit1 (b : Bool) : BitVec 1 := BitVec.ofBool b

def mkTstat (trim : BitVec 32) (sk tk pm : Bool) : Word :=
  trim ++ 0#28 ++ bit1 sk ++ 0#1 ++ bit1 tk ++ bit1 pm

/-- A trim limit as TSTAT holds it: all ones is unlimited (R206). -/
def trimField : Option Nat → BitVec 32
  | none => BitVec.allOnes 32
  | some k => BitVec.ofNat 32 k

def trimLimit (f : BitVec 32) : Option Nat :=
  if f = BitVec.allOnes 32 then none else some f.toNat

/-! VOWNER (R206): bit 15 OUT, bit 12 VAL, bits 11:0 HART. -/

def vownerOut (v : Word) : Bool := v.getLsbD 15
def vownerVal (v : Word) : Bool := v.getLsbD 12
def vownerHart (v : Word) : Nat := (v.extractLsb' 0 12).toNat
def mkVowner (out val : Bool) (hart : Nat) : Word :=
  0#48 ++ bit1 out ++ 0#2 ++ bit1 val ++ BitVec.ofNat 12 hart

/-- The smaller of a request and an optional limit. -/
def capBy (n : Nat) : Option Nat → Nat
  | none => n
  | some k => min n k

end Sys2Proof.Machine
end

