-- ==== Sys2Proof/Machine/Mem.lean ====
section
/-! DEFINITION. Memory as bytes, and the sequence of effects of an instruction. Every change of memory in the model is a store of
State.poke or a clearing of State.wipe. -/

namespace Sys2Proof.Machine

/-- The effects of an instruction in sequence: a state in, a value and a state out, or an abort. -/
abbrev M := EStateM Abort State

/-! ## Bytes -/

/-- The byte at an address; an unlisted address reads 0 (log entry 2). -/
def Memory.get : Memory → Nat → Byte
  | [], _ => 0
  | c :: rest, k => if c.1 = k then c.2 else Memory.get rest k

/-- Memory with one byte written; a zero byte is not listed. -/
def Memory.set : Memory → Nat → Byte → Memory
  | [], k, b => if b = 0 then [] else [(k, b)]
  | c :: rest, k, b =>
    if k < c.1 then (if b = 0 then c :: rest else (k, b) :: c :: rest)
    else if k = c.1 then (if b = 0 then rest else (k, b) :: rest)
    else c :: Memory.set rest k b

/-- n bytes from an address up. -/
def Memory.read (m : Memory) (k n : Nat) : List Byte := (List.range n).map (fun i => m.get (k + i))

/-- Bytes written from an address up, in ascending order. -/
def Memory.write (m : Memory) (k : Nat) : List Byte → Memory
  | [] => m
  | b :: bs => Memory.write (m.set k b) (k + 1) bs

/-- Memory with n bytes from an address up set to 0. -/
def Memory.clear (m : Memory) (k n : Nat) : Memory := m.filter (fun c => decide (c.1 < k ∨ k + n ≤ c.1))

/-- The number that little-endian bytes give (R35). -/
def leNat : List Byte → Nat
  | [] => 0
  | b :: bs => b.toNat + 256 * leNat bs

/-- The n little-endian bytes of a number. -/
def leBytes : Nat → Nat → List Byte
  | 0, _ => []
  | n + 1, v => BitVec.ofNat 8 v :: leBytes n (v / 256)

/-- Bits lo to lo + n − 1 of a number. -/
def bitsOf (v lo n : Nat) : Nat := (v >>> lo) % 2 ^ n

/-- The signed value of the low n bits of a number. -/
def signedOf (n v : Nat) : Int :=
  let u := v % 2 ^ n
  if u < 2 ^ (n - 1) then u else (u : Int) - (2 ^ n : Nat)

/-! ## Keys (R3, R4) -/

/-- The key of a partition-relative physical address. Bit 47 marks a remote address (R332). -/
def physKey (p : PartId) (pa : Nat) : Nat := p.toNat * 2 ^ 48 + pa % 2 ^ 48

/-- The key of an offset in a hall's scratchpad. -/
def padKey (hall off : Nat) : Nat := 2 ^ 52 + hall * 2 ^ 25 + off

/-- Whether a key names remote memory. -/
def isRemote (k : Nat) : Bool := decide (k < 2 ^ 52) && k.testBit 47

/-! ## Memory in the state -/

/-- Whether a read of n bytes touches a damaged unit (R361). -/
def State.damagedAt (s : State) (k n : Nat) : Bool :=
  s.dev.damaged.any (fun u => decide (u * 8 < k + n ∧ k < u * 8 + 8 ∧ 0 < n))

/-- Stores bytes; a damaged word that they cover wholly becomes correct (R361). -/
def State.poke (s : State) (k : Nat) (bs : List Byte) : State :=
  { s with
    mem := s.mem.write k bs
    dev := { s.dev with damaged := s.dev.damaged.filter (fun u => decide (¬(k ≤ u * 8 ∧ u * 8 + 8 ≤ k + bs.length))) } }

/-- Zeroes n bytes (R342). -/
def State.wipe (s : State) (k n : Nat) : State :=
  { s with
    mem := s.mem.clear k n
    dev := { s.dev with damaged := s.dev.damaged.filter (fun u => decide (¬(k ≤ u * 8 ∧ u * 8 + 8 ≤ k + n))) } }

def State.peek (s : State) (k n : Nat) : List Byte := s.mem.read k n
def State.peekNat (s : State) (k n : Nat) : Nat := leNat (s.mem.read k n)
def State.peekWord (s : State) (k : Nat) : Word := word (s.peekNat k 8)
def State.pokeNat (s : State) (k n v : Nat) : State := s.poke k (leBytes n v)
def State.pokeWord (s : State) (k : Nat) (v : Word) : State := s.poke k (leBytes 8 v.toNat)

/-- Sets bits in a doubleword of memory with an atomic OR (R160, R161); a word that cannot be read stays so (R361). -/
def State.orWord (s : State) (k : Nat) (bits : Word) : State :=
  if s.damagedAt k 8 then s else s.pokeWord k (s.peekWord k ||| bits)

/-! ## Parts of the state -/

def State.modHart (s : State) (f : Hart → Hart) : State := { s with hart := f s.hart }
def State.modLive (s : State) (f : Strip → Strip) : State := { s with hart := { s.hart with live := f s.hart.live } }
def State.modPart (s : State) (f : Partition → Partition) : State := { s with part := f s.part }
def State.modDev (s : State) (f : Device → Device) : State := { s with dev := f s.dev }

/-- Sets DEVSTAT.UNC: an uncorrectable error has been reported (R354, R361). -/
def State.noteUncor (s : State) : State := s.modDev (fun d => { d with devstat := d.devstat ||| 4 })

def State.allHarts (s : State) : List Hart := s.hart :: s.harts
def State.allParts (s : State) : List Partition := s.part :: s.parts

def State.mapHarts (s : State) (f : Hart → Hart) : State := { s with hart := f s.hart, harts := s.harts.map f }

/-- Applies a change to the hart of a partition with a given id. -/
def State.modHartOf (s : State) (p : PartId) (id : Nat) (f : Hart → Hart) : State :=
  s.mapHarts (fun h => if h.pid = p ∧ h.id = id ∧ h.status ≠ .absent then f h else h)

def State.findHart (s : State) (p : PartId) (id : Nat) : Option Hart :=
  s.allHarts.find? (fun h => decide (h.pid = p ∧ h.id = id ∧ h.status ≠ .absent))

/-- Whether a hart is live: it exists and has not ended. -/
def Hart.isLive (h : Hart) : Bool := h.status != .absent && h.status != .ended

/-! ## Which hart issues -/

/-- The harts that are not the issuing one, with the issuing one put back. -/
def State.otherHarts (s : State) : List Hart := if s.hart.status = .absent then s.harts else s.harts ++ [s.hart]

/-- The partition p made the issuing one, with an absent hart; none if it is not configured. -/
def State.focusPart (s : State) (p : PartId) : Option State :=
  if s.part.configured ∧ s.part.cfg.pid = p then
    some { s with hart := { Hart.absent with pid := p }, harts := s.otherHarts }
  else
    match s.parts.find? (fun q => decide (q.cfg.pid = p)) with
    | none => none
    | some q =>
      some { s with
        part := q
        parts := (if s.part.configured then [s.part] else []) ++ s.parts.filter (fun q => decide (q.cfg.pid ≠ p))
        hart := { Hart.absent with pid := p }
        harts := s.otherHarts }

/-- The hart id of partition p made the issuing one; none if there is no such hart. -/
def State.focusHart (s : State) (p : PartId) (id : Nat) : Option State :=
  if s.hart.status ≠ .absent ∧ s.hart.pid = p ∧ s.hart.id = id then some s
  else
    match s.harts.find? (fun h => decide (h.pid = p ∧ h.id = id)), s.focusPart p with
    | some h, some t => some { t with hart := h, harts := t.harts.filter (fun g => decide (¬(g.pid = p ∧ g.id = id))) }
    | _, _ => none

/-- Gives the issue back to a hart, where it still exists. -/
def State.refocus (s : State) (p : PartId) (id : Nat) : State :=
  match s.focusHart p id with
  | some t => t
  | none => s

/-- Does something in a state brought about from s, and gives the issue back; s itself where nothing changes. -/
def State.visit (s t : State) (f : State → State) : State :=
  let u := f t
  if u = t then s else u.refocus s.hart.pid s.hart.id

/-- Does something as another hart; nothing where there is none. -/
def State.asHart (s : State) (p : PartId) (id : Nat) (f : State → State) : State :=
  match s.focusHart p id with
  | some t => s.visit t f
  | none => s

/-- Does something in a partition; nothing where it is not configured. -/
def State.inPart (s : State) (p : PartId) (f : State → State) : State :=
  match s.focusPart p with
  | some t => s.visit t f
  | none => s

end Sys2Proof.Machine
end

