-- ==== Sys2Proof/Machine/Send.lean ====
section
/-! DEFINITION. Packets on their way out (R328 to R333): the window of a remote address, the egress queues, and the requests that
await an answer. -/

namespace Sys2Proof.Machine

/-! ## Association lists -/

def assocGet {α β : Type} [DecidableEq α] (l : List (α × β)) (k : α) (d : β) : β :=
  match l.find? (fun p => decide (p.1 = k)) with
  | some p => p.2
  | none => d

def assocSet {α β : Type} [DecidableEq α] : List (α × β) → α → β → List (α × β)
  | [], k, v => [(k, v)]
  | p :: ps, k, v => if p.1 = k then (k, v) :: ps else p :: assocSet ps k v

/-! ## Windows (R332) -/

/-- The window entry of a remote physical address. -/
def windowOf (c : PartCfg) (pa : Nat) : Option Window :=
  c.windows.find? (fun w => decide (w.index.toNat = bitsOf pa 36 11))

/-- The key of a remote physical address: windows on the same memory share the keys of the first of them, as its bytes are the same
(R69, R72). -/
def remoteKey (c : PartCfg) (w : Window) (pa : Nat) : Nat :=
  let v := (c.windows.find? (fun v => v.dest == w.dest && v.base == w.base)).getD w
  physKey c.pid (2 ^ 47 + v.index.toNat * 2 ^ 36 + pa % 2 ^ 36)

/-- The destination node and the address there of a remote key. -/
def remoteTarget (c : PartCfg) (key : Nat) : BitVec 16 × Word :=
  match windowOf c (key % 2 ^ 48) with
  | some w => (w.dest, w.base + word (key % 2 ^ 36))
  | none => (0, 0)

/-! ## The egress queues (R329, R330) -/

/-- The die of a hall (R2). -/
def dieOf (hall : Nat) : Nat := hall / 12 % 4

/-- Whether the injection of a job is stopped on this device (R348). -/
def Device.stopped (d : Device) (tag : BitVec 16) : Bool := (d.jobs.find? (fun j => j.tag == tag)).elim false (·.stopped)

/-- Whether packets of a job stay where they are: its injection is stopped, and it does not resume (R348, R351). -/
def Device.halted (d : Device) (tag : BitVec 16) : Bool :=
  (d.jobs.find? (fun j => j.tag == tag)).elim false (fun j => j.stopped && j.state != .resuming)

/-- The state of a job; one that was never switched is RUNNING (R347). -/
def Device.jobState (d : Device) (tag : BitVec 16) : JobState := (d.jobs.find? (fun j => j.tag == tag)).elim .running (·.state)

/-- The packets of a VC in the local egress queue of a die. -/
def Device.egressCount (d : Device) (die vc : BitVec 2) : Nat := (d.egress.filter (fun e => e.1 == die && e.2.vc == vc)).length

/-- Whether a packet may enter its die's egress queue: there is room on its VC, and its job's injection is not stopped. -/
def Device.mayEnter (d : Device) (e : BitVec 2 × Packet) : Bool :=
  !d.stopped e.2.job && decide (d.egressCount e.1 e.2.vc < Config.egressDepth)

/-- Takes into the egress queues what may enter of a list of packets, in order, and leaves the rest. -/
def admitEgress : List (BitVec 2 × Packet) → Device → Device × List (BitVec 2 × Packet)
  | [], d => (d, [])
  | e :: rest, d =>
    if d.mayEnter e then admitEgress rest { d with egress := d.egress ++ [e] }
    else
      let r := admitEgress rest d
      (r.1, e :: r.2)

/-- The sources' packets enter the egress queues as far as they may. -/
def Device.refill (d : Device) : Device :=
  let r := admitEgress d.upstream d
  { r.1 with upstream := r.2 }

/-- Sends a packet of a job from a die, numbered by R330. -/
def State.sendAs (s : State) (job src : BitVec 16) (die : Nat) (dst : BitVec 16) (kind : Nat) (vc : BitVec 2) (addr : Word)
    (len : Nat) (payload : List Byte) : State :=
  s.modDev (fun d =>
    let q := assocGet d.txSeq (job, dst, vc) 0
    let p : Packet := ⟨job, src, dst, BitVec.ofNat 8 kind, vc, q, addr, len, payload⟩
    ({ d with txSeq := assocSet d.txSeq (job, dst, vc) (q + 1), upstream := d.upstream ++ [(BitVec.ofNat 2 die, p)] } : Device).refill)

/-! ## Requests (R333) -/

/-- Sends a request for a remote key: a read, a write or an atomic. Its number is the device's nextReq. -/
def State.request (s : State) (from_ : Origin) (die key kind len : Nat) (payload : List Byte) : State :=
  let c := s.part.cfg
  let t := remoteTarget c key
  (s.modDev (fun d =>
    { d with
      outstanding := d.outstanding ++ [⟨d.nextReq, c.pid, key, c.job, t.1, BitVec.ofNat 8 kind, t.2, from_⟩]
      nextReq := d.nextReq + 1 })).sendAs c.job c.node die t.1 kind 0 t.2 len payload

/-- Bytes cut into the pieces that go into one packet each, with the keys they go to (R328). -/
def pieces : Nat → Nat → List Byte → List (Nat × List Byte)
  | 0, _, _ => []
  | fuel + 1, k, bs =>
    if bs.isEmpty then []
    else (k, bs.take Config.packetBytes) :: pieces fuel (k + Config.packetBytes) (bs.drop Config.packetBytes)

/-- The writes of bytes to remote memory, in ascending order (R333). -/
def State.sendWrite (s : State) (from_ : Origin) (die key : Nat) (bs : List Byte) : State :=
  (pieces bs.length key bs).foldl (fun s p => s.request from_ die p.1 3 p.2.length p.2) s

/-- A hart as the origin of a request. -/
def Hart.origin (h : Hart) : Origin := .hart h.id h.serial

/-- A request of the issuing hart that awaits its acknowledgement: a write, or the atomic that marks a leaf (R161). -/
def State.hartSend (s : State) (key kind len : Nat) (payload : List Byte) : State :=
  let node := (remoteTarget s.part.cfg key).1
  let num := s.dev.nextReq
  (s.request s.hart.origin (dieOf s.hart.hall) key kind len payload).modHart (fun h => { h with acks := h.acks ++ [(node, num)] })

/-- The issuing hart's writes to remote memory. -/
def State.hartWrite (s : State) (key : Nat) (bs : List Byte) : State :=
  (pieces bs.length key bs).foldl (fun s p => s.hartSend p.1 3 p.2.length p.2) s

/-- The pieces of n bytes at a key that are asked for in one packet each (R328). -/
def chunks : Nat → Nat → Nat → List (Nat × Nat)
  | 0, _, _ => []
  | fuel + 1, k, n =>
    if n = 0 then []
    else (k, Nat.min Config.packetBytes n) :: chunks fuel (k + Config.packetBytes) (n - Config.packetBytes)

/-- A piece within one response: its bytes are as they stood at one moment (R71). -/
def inResponse (l : List (Nat × List Byte)) (k n : Nat) : Option (List Byte) :=
  (l.find? (fun r => decide (r.1 ≤ k ∧ k + n ≤ r.1 + r.2.length))).map (fun r => (r.2.drop (k - r.1)).take n)

/-- The bytes of responses that a hart holds, where it holds all n at a key. -/
def Hart.replied (h : Hart) (k n : Nat) : Option (List Byte) :=
  ((chunks n k n).mapM (fun c => inResponse h.reply c.1 c.2)).map List.flatten

/-- The first piece of n bytes at a key that has not come: its key and length. -/
def Hart.missing (h : Hart) (k n : Nat) : Option (Nat × Nat) :=
  (chunks n k n).find? (fun c => (inResponse h.reply c.1 c.2).isNone)

/-- The state in which the bytes that have come for some work of an engine lie with the issuing hart, where the reads of that work look
for them. -/
def State.withReply (s : State) (reply : List (Nat × List Byte)) (refused : List Nat) : State :=
  s.modHart (fun h => { h with reply := reply, refused := refused })

end Sys2Proof.Machine
end

