-- ==== Sys2Proof/Machine/Xlate.lean ====
section
/-! DEFINITION. Address translation (R155 to R162), the configuration page (R336) and the remote windows (R332). -/

namespace Sys2Proof.Machine

/-- What an access wants of its page (R158). An atomic needs both permissions (R123). -/
inductive Kind where
  | load
  | store
  | fetch
  | atomic
  deriving DecidableEq, Repr

/-- Why a translation fails: a cause, a table entry on another device that has not come yet (R333), or a stop where no rule gives an
outcome. -/
inductive XErr where
  | cause (c : Cause)
  | remote (key n : Nat)
  | stop (f : Fault)
  deriving DecidableEq, Repr

/-- A leaf entry with its level and the key it lies at. -/
structure Leaf where
  level : Nat
  key : Nat
  ent : Word
  deriving DecidableEq, Repr

/-- Where a virtual address lies, and the leaf that maps it; none for the scratchpad. -/
structure Loc where
  key : Nat
  leaf : Option Leaf
  deriving DecidableEq, Repr

def Leaf.hs (l : Leaf) : Bool := l.ent.getLsbD 8
def Leaf.dev (l : Leaf) : Bool := l.ent.getLsbD 9
def Loc.hs (l : Loc) : Bool := l.leaf.any Leaf.hs
def Loc.dev (l : Loc) : Bool := l.leaf.any Leaf.dev

/-- The bits of the page size of a leaf at a level (R155). -/
def pageBits (level : Nat) : Nat := if level = 0 then 40 else if level = 1 then 28 else 16

def tableIndex (level a : Nat) : Nat := bitsOf a (pageBits level) 12

/-- The physical address that a leaf gives (R156, R157). -/
def Leaf.pa (l : Leaf) (a : Nat) : Nat := bitsOf l.ent.toNat 16 32 * 2 ^ 16 + a % 2 ^ pageBits l.level

/-- A table entry at a physical address: memory, or the window of a remote address and the response to its read
(R157, R332 to R334). -/
def tableEntry (s : State) (p : PartId) (size pa : Nat) : Except XErr Word :=
  if pa.testBit 47 then
    match windowOf s.part.cfg pa with
    | none => .error (.cause .page)
    | some w =>
      let k := remoteKey s.part.cfg w pa
      if w.r = false then .error (.cause .prot)
      else if s.hart.refused.contains k then .error (.cause .uncor)
      else match s.hart.replied k 8 with
        | some bs => .ok (word (leNat bs))
        | none => .error (.remote k 8)
  else if size ≤ pa then .error (.stop (.beyondMemory pa))
  else if s.damagedAt (physKey p pa) 8 then .error (.cause .uncor)
  else .ok (s.peekWord (physKey p pa))

/-- The key that a table entry lies at. -/
def entryKey (s : State) (p : PartId) (pa : Nat) : Nat :=
  if pa.testBit 47 then (windowOf s.part.cfg pa).elim (physKey p pa) (fun w => remoteKey s.part.cfg w pa) else physKey p pa

/-- The walk of R157 from a table at t, with the levels left as fuel. -/
def walkFrom (s : State) (p : PartId) (size a : Nat) : Nat → Nat → Nat → Except XErr Leaf
  | 0, _, _ => .error (.cause .page)
  | fuel + 1, level, t =>
    let pa := t + 8 * tableIndex level a
    match tableEntry s p size pa with
    | .error e => .error e
    | .ok ent =>
      let e := ent.toNat
      let r := e.testBit 1
      let w := e.testBit 2
      let x := e.testBit 3
      if e.testBit 0 = false ∨ bitsOf e 48 16 ≠ 0 ∨ bitsOf e 11 4 ≠ 0 then .error (.cause .page)
      else if r = false ∧ w = false ∧ x = false then
        if level = 2 ∨ bitsOf e 4 7 ≠ 0 then .error (.cause .page)
        else walkFrom s p size a fuel (level + 1) (bitsOf e 15 33 * 2 ^ 15)
      else if e.testBit 15 ∨ (w ∧ r = false) ∨ bitsOf e 16 32 * 2 ^ 16 % 2 ^ pageBits level ≠ 0 then .error (.cause .page)
      else .ok ⟨level, entryKey s p pa, ent⟩

def walk (s : State) (p : PartId) (root : Word) (a : Nat) : Except XErr Leaf :=
  walkFrom s p s.part.cfg.memSize a 3 0 (bitsOf root.toNat 15 33 * 2 ^ 15)

/-- The permissions of R158: its table has a supervisor fetch from a page with U fault, also where a program of R293 or R322 is mapped so
(DEDUCED, log entry 49). -/
def permits (ent : Word) (mode : Mode) (k : Kind) : Bool :=
  let u := ent.getLsbD 4
  match k with
  | .load => ent.getLsbD 1 && (u || mode = .supervisor)
  | .store => ent.getLsbD 2 && (u || mode = .supervisor)
  | .atomic => ent.getLsbD 1 && ent.getLsbD 2 && (u || mode = .supervisor)
  | .fetch => ent.getLsbD 3 && (u == decide (mode = .user))

/-- Whether a window entry permits an access (R332). -/
def windowPermits (w : Window) (k : Kind) : Bool :=
  match k with
  | .load => w.r
  | .fetch => w.r
  | .store => w.w
  | .atomic => w.r && w.w

/-- The permission checks on a leaf, and the place it gives: R158, the window of a remote address (R332), and the configuration
page of this device or of another, which only the device writes (R336) (DESIGN CHOICE, log entry 23). -/
def resolve (s : State) (mode : Mode) (k : Kind) (a : Nat) (l : Leaf) : Except XErr Loc :=
  let pa := l.pa a
  if permits l.ent mode k = false then .error (.cause .prot)
  else if pa.testBit 47 then
    match windowOf s.part.cfg pa with
    | none => .error (.cause .page)
    | some w =>
      if windowPermits w k = false ∨ ((k = .store ∨ k = .atomic) ∧ (w.base + word (pa % 2 ^ 36)).toNat < 2 ^ 16) then
        .error (.cause .prot)
      else .ok ⟨remoteKey s.part.cfg w pa, some l⟩
  else if pa < 2 ^ 16 ∧ (k = .store ∨ k = .atomic) then .error (.cause .prot)
  else if s.part.cfg.memSize ≤ pa then .error (.stop (.beyondMemory pa))
  else .ok ⟨physKey s.part.cfg.pid pa, some l⟩

/-- The place of an address of the scratchpad window in a hall (R162); none outside the window. -/
def scratchpad (hall a : Nat) : Option (Except XErr Loc) :=
  if Config.padBase ≤ a ∧ a < Config.padEnd then
    some (if a - Config.padBase < Config.padSize then .ok ⟨padKey hall (a - Config.padBase), none⟩ else .error (.cause .page))
  else none

/-- The issuer of a command to an engine: the issuing hart as it stands, with a given acceptance ordinal (R6, R225, R339). -/
def State.issuer (s : State) (e : EngineKind) (ordinal : Nat) : Issuer :=
  ⟨e, s.hart.ptroot, s.hart.mode, s.hart.id, s.hart.serial, ordinal, dieOf s.hart.hall⟩

/-- Whether two issuers stand for the same command (R339). -/
def Issuer.same (a b : Issuer) : Bool :=
  a.engine == b.engine && a.hart == b.hart && a.serial == b.serial && a.ordinal == b.ordinal

/-! ## The translation cache (R157, R159) -/

def tlbFind (s : State) (hall : Nat) (p : PartId) (root : Word) (a : Nat) : Option Leaf :=
  (s.dev.tlb.find? (fun e =>
    decide (e.hall = hall ∧ e.pid = p ∧ e.root = root ∧ e.vpn = a / 2 ^ pageBits e.level))).map
      (fun e => ⟨e.level, e.leafKey, e.leaf⟩)

/-- Keeps the first n entries of a hall, and all others. -/
def tlbTrim (hall : Nat) : Nat → List TlbEntry → List TlbEntry
  | _, [] => []
  | n, e :: es =>
    if e.hall ≠ hall then e :: tlbTrim hall n es
    else match n with
      | 0 => tlbTrim hall 0 es
      | n + 1 => e :: tlbTrim hall n es

/-- Installs a translation; the oldest of a full cache goes (log entry 9). -/
def State.tlbInstall (s : State) (hall : Nat) (p : PartId) (root : Word) (a : Nat) (l : Leaf) : State :=
  s.modDev (fun d =>
    { d with tlb := tlbTrim hall Config.tlbEntries (⟨hall, p, root, a / 2 ^ pageBits l.level, l.level, l.key, l.ent⟩ :: d.tlb) })

/-- Sets bits in a leaf entry in memory and in the cached copies of it (R160, R161); an entry on another device by an atomic
packet whose response the hart's later stores wait for (R333). -/
def State.markLeaf (s : State) (key : Nat) (bits : Word) : State :=
  (if isRemote key then s.hartSend key 5 8 (leBytes 1 4 ++ leBytes 1 8 ++ leBytes 8 bits.toNat ++ leBytes 8 0)
  else s.orWord key bits).modDev (fun d =>
    { d with tlb := d.tlb.map (fun e => if e.leafKey = key then { e with leaf := e.leaf ||| bits } else e) })

/-- A leaf as an open strip holds it (R132). -/
def Leaf.use (l : Leaf) (root : Word) (a : Nat) : PageUse := ⟨root, l.level, a / 2 ^ pageBits l.level, l.ent.getLsbD 5⟩

/-- Xlate for an access of the issuing hart (R157 to R162), with its effects: an installed translation, the A bit of a load or
fetch (R160), and the page noted in the open strip (R132). -/
def xlate (k : Kind) (a : Word) (s : State) : State × Except XErr Loc :=
  let h := s.hart
  let n := a.toNat
  if Config.padEnd ≤ n then (s, .error (.cause .page))
  else
    match scratchpad h.hall n with
    | some r => (s, r)
    | none =>
      let used := fun (t : State) (l : Leaf) =>
        if k = .fetch then t else t.modHart (fun h => { h with pages := l.use h.ptroot n :: h.pages })
      match tlbFind s h.hall h.pid h.ptroot n with
      | some l => (used s l, resolve s h.mode k n l)
      | none =>
        match walk s h.pid h.ptroot n with
        | .error e => (s, .error e)
        | .ok l =>
          match resolve s h.mode k n l with
          | .error e => (s, .error e)
          | .ok loc =>
            let t := s.tlbInstall h.hall h.pid h.ptroot n l
            let t := if (k = .load ∨ k = .fetch) ∧ l.ent.getLsbD 6 = false then t.markLeaf l.key 0x40 else t
            (used t l, .ok loc)

/-- The translation of an engine, through page tables alone (R362) (DEDUCED, log entry 26). -/
def engineXlate (s : State) (by_ : Issuer) (k : Kind) (a : Word) : Except XErr Loc :=
  let n := a.toNat
  if Config.padBase ≤ n then .error (.cause .page)
  else
    match walk s s.part.cfg.pid by_.root n with
    | .error e => .error e
    | .ok l => resolve s by_.mode k n l

/-! ## The home of an address (R3) -/

/-- The numbers of the ones of a mask, ascending. -/
def maskOnes (m : BitVec 256) : List Nat := (List.range 256).filter (fun i => m.getLsbD i)

/-- The HBM channel of a physical address: the granules go round the partition's channels in ascending order. -/
def homeChannel (c : PartCfg) (pa : Nat) : Option Nat :=
  let l := maskOnes c.chans
  l[pa / Config.granule % l.length]?

/-- The home L2 slice of a physical address: one of the partition's (log entry 53). -/
def homeSlice (c : PartCfg) (pa : Nat) : Option Nat :=
  let l := maskOnes c.l2
  l[Config.homeSlice l.length pa % l.length]?

end Sys2Proof.Machine
end

