-- ==== Sys2Proof/Machine/Queue.lean ====
section
/-! DEFINITION. The fault and interrupt queues (R337 to R340) and the writes of engines (R364). -/

namespace Sys2Proof.Machine

/-! ## Queues -/

/-- A queue entry (R338). -/
structure Entry where
  kind : Nat
  cause : BitVec 8
  hart : Nat
  seq : Nat
  v1 : Word
  v2 : Word
  v3 : Word
  deriving DecidableEq, Repr

def Entry.bytes (e : Entry) : List Byte :=
  leBytes 1 e.kind ++ leBytes 1 e.cause.toNat ++ leBytes 2 e.hart ++ leBytes 4 e.seq ++ leBytes 8 e.v1.toNat ++
    leBytes 8 e.v2.toNat ++ leBytes 8 e.v3.toNat

/-- The place of a queue in memory, its entries, and its interrupt vector. -/
def queueBase (c : PartCfg) (intr : Bool) : Nat := physKey c.pid (if intr then c.intrBase else c.faultBase)
def queueSize (c : PartCfg) (intr : Bool) : Nat := 2 ^ (if intr then c.intrLog else c.faultLog)
def queueVector (c : PartCfg) (intr : Bool) : Word × Slot := if intr then c.intrVector else c.faultVector

/-- The entry put into the ring, or counted as lost (R337). -/
def ringPut (intr : Bool) (e : Entry) (s : State) : State :=
  let base := queueBase s.part.cfg intr
  let size := queueSize s.part.cfg intr
  let prod := s.peekWord base
  if prod - s.peekWord (base + 8) = word size then s.pokeWord (base + 16) (s.peekWord (base + 16) + 1)
  else (s.poke (base + 64 + 32 * (prod.toNat % size)) e.bytes).pokeWord base (prod + 1)

/-- The interrupt message of a queue that is armed: a packet to the host with the vector's address and data words (R328, R340;
log entry 50). -/
def sendInterrupt (intr : Bool) (s : State) : State :=
  let c := s.part.cfg
  let base := queueBase c intr
  if s.peekWord (base + 24) = 0 then s
  else
    let v := queueVector c intr
    (s.pokeWord (base + 24) 0).sendAs c.job c.node (dieOf (c.halls.headD 0)) s.dev.host 9 2 0 12
      (leBytes 8 v.1.toNat ++ leBytes 4 v.2.toNat)

/-- Posts an entry to a queue of the partition: the ring (R337), then the interrupt message (R340) (DEDUCED, log entry 24). A header
that cannot be read is left as it is (R361; log entry 24). -/
def post (intr : Bool) (e : Entry) (s : State) : State :=
  let s := if e.cause = Cause.uncor.code then s.noteUncor else s
  let s := s.modPart (fun p => { p with posted := p.posted + 1 })
  if s.damagedAt (queueBase s.part.cfg intr) 32 then s.noteUncor else sendInterrupt intr (ringPut intr e s)

/-- Posts an entry whose source is the issuing hart (R339) (DEDUCED, log entry 41). -/
def postHart (intr : Bool) (kind : Nat) (cause : BitVec 8) (v1 v2 v3 : Word) (s : State) : State :=
  (post intr ⟨kind, cause, s.hart.id, s.hart.entries, v1, v2, v3⟩ s).modHart (fun h => { h with entries := h.entries + 1 })

/-- Posts an entry whose source is the engine that accepted a command (R339). -/
def postEngine (intr : Bool) (kind : Nat) (cause : BitVec 8) (b : Issuer) (v1 v2 : Word) (s : State) : State :=
  post intr ⟨kind, cause, b.hart, b.ordinal, v1, v2, 0⟩ s

/-- Posts the resize-complete entry of the device monitor (R336, R339). -/
def postResized (s : State) : State :=
  (post true ⟨8, 0, 0xFFFF, s.part.kind8, word s.part.cfg.pid.toNat, 0, 0⟩ s).modPart (fun p => { p with kind8 := p.kind8 + 1 })

/-- Posts the late-overflow entry of the fabric (R339, R350). -/
def postLate (tag : BitVec 16) (s : State) : State :=
  (post false ⟨9, Cause.lateovf.code, 0xFFFF, s.part.kind9, tag.setWidth 64, 0, 0⟩ s).modPart
    (fun p => { p with kind9 := p.kind9 + 1 })

/-! ## Engine writes -/

/-- A response with bytes laid over it. -/
def patched (k : Nat) (bs : List Byte) (r : Nat × List Byte) : Nat × List Byte :=
  (r.1, r.2.mapIdx (fun i b => if k ≤ r.1 + i then (bs[r.1 + i - k]?).getD b else b))

/-- A hart whose command has read what another command now changes: it is issued again and reads anew. -/
def Hart.overtaken (h : Hart) : Hart :=
  { h with
    status := match h.status with
      | .waiting (.remote _ _) => .ready
      | st => st
    asked := none, reply := [], refused := [] }

/-- An engine writes to another device: the command at work sees its own write, and every other command that has read objects of the
engine there reads them anew: what a command finds depends on the order of acceptance alone (R8). -/
def overtake (e : EngineKind) (k : Nat) (bs : List Byte) (s : State) : State :=
  { s with
    hart := { s.hart with reply := s.hart.reply.map (patched k bs) }
    harts := s.harts.map (fun h => if h.pid = s.part.cfg.pid ∧ h.reading = some e then h.overtaken else h) }

/-- An engine's write at a place for a command; a remote one leaves from the die whose engine took the command (R6). word: v1 and v2
of the entry that a refusal of a completion word posts (R364). -/
def State.engineStore (s : State) (b : Issuer) (word : Option (Word × Word)) (loc : Loc) (bs : List Byte) : State :=
  if isRemote loc.key then overtake b.engine loc.key bs (s.sendWrite (.engine b word) b.die loc.key bs) else s.poke loc.key bs

/-- The cause of a failed translation as a status; a stop has none (DESIGN CHOICE, log entry 23). A table on another device is no
failure: whoever takes the status has waited for it (R333). -/
def XErr.status : XErr → BitVec 8
  | .cause c => c.code
  | _ => Cause.page.code

end Sys2Proof.Machine
end

