-- ==== Sys2Proof/Machine/Complete.lean ====
section
/-! DEFINITION. The end of an engine command: its completion word, which follows the last byte of its payload (R78, R80, R364), its
entries (R65, R338), and the copy or the launch that ends with it (R255, R306). -/

namespace Sys2Proof.Machine

/-- Whether a write that an engine has sent for some command is not acknowledged yet (R333). -/
def State.owing (s : State) (mine : Issuer → Bool) : Bool :=
  s.dev.outstanding.any (fun r => r.pid == s.part.cfg.pid && r.kind == 3 && (match r.from_ with
    | .engine b none => mine b
    | _ => false))

/-- Whether payload of a command is not performed yet: its completion word is a release after the last byte (R75, R78, R80). -/
def owed (s : State) (b : Issuer) : Bool := s.owing (fun c => c.same b)

/-- Whether a hart's engine commands have payload that is not performed yet: its releases publish it (R234, R333). -/
def Hart.owes (s : State) (h : Hart) : Bool := s.owing (fun c => c.hart == h.id && c.serial == h.serial)

/-- Where the word of a completion lies: by the translation kept (R309), or through the command's address space (R364), with the tables
of another device that have come for it. -/
def Completion.place (s : State) (c : Completion) : Except XErr Loc :=
  match c.key with
  | some k => .ok ⟨k, none⟩
  | none => engineXlate (s.withReply c.reply c.refused) c.by_ .store c.va

/-- The place of the word, or the cause why it is not written; none while payload is on its way, or a table on another device is
waited for (R78, R333). -/
def Completion.settled (s : State) (c : Completion) : Option (Except (BitVec 8) Loc) :=
  if owed s c.payload then none
  else match c.place s with
    | .ok loc => some (.ok loc)
    | .error (.remote _ _) => none
    | .error e => some (.error e.status)

/-- What ends with the command: the copy, which leaves its slot where its hart has ended (R255, R364), or the launch (R306). -/
def Completion.endObject (c : Completion) (written : Bool) (s : State) : State :=
  match c.copy, c.launch with
  | some (h, st), _ =>
    let live := s.allHarts.any (fun g => g.pid == s.part.cfg.pid && g.serial == c.by_.serial && g.isLive)
    s.modPart (fun p =>
      { p with
        copies := (p.copies.map (fun d => if d.handle = h then { d with state := if written then st else .faulted } else d)).filter
          (fun d => live || d.handle != h) })
  | none, some h =>
    s.modPart (fun p => { p with launches := p.launches.map (fun k => if k.handle = h then { k with wordWritten := true } else k) })
  | none, none => s

/-- The command completes: the word, the entry of its status, the entry of R364 where the word is not written, and its interrupt entry
(R65, R252, R364). -/
def completeNow (c : Completion) (place : Except (BitVec 8) Loc) (s : State) : State :=
  let s := match place with
    | .ok loc => s.engineStore c.by_ (some (c.v1, c.va)) loc (leBytes 8 c.val.toNat)
    | .error _ => s
  let s := if c.status = 0 then s else postEngine false 2 c.status c.by_ c.v1 c.va s
  let s := match place with
    | .ok _ => s
    | .error e => postEngine false 2 e c.by_ c.v1 c.va s
  let s := match c.intr with
    | some i => postEngine true i.1 i.2.1 c.by_ i.2.2 0 s
    | none => s
  c.endObject (match place with
    | .ok _ => true
    | .error _ => false) s

/-- A completion that waits reads the table that its translation lacks, unless it has asked (R333). -/
def askTable (c : Completion) (s : State) : State :=
  match owed s c.payload, c.asked, c.place s with
  | false, none, .error (.remote k n) =>
    let num := s.dev.nextReq
    (s.request (.completion c.by_) c.by_.die k 1 n []).modPart (fun p =>
      { p with completions := p.completions.map (fun d => if d = c then { c with asked := some num } else d) })
  | _, _, _ => s

/-- The end of a command: at once, or when what it waits for has come. -/
def finishCommand (c : Completion) (s : State) : State :=
  match c.settled s with
  | some r => completeNow c r s
  | none => askTable c (s.modPart (fun p => { p with completions := p.completions ++ [c] }))

/-- A completion that has waited goes on where it may. -/
def settleCompletion (c : Completion) (s : State) : State :=
  match c.settled s with
  | some r => completeNow c r (s.modPart (fun p => { p with completions := p.completions.erase c }))
  | none => askTable c s

/-- The completion of a command with a word at an address, an interrupt entry where it asks for one, and nothing that ends with it. -/
def Completion.of (b : Issuer) (va val v1 : Word) (status : BitVec 8) (intr : Option (Nat × BitVec 8 × Word)) : Completion :=
  { by_ := b, payload := b, epoch := none, va := va, key := none, val := val, v1 := v1, status := status, intr := intr, copy := none, launch := none
    asked := none, reply := [], refused := [] }

end Sys2Proof.Machine
end

