-- ==== Sys2Proof/Machine/Launch.lean ====
section
/-! DEFINITION. A launch of the frontier engine: points, rows and the stair table (R299 to R302), the end of a task (R305),
completion (R315) and the freeing of its slot (R306). -/

namespace Sys2Proof.Machine

/-! ## Instructions that a hart waits in and another step finishes -/

/-- The open strip closed and a continuation strip opened (R143, R129). -/
def Hart.reopen (h : Hart) : Hart :=
  { h with
    ckpt := h.live, ckptSetvl := false, rerun := false, atSetvl := false, trim := none, pages := [], stale := false
    instret := h.instret + word h.pending, pending := 0 }

/-- A closing instruction of four bytes completed: past it a continuation strip opens, and it counts once (R129, R143). -/
def Hart.complete (h : Hart) : Hart :=
  let h := ({ h with live := { h.live with pc := h.live.pc + 4 } } : Hart).reopen
  { h with instret := h.instret + 1, status := .ready, reply := [], refused := [], reading := none }

/-- x0 reads 0 and discards writes; a write to it still sets LDL (R59, R110). -/
def Strip.setX (r : XReg) (v : Word) (st : Strip) : Strip :=
  { st with x := if r = 0 then st.x else st.x.set r.toNat v, ldl := ldlX r }

/-- A waiting instruction completed with a value for its destination. -/
def Hart.answer (r : XReg) (v : Word) (h : Hart) : Hart := ({ h with live := h.live.setX r v } : Hart).complete

/-! ## Points -/

/-- A point of a launch, innermost coordinate first. -/
structure Point where
  p0 : Nat
  p1 : Nat
  p2 : Nat
  deriving DecidableEq, Repr

def Point.pack (p : Point) : Word := word (p.p0 + p.p1 * 2 ^ 21 + p.p2 * 2 ^ 42)

def Launch.e0 (l : Launch) : Nat := l.ext.1
def Launch.e1 (l : Launch) : Nat := if l.dims < 2 then 1 else l.ext.2.1
def Launch.e2 (l : Launch) : Nat := if l.dims < 3 then 1 else l.ext.2.2

/-- The point a packed value names (R299). -/
def Launch.unpack (l : Launch) (v : Word) : Option Point :=
  let n := v.toNat
  let p : Point := ⟨bitsOf n 0 21, bitsOf n 21 21, bitsOf n 42 21⟩
  if n.testBit 63 = false ∧ p.p0 < l.e0 ∧ p.p1 < l.e1 ∧ p.p2 < l.e2 then some p else none

def Launch.rowOf (l : Launch) (p : Point) : Nat := p.p1 + l.e1 * p.p2

/-- Normal form of a row (R301), with a bound on the turns. -/
def normalRow (e0 : Nat) : Nat → Nat → Word → Nat × Word
  | 0, t, w => (t, w)
  | n + 1, t, w => if t < e0 ∧ w.getLsbD 0 then normalRow e0 n (t + 1) (w >>> 1) else (t, w)

def Launch.row (l : Launch) (r : Nat) : Nat × Word := l.rows.getD r (0, 0)

/-- Whether a point is done (R301). -/
def Launch.isDone (l : Launch) (p : Point) : Bool :=
  let r := l.row (l.rowOf p)
  decide (p.p0 < r.1) || (decide (p.p0 < r.1 + 64) && r.2.getLsbD (p.p0 - r.1))

/-- Whether a task holds a point. -/
def Launch.handedOut (l : Launch) (p : Point) : Bool := l.tasks.any (fun t => t.held == some p.pack)

/-- The predecessor along a dependence vector, where it lies inside the space. -/
def Launch.pred (l : Launch) (p : Point) (d : Int × Int × Int) : Option Point :=
  let q0 : Int := p.p0 - d.1
  let q1 : Int := p.p1 - d.2.1
  let q2 : Int := p.p2 - d.2.2
  if 0 ≤ q0 ∧ q0 < l.e0 ∧ 0 ≤ q1 ∧ q1 < l.e1 ∧ 0 ≤ q2 ∧ q2 < l.e2 then some ⟨q0.toNat, q1.toNat, q2.toNat⟩ else none

/-- Whether a point is ready (R302). -/
def Launch.isReady (l : Launch) (p : Point) : Bool :=
  !l.isDone p && !l.handedOut p && decide (p.p0 < (l.row (l.rowOf p)).1 + 64) &&
    l.deps.all (fun d => match l.pred p d with
      | none => true
      | some q => l.isDone q)

/-- The first ready point of a row, within its window (R302, R303). -/
def Launch.readyInRow (l : Launch) (r : Nat) : Option Point :=
  let t := (l.row r).1
  (((List.range 64).map (fun i => (⟨t + i, r % l.e1, r / l.e1⟩ : Point))).filter (fun p => decide (p.p0 < l.e0))).find? l.isReady

/-- The first ready point in row-major order (R303). -/
def Launch.firstReady (l : Launch) : Option Point := (List.range l.rows.length).findSome? l.readyInRow

/-- Points done: the sum over the rows (R313). -/
def Launch.doneCount (l : Launch) : Nat :=
  l.rows.foldl (fun n r => n + r.1 + ((List.range 64).filter (fun i => r.2.getLsbD i)).length) 0

def Launch.points (l : Launch) : Nat := l.e0 * l.e1 * l.e2

/-- The tasks that hold a point. -/
def Launch.holders (l : Launch) : List Task := l.tasks.filter (fun t => t.held.isSome)

/-- Whether every point has been handed out. -/
def Launch.exhausted (l : Launch) : Bool :=
  decide (l.points ≤ l.doneCount + l.holders.length)

/-- The point marked done (R312). -/
def Launch.mark (l : Launch) (p : Point) : Launch :=
  let r := l.rowOf p
  let e := l.row r
  { l with rows := l.rows.set r (normalRow l.e0 64 e.1 (e.2 ||| (1 <<< (p.p0 - e.1)))) }

/-! ## Completion -/

def State.launchOf (s : State) (handle : Slot) : Option Launch := s.part.launches.find? (fun l => decide (l.handle = handle))

def State.setLaunch (s : State) (l : Launch) : State :=
  s.modPart (fun p => { p with launches := p.launches.map (fun k => if k.handle = l.handle then l else k) })

def State.modLaunch (s : State) (handle : Slot) (f : Launch → Launch) : State :=
  s.modPart (fun p => { p with launches := p.launches.map (fun k => if k.handle = handle then f k else k) })

/-- Answers the waiting FNEXT of a hart. -/
def answerFnext (id : Nat) (v : Word) (s : State) : State :=
  s.modHartOf s.part.cfg.pid id (fun h => match h.status with
    | .waiting (.fnext _ rd) => h.answer rd v
    | _ => h)

/-- All waiting FNEXT of a launch answered with −1 (R311, R315). -/
def dismissFnext (l : Launch) (s : State) : State :=
  (l.waiting.foldl (fun s id => answerFnext id minusOne s) s).modLaunch l.handle (fun k => { k with waiting := [] })

/-- The value of the completion word (R315). A launch that is CANCELLING and has lost no point was cancelled by FCANCEL, and then the
last FDONE too ends it with the cancel form (R321; log entry 33). -/
def Launch.finalWord (l : Launch) : Word :=
  if l.failed then 0x8000000000000044
  else if l.state = .cancelling then 0x4000000000000000 ||| word l.doneCount
  else l.cval

/-- The completion of a launch: its word, by the translation kept (R309), the entries, and the launch whose word it is (R315). -/
def Launch.completion (l : Launch) : Completion :=
  { Completion.of l.by_ l.cwordVa l.finalWord (l.handle.setWidth 64) (if l.failed then Cause.fpointbad.code else 0)
      (if l.intr then some (5, 0, l.handle.setWidth 64) else none) with
    key := some l.cwordKey, launch := some l.handle }

/-- Completion: the word, the posts, and the answers to waiting FNEXT (R315). -/
def completeLaunch (l : Launch) (s : State) : State :=
  dismissFnext l ((finishCommand l.completion s).modLaunch l.handle (fun k => { k with state := .done }))

/-- Frees the slot of a launch that is over, and raises its generation (R306). -/
def freeLaunch (l : Launch) (s : State) : State :=
  let slot := bitsOf l.handle.toNat 0 8
  s.modPart (fun p =>
    { p with
      launches := p.launches.filter (fun k => decide (k.handle ≠ l.handle))
      launchGens := assocSet p.launchGens slot ((assocGet p.launchGens slot 0 + 1) % 2 ^ 22) })

/-- The completion of a launch that has come to its end (R312, R315). -/
def settleState (l : Launch) (s : State) : State :=
  match l.state with
  | .running => if l.points ≤ l.doneCount then completeLaunch l s else s
  | .cancelling => if l.points ≤ l.doneCount ∨ l.holders = [] then completeLaunch l s else dismissFnext l s
  | _ => s

def tryFree (handle : Slot) (s : State) : State :=
  match s.launchOf handle with
  | none => s
  | some l => if l.wordWritten && l.tasks.all (·.ended) then freeLaunch l s else s

/-- What follows a change of a launch: its completion (R312, R315), and the freeing of its slot (R306). -/
def settleLaunch (handle : Slot) (s : State) : State :=
  match s.launchOf handle with
  | none => s
  | some l => tryFree handle (settleState l s)

/-- A task that ends: it holds no point from then on, the one it held is lost, and its launch is cancelled (R305) (DEDUCED,
log entry 33). -/
def taskEnded (id : Nat) (s : State) : State :=
  match s.part.launches.find? (fun l => l.tasks.any (fun t => decide (t.hart = id) && !t.ended)) with
  | none => s
  | some l =>
    let lost := l.tasks.any (fun t => decide (t.hart = id) && !t.ended && t.held.isSome)
    settleLaunch l.handle (s.modLaunch l.handle (fun l =>
      { l with
        tasks := l.tasks.map (fun t => if t.hart = id then { t with ended := true, held := none } else t)
        waiting := l.waiting.filter (· ≠ id)
        failed := l.failed || lost
        state := if lost ∧ l.state = .running then .cancelling else l.state }))

end Sys2Proof.Machine
end

