-- ==== Sys2Proof/Machine/Arbiter.lean ====
section
/-! DEFINITION. The lane arbiter of a hall (R96 to R101), the register geometry (R107, R108), the lazy vector switch (R213) and
residency (R101). -/

namespace Sys2Proof.Machine

/-! ## Geometry -/

/-- The slots of a vector register (R108). -/
def slotsPer (bricks lmod nreg : Nat) : Nat := bricks * lmod * 8 * 32 / nreg

/-- Elements per row (R108, R136). -/
def capOf (h : Hart) (shape : BitVec 15) : Nat :=
  h.bricks * h.lmod * 8 * 32 * 32 * grpOf shape / h.nreg / widthOf (ewOf shape)

/-- The bits of a mask and the columns of a tile (R189, R201). -/
def maskBits (bricks lmod : Nat) : Nat := bricks * lmod * 1024
def tileCols (bricks lmod : Nat) : Nat := bricks * lmod * 16

/-- A strip's vector state under a new number of lanes: what lies beyond it is discarded (R102). -/
def Strip.relayout (nreg lanes : Nat) (st : Strip) : Strip :=
  { st with
    v := st.v.map (fun r => r.take (slotsPer 1 lanes nreg))
    m := st.m.map (fun b => b.take (maskBits 1 lanes))
    t := st.t.map (fun t => t.map (fun row => row.take (tileCols 1 lanes)))
    lost := st.lost.filter (fun u => decide (u.2 < if u.1 < 32 then slotsPer 1 lanes nreg else tileCols 1 lanes)) }

/-- A change of the grant: the re-layout of R102 for the geometry now in force is due, and with it that of every change since the
state was last in place (R213; DEDUCED, log entry 51). -/
def Hart.relayout (h : Hart) : Hart := { h with cut := some (capBy (h.bricks * h.lmod) h.cut) }

/-- The re-layout that is due, carried out once the state is in place (R102, R213). -/
def Hart.placed (h : Hart) : Hart :=
  match h.cut with
  | none => h
  | some n => { h with live := h.live.relayout h.nreg n, ckpt := h.ckpt.relayout h.nreg n, cut := none }

/-! ## Bricks -/

def phaseOf (s : State) : Nat := bitsOf s.dev.devstat.toNat 32 8

/-- Whether the device is in reduced service (R354, R356). -/
def isReduced (s : State) : Bool := decide (phaseOf s = 2)

/-- The bricks a hall offers (R96, R356). -/
def offered (s : State) : Nat := if isReduced s then 4 else Config.bricksPerHall

def State.brickAt (s : State) (hall b : Nat) : Brick := assocGet s.dev.bricks (hall, b) ⟨none, 0⟩

/-- A brick's usable lanes (R107). -/
def Brick.lanes (b : Brick) : Nat := ((List.range 16).filter (fun i => !b.retired.getLsbD i)).length

/-- Whether a brick is not retired: it has a usable lane. The manual retires lanes (R361) and does not say when a brick is retired
(R96): DESIGN CHOICE (log entry 51): once all its lanes are. -/
def State.usable (s : State) (b : Nat × Nat) : Bool := decide ((s.brickAt b.1 b.2).lanes ≠ 0)

/-- Bricks of a hall that can be granted: offered and not retired (R96). -/
def usableBricks (s : State) (hall : Nat) : List Nat :=
  (List.range (offered s)).filter (fun b => s.usable (hall, b))

def State.setOwner (s : State) (hall b : Nat) (o : Option Nat) : State :=
  s.modDev (fun d => { d with bricks := assocSet d.bricks (hall, b) { s.brickAt hall b with owner := o } })

/-- Frees bricks of a list that carry a tag. -/
def State.freeTags (s : State) (bs : List (Nat × Nat)) (tag : Nat) : State :=
  bs.foldl (fun s b => if (s.brickAt b.1 b.2).owner = some tag then s.setOwner b.1 b.2 none else s) s

/-- The halls of a partition. -/
def State.hallsOf (s : State) (p : PartId) : List Nat :=
  ((s.allParts.find? (fun q => decide (q.cfg.pid = p))).map (·.cfg.halls)).getD []

/-- The partner halls of a hall in ring order (R103, R336). -/
def partnersOf (c : PartCfg) (hall : Nat) : List Nat :=
  match c.partners.find? (fun p => decide (p.1 = hall)) with
  | some (_, a, b, d) => [a, b, d].filterMap (fun x => if x = 0xFF then none else some x.toNat)
  | none => []

/-- The bricks of a partition's halls that carry a tag. -/
def State.tagged (s : State) (p : PartId) (tag : Nat) : List (Nat × Nat) :=
  (s.dev.bricks.filter (fun b => decide (b.2.owner = some tag ∧ b.1.1 ∈ s.hallsOf p))).map (·.1)

/-- Whether a hart's vector state is in place (R213). -/
def inPlace (s : State) (h : Hart) : Bool :=
  (s.tagged h.pid h.id).all (fun b => h.grant.contains b) &&
  h.grant.all (fun b => match (s.brickAt b.1 b.2).owner with
    | none => true
    | some o => o == h.id) &&
  !vownerOut h.vowner

/-- The halls of a hart's blocks: its own, and its partners in ring order (R103). -/
def State.blocksOf (s : State) (h : Hart) : List Nat :=
  h.hall :: ((s.allParts.find? (fun q => decide (q.cfg.pid = h.pid))).map (fun q => partnersOf q.cfg h.hall)).getD []

/-- The bricks in which a hart's vector state lies, in the order of its slots: block by block, in each the lowest number first
(R104, R108). Where it is in place they are those of its grant, else those with its tag. -/
def placeBricks (s : State) (h : Hart) : List (Nat × Nat) :=
  let l := if inPlace s h then h.grant else s.tagged h.pid h.id
  (s.blocksOf h).flatMap (fun hall =>
    (List.range Config.bricksPerHall).filterMap (fun b => if l.contains (hall, b) then some (hall, b) else none))

/-- Tags the bricks of the issuing hart's grant with it, at its first use of them (R213). -/
def State.tagGrant (s : State) : State :=
  s.hart.grant.foldl (fun t b => t.setOwner b.1 b.2 (some s.hart.id)) s

/-! ## Targets (R96) -/

/-- A candidate of a hall's arbiter. -/
structure Cand where
  pid : PartId
  gang : Nat
  u : Nat
  min : Nat
  pref : Nat
  prio : Nat
  age : Nat
  deriving DecidableEq, Repr

def Cand.before (a b : Cand) : Bool :=
  decide (b.prio < a.prio) ||
  (decide (a.prio = b.prio) && (decide (a.age < b.age) || (decide (a.age = b.age) && decide (a.gang ≤ b.gang))))

def insertCand (c : Cand) : List Cand → List Cand
  | [] => [c]
  | d :: ds => if c.before d then c :: d :: ds else d :: insertCand c ds

def sortCands : List Cand → List Cand
  | [] => []
  | c :: cs => insertCand c (sortCands cs)

/-- Whether a hart takes part in arbitration: it is live and not taken off with its launch or job. -/
def Hart.isCandidate (h : Hart) : Bool :=
  h.isLive && h.status != .off .job && (match h.status with
    | .off (.launch _) => false
    | _ => true)

/-- The members of a partition's gang, by the gang's age, that take part in arbitration. -/
def membersOf (s : State) (p : PartId) (key : Nat) : List Hart :=
  s.allHarts.filter (fun h => decide (h.pid = p ∧ h.gkey = key) && h.isCandidate)

/-- The candidates of a hall: the gangs that live in it, and the blocks of spread harts that lie in it (R96, R103). -/
def candidates (s : State) (hall : Nat) : List Cand :=
  sortCands (s.allParts.flatMap (fun p => p.gangs.filterMap (fun g =>
    let ms := membersOf s p.cfg.pid g.age
    let spread := ms.any (·.spread)
    if ms.isEmpty then none
    else if g.hall = hall ∨ (spread ∧ hall ∈ partnersOf p.cfg g.hall) then
      some ⟨p.cfg.pid, g.id, g.size, g.min, g.pref, g.prio, g.age⟩
    else none)))

/-- Pass 1 of R96: the minimums. -/
def passMin : List Cand → Nat → List (Cand × Nat) × Nat
  | [], free => ([], free)
  | c :: cs, free =>
    let t := if c.u * c.min ≤ free then c.u * c.min else 0
    let r := passMin cs (free - t)
    ((c, t) :: r.1, r.2)

/-- Pass 2 of R96: toward preferred. -/
def passPref : List (Cand × Nat) → Nat → List (Cand × Nat)
  | [], _ => []
  | (c, t) :: cs, free =>
    let k := if t = 0 ∨ c.u = 0 then 0 else Nat.min (c.u * c.pref - t) free / c.u * c.u
    (c, t + k) :: passPref cs (free - k)

/-- The target of every candidate of a hall, in the order of R96. -/
def targets (s : State) (hall : Nat) : List (Cand × Nat) :=
  let r := passMin (candidates s hall) (usableBricks s hall).length
  passPref r.1 r.2

/-- The bricks each member of a gang is to hold in a hall. -/
def shareOf (s : State) (hall : Nat) (p : PartId) (key : Nat) : Nat :=
  match (targets s hall).find? (fun c => decide (c.1.pid = p ∧ c.1.age = key)) with
  | some (c, t) => t / c.u
  | none => 0

def Hart.share (s : State) (h : Hart) : Nat := shareOf s h.hall h.pid h.gkey

/-! ## Taking and giving bricks -/

/-- The bricks a hart holds in a hall, lowest number first. -/
def Hart.holds (h : Hart) (hall : Nat) : List (Nat × Nat) :=
  (List.range Config.bricksPerHall).filterMap (fun b => if h.grant.contains (hall, b) then some (hall, b) else none)

/-- The bricks of a hall in no grant: those tagged with the hart first, then free ones, then others (R98, R213). -/
def available (s : State) (h : Hart) (hall : Nat) : List (Nat × Nat) :=
  let bs := (usableBricks s hall).filter (fun b =>
    s.allHarts.all (fun g => !(g.isLive && g.grant.contains (hall, b))))
  let tag := fun b => (s.brickAt hall b).owner
  (bs.filter (fun b => tag b == some h.id) ++ bs.filter (fun b => tag b == none) ++
    bs.filter (fun b => tag b != some h.id && tag b != none)).map (fun b => (hall, b))

/-- A hart with the bricks of a hall it can reach, up to n. -/
def growTo (s : State) (hall n : Nat) (h : Hart) : Hart :=
  { h with grant := h.grant ++ (available s h hall).take (n - (h.holds hall).length) }

/-- The smallest number of lanes among a grant's bricks that are not retired (R107). -/
def minLanes (s : State) : List (Nat × Nat) → Nat
  | [] => 16
  | b :: bs => if s.usable b then Nat.min (s.brickAt b.1 b.2).lanes (minLanes s bs) else minLanes s bs

/-- BRICKS, DIES and LMOD rewritten for the bricks held (R98, R99, R104, R107). -/
def settle (s : State) (h : Hart) : Hart :=
  { h with
    bricks := h.grant.length, dies := Nat.max 1 (h.grant.map (·.1)).eraseDups.length
    lmod := if h.grant = [] then h.lmod else minLanes s h.grant }

/-- Whether the bricks held give the capacity the checkpoint's VL needs (R100). -/
def holdsEnough (s : State) (h : Hart) : Bool :=
  h.atSetvl || decide (h.ckpt.vl.toNat ≤ capOf (settle s h) h.ckpt.shape)

/-- The run state of a hart put back on its sequencer: held where it lacks bricks (R100). -/
def Hart.resumed (s : State) (h : Hart) : HartStatus := if holdsEnough s h then .ready else .held

def gangOf (s : State) (h : Hart) : Option Gang :=
  (s.allParts.find? (fun p => decide (p.cfg.pid = h.pid))).bind (fun p => p.gangs.find? (fun g => decide (g.age = h.gkey)))

/-- Whether a hart's open strip holds nothing yet: a request is taken at once (R211). -/
def Hart.atCommit (h : Hart) : Bool := decide (h.live = h.ckpt) && h.mortar.isEmpty && decide (h.pending = 0)

/-- Whether a hart is held at its continuation checkpoint: it lacks bricks, or another member of its gang does (R100). -/
def Hart.isHeld (s : State) (h : Hart) : Bool :=
  h.status == .held || (h.status == .ready && h.atCommit && !h.atSetvl &&
    s.allHarts.any (fun g => g.pid == h.pid && g.gkey == h.gkey && g.id != h.id && g.status == .held))

/-- A held hart regranted: scheduled again, with VLGRANT and its elements under the new holding (R100, R102). -/
def regrant (s : State) (h : Hart) : Hart :=
  let h := settle s h
  ({ h with status := .ready, vlgrant := BitVec.ofNat 32 (capOf h h.ckpt.shape) } : Hart).relayout

/-- What a waiting or held hart gets of the bricks that are free (R99, R100). -/
def serveHart (hall share : Nat) (s : State) (h : Hart) : State :=
  if h.status = .waiting .grant ∨ h.isHeld s then s.modHartOf h.pid h.id (growTo s hall share) else s

/-- Whether a held hart may go on: it holds the bricks of its VL, and in a gang of several its share (R100). -/
def mayReturn (s : State) (hall share : Nat) (h : Hart) : Bool :=
  holdsEnough s h && (decide ((gangOf s h).elim 1 (·.size) ≤ 1) || decide (share ≤ (h.holds hall).length))

/-- What the members of a gang get of the free bricks of a hall. Those that are held are regranted together (R100). -/
def serveGang (hall share : Nat) (p : PartId) (key : Nat) (s : State) : State :=
  let s := (membersOf s p key).foldl (serveHart hall share) s
  let held := (membersOf s p key).filter (Hart.isHeld s)
  if held.all (mayReturn s hall share) then held.foldl (fun s h => s.modHartOf h.pid h.id (regrant s)) s else s

/-- Hands the free bricks of a hall to the waiting and held candidates, in the order of R96 (R99). -/
def handOut (hall : Nat) (s : State) : State :=
  (targets s hall).foldl (fun s c => serveGang hall (c.2 / c.1.u) c.1.pid c.1.age s) s

/-! ## Taking a hart off (R211, R212) -/

/-- A rollback of the open strip: R205, R189. A bound mask keeps its bits. -/
def Hart.rollback (h : Hart) : Hart :=
  let masks := Vector.ofFn (fun i : Fin 8 =>
    if h.bound.any (fun b => decide (b.1.toNat = i.val)) then h.live.m[i] else h.ckpt.m[i])
  { h with live := { h.ckpt with m := masks }, mortar := [], pages := [], stale := false, pending := 0, rerun := h.ckptSetvl
           asked := none, reply := [], refused := [], reading := none }

/-- The commands that an engine has accepted of a hart that leaves: a FNEXT that it waits in is withdrawn, and is accepted when it is
issued again (R311, R339). -/
def Hart.stillAccepted (h : Hart) : List EngineKind :=
  match h.status with
  | .waiting (.fnext _ _) => h.accepted.erase .front
  | _ => h.accepted

/-- A hart that leaves while its CURATT waits for its ticks: the command is accepted, and survives (R7, R283; log entry 40). -/
def Hart.answered (h : Hart) : Hart :=
  match h.status with
  | .waiting (.curatt rd v) => h.answer rd v
  | _ => h

/-- A hart taken off: it leaves its bricks, and its sequencer unless only its target is 0. It re-issues the instruction it waits
in. Its state is at its checkpoint. Its context is the hart's entry in State. -/
def Hart.takenOff (s : State) (why : Off) (h : Hart) : Hart :=
  let accepted := h.stillAccepted
  let h := { h.answered with
    preempt := none, grant := [], asked := none, reply := [], refused := [], reading := none, queued := [], accepted := accepted }
  match why with
  | .bricks => { h with status := h.resumed s }
  | .managed => { h with status := .off .slot, slot := none }
  | why => { h with status := .off why, slot := none }

/-- Takes a hart off; the device saves the context of one that leaves with a launch, a job or its partition in the hart-context
region, and so its bricks become free (R212). -/
def takeOff (p : PartId) (id : Nat) (why : Off) (s : State) : State :=
  let s := s.modHartOf p id (Hart.takenOff s why)
  match why with
  | .bricks => s
  | .slot => s
  | _ => (s.freeTags (s.tagged p id) id).modDev (fun d => { d with contexts := d.contexts ++ [p] })

/-- Of two reasons to be off, the one that keeps a hart off longer: a saved launch, then a job, then the management plane. -/
def Off.rank : Off → Nat
  | .bricks => 0
  | .slot => 1
  | .managed => 2
  | .job => 3
  | .launch _ => 4

/-- A request joined with one that is pending (R10, R353; log entry 31). -/
def Off.joined (why : Off) : Option Off → Off
  | none => why
  | some w => if w.rank < why.rank then why else w

/-- A pre-emption request: a hart that waits in a closing instruction is taken at once, but for one whose load or atomic awaits
its response, one whose close has not performed its stores, and one that ends; any other is taken at its next commit point
(R211, R333). A hart that is off is off for the stronger reason. -/
def requestOff (why : Off) (h : Hart) (s : State) : State :=
  let want := why.joined h.preempt
  let later := s.modHartOf h.pid h.id (fun h => { h with preempt := some want })
  match h.status with
  | .waiting (.remote _ _) => later
  | .waiting (.atomic _ _ _) => later
  | .waiting (.ending _) => later
  | .waiting .acks => if h.outgoing.isEmpty then takeOff h.pid h.id want s else later
  | .waiting _ => takeOff h.pid h.id want s
  | .held => takeOff h.pid h.id want s
  | .off w => if w.rank < why.rank then takeOff h.pid h.id why s else s
  | .ready => later
  | _ => s

/-! ## Residency (R101) -/

/-- The lowest-numbered free resident slot of a hall. -/
def freeSlot (s : State) (hall : Nat) : Option Nat :=
  (List.range (Config.sequencers * Config.slotsPerSequencer)).find? (fun i =>
    s.allHarts.all (fun h => !(h.isLive && h.hall == hall && h.slot == some i)))

/-- Residency order: priority descending, then age, then id ascending. -/
def outranks (s : State) (a b : Hart) : Bool :=
  match gangOf s a, gangOf s b with
  | some g, some k =>
    decide (k.prio < g.prio) || (decide (g.prio = k.prio) &&
      (decide (g.age < k.age) || (decide (g.age = k.age) && decide (a.id ≤ b.id))))
  | _, _ => false

/-- The first of a list in residency order. -/
def firstInRank (s : State) : List Hart → Option Hart
  | [] => none
  | h :: hs =>
    match firstInRank s hs with
    | none => some h
    | some g => some (if outranks s h g then h else g)

/-- Fills the free slots of a hall from its waiting harts, at most n of them. -/
def fillSlots (hall : Nat) : Nat → State → State
  | 0, s => s
  | n + 1, s =>
    match freeSlot s hall, firstInRank s (s.allHarts.filter (fun h => h.hall == hall && h.status == .off .slot)) with
    | some i, some h => fillSlots hall n (s.modHartOf h.pid h.id (fun h => { h with slot := some i, status := h.resumed s }))
    | _, _ => s

/-- The slots and the bricks that harts have left go to those who wait (R99, R101). -/
def yieldHall (hall : Nat) (s : State) : State := handOut hall (fillSlots hall (Config.sequencers * Config.slotsPerSequencer) s)

def yieldHalls (halls : List Nat) (s : State) : State := halls.foldl (fun s h => yieldHall h s) s

/-- The halls in which a hart has a slot or bricks. -/
def Hart.blockHalls (h : Hart) : List Nat := (h.hall :: h.grant.map (·.1)).eraseDups

/-- A hart taken off, and what it leaves given to those who wait. -/
def takeAway (why : Off) (h : Hart) (s : State) : State := yieldHalls h.blockHalls (takeOff h.pid h.id why s)

/-! ## Arbitration events (R97) -/

/-- A waiting SETVL whose target falls releases the bricks above it, highest first, and those with its tag become free; a hart whose
target is 0 is asked to leave its bricks (R98, R211, R213) (DEDUCED, log entry 29). -/
def applyTarget (hall share : Nat) (s : State) (h : Hart) : State :=
  let s := match h.status with
    | .waiting .grant =>
      let gone := (h.holds hall).drop share
      (s.freeTags gone h.id).modHartOf h.pid h.id (fun h => { h with grant := h.grant.filter (fun b => !gone.contains b) })
    | _ => s
  if share = 0 ∧ h.hall = hall ∧ h.grant ≠ [] ∧ h.preempt = none ∧ h.status ≠ .held ∧ h.status ≠ .waiting .grant then
    requestOff .bricks h s
  else s

/-- Recomputes the targets of a hall, and hands out its slots and bricks. -/
def arbitrateOnce (hall : Nat) (s : State) : State :=
  let ts := targets s hall
  let s := ts.foldl (fun s c => (membersOf s c.1.pid c.1.age).foldl (applyTarget hall (c.2 / c.1.u)) s) s
  yieldHall hall s

/-! ## Parked launches (R319) -/

/-- The live task harts of a launch. -/
def taskHarts (s : State) (p : PartId) (l : Launch) : List Hart :=
  s.allHarts.filter (fun h => h.pid == p && h.isLive && l.tasks.any (fun t => t.hart == h.id && !t.ended))

/-- Whether a hart waits for a slot or for its lease minimum. -/
def Hart.waitsInHall (h : Hart) : Bool := h.status == .off .slot || h.status == .waiting .grant

/-- Whether a task of a launch of higher priority waits in a hall that holds tasks of this one. -/
def outranked (s : State) (p : Partition) (l : Launch) : Bool :=
  let halls := (taskHarts s p.cfg.pid l).map (·.hall)
  p.launches.any (fun k => decide (l.prio < k.prio) &&
    (taskHarts s p.cfg.pid k).any (fun h => halls.contains h.hall && h.waitsInHall))

/-- The tasks of a saved or parked launch wait for resident slots again. -/
def releaseTasks (p : PartId) (handle : Slot) (s : State) : State :=
  s.mapHarts (fun h => if h.pid = p ∧ h.status = .off (.launch handle) then { h with status := .off .slot } else h)

/-- The parked launches of a partition that return after an event in a hall; none while its job is switched (R353). -/
def returning (hall : Nat) (s : State) (p : Partition) : List Launch :=
  p.launches.filter (fun l => l.state == .parked && s.dev.jobState p.cfg.job == .running &&
    (taskHarts s p.cfg.pid l).any (fun h => h.hall == hall) && !outranked s p l)

def setRunning (handles : List Slot) (p : Partition) : Partition :=
  { p with launches := p.launches.map (fun l =>
      if handles.contains l.handle then { l with state := if l.failed then .cancelling else .running } else l) }

/-- Parked launches return to RUNNING, and their tasks re-enter; one that lost a point is cancelled (R305). -/
def unpark (hall : Nat) (s : State) : State :=
  let back := s.allParts.map (fun p => (p.cfg.pid, (returning hall s p).map (·.handle)))
  let handlesOf := fun (p : Partition) => (back.filter (fun b => b.1 == p.cfg.pid)).flatMap (·.2)
  let s := { s with part := setRunning (handlesOf s.part) s.part, parts := s.parts.map (fun p => setRunning (handlesOf p) p) }
  let s := back.foldl (fun s b => b.2.foldl (fun s h => releaseTasks b.1 h s) s) s
  back.foldl (fun s b => if b.2 = [] then s else s.inPart b.1 (fun s => b.2.foldl (fun s h => settleLaunch h s) s)) s

/-- An arbitration event of a hall. -/
def arbitrate (hall : Nat) (s : State) : State :=
  let s := arbitrateOnce hall s
  if s.allParts.all (fun p => (returning hall s p).isEmpty) then s else arbitrateOnce hall (unpark hall s)

/-- The halls of a gang's blocks, and their arbitration. -/
def arbitrateGang (p : PartId) (key : Nat) (s : State) : State :=
  match (s.allParts.find? (fun q => decide (q.cfg.pid = p))) with
  | none => s
  | some q =>
    match q.gangs.find? (fun k => decide (k.age = key)) with
    | none => s
    | some k => (k.hall :: (if (membersOf s p key).any (·.spread) then partnersOf q.cfg k.hall else [])).foldl
        (fun s h => arbitrate h s) s

end Sys2Proof.Machine
end

