-- ==== Sys2Proof/Machine/Ops.lean ====
section
/-! DEFINITION. The operations that the meanings share: registers, the accesses of the issuing hart, strips (R142 to R146, R161), the
end of a hart (R90, R95, R208), taking a trap (R207) and returning from one (R209). -/

namespace Sys2Proof.Machine

/-! ## Scalar registers and the program counter -/

def State.xr (s : State) (r : XReg) : Word := if r = 0 then 0 else s.hart.live.x[r.toNat]

def State.setX (s : State) (r : XReg) (v : Word) : State := s.modLive (Strip.setX r v)

def State.pc (s : State) : Word := s.hart.live.pc

/-- An instruction of len bytes that does not close the strip is complete (R129). -/
def State.advance (s : State) (len : Nat) : State :=
  s.modHart (fun h =>
    { h with live := { h.live with pc := h.live.pc + word len }, pending := h.pending + 1, reply := [], refused := [], reading := none })

/-- The same, with the place where the hart goes on. -/
def State.goto (s : State) (pc : Word) : State :=
  s.modHart (fun h =>
    { h with live := { h.live with pc := pc }, pending := h.pending + 1, reply := [], refused := [], reading := none })

/-- Writes a register and goes on: the common end of the scalar instructions. -/
def State.put (s : State) (r : XReg) (v : Word) (len : Nat) : State := (s.setX r v).advance len

/-- A closing instruction is complete. -/
def State.complete (s : State) : State := s.modHart Hart.complete

/-- A closing instruction that writes a register is complete. -/
def State.finish (s : State) (r : XReg) (v : Word) : State := (s.setX r v).complete

/-- The issuing hart waits in its closing instruction: its open strip is empty and holds no translation (R132). -/
def State.await (s : State) (w : Wait) : State := s.modHart (fun h => { h with status := .waiting w, pages := [], stale := false })

/-! ## Effects -/

def trap {α : Type} (c : Cause) (val : Word) (valx : Word := 0) : M α := throw (.trap c val valx)

/-- A trap with TVAL the instruction word (R64). -/
def trapWord {α : Type} (c : Cause) (w : BitVec 32) : M α := throw (.trap c (w.setWidth 64) 0)

def check (ok : Bool) (c : Cause) (val : Word) : M Unit := if ok then pure () else trap c val

def read {α : Type} (f : State → α) : M α := fun s => .ok (f s) s
def update (f : State → State) : M Unit := fun s => .ok () (f s)

/-- An instruction that waits for remote bytes leaves the state as it found it, and is issued again with them (R333): a register is
popped once (R260). -/
def retry {α : Type} (m : M α) : M α := fun s =>
  match m s with
  | .error (.remote k n) _ => .error (.remote k n) s
  | .error (.reading e k n) _ => .error (.reading e k n) s
  | r => r

/-! ## Accesses -/

/-- Translates an address of a scalar access; a failure traps with TVAL the address (R64, R114). -/
def translate (k : Kind) (a : Word) : M Loc := fun s =>
  match xlate k a s with
  | (t, .ok loc) => .ok loc t
  | (t, .error (.cause c)) => .error (.trap c a 0) t
  | (t, .error (.remote k n)) => .error (.remote k n) t
  | (t, .error (.stop f)) => .error (.stop f) t

/-- A store laid over bytes read at a key (R72). -/
def overlay (k : Nat) (bs : List Byte) (st : Store) : List Byte :=
  bs.mapIdx (fun i b => if st.key ≤ k + i then (st.data[k + i - st.key]?).getD b else b)

/-- The stores of the hart that are not performed, in program order. -/
def Hart.unperformed (h : Hart) : List Store := h.outgoing ++ h.mortar

/-- Whether a byte comes from a store of the hart that is not performed. -/
def Hart.covers (h : Hart) (k : Nat) : Bool := h.unperformed.any (fun st => decide (st.key ≤ k ∧ k < st.key + st.data.length))

/-- The bytes that the hart sees at a key: memory, under its own stores (R72). -/
def visible (s : State) (k n : Nat) : List Byte := s.hart.unperformed.foldl (overlay k) (s.peek k n)

/-- The offset of the first byte of a load that reads a damaged unit (R361). A byte that the hart's own store supplies reads none
(DESIGN CHOICE, log entry 56). -/
def damagedByte (s : State) (k n : Nat) : Option Nat :=
  (List.range n).find? (fun i => s.damagedAt (k + i) 1 && !s.hart.covers (k + i))

/-- The offset of the first byte whose read another device has refused (R334). -/
def Hart.refusedByte (h : Hart) (k n : Nat) : Option Nat := (List.range n).find? (fun i => h.refused.contains (k + i))

/-- The offset at which a read of n bytes fails, in memory or at another device. -/
def failingByte (s : State) (k n : Nat) : Option Nat := if isRemote k then s.hart.refusedByte k n else damagedByte s k n

/-- Reads n bytes of a place; the abort is the UNCOR trap of the access, by the offset of the failing byte, or a wait for remote
bytes. -/
def fetchBytes (loc : Loc) (n : Nat) (uncor : Nat → Abort) : M (List Byte) := fun s =>
  match failingByte s loc.key n with
  | some i => .error (uncor i) s
  | none =>
    if isRemote loc.key then
      match s.hart.missing loc.key n, s.hart.replied loc.key n with
      | none, some bs => .ok (s.hart.unperformed.foldl (overlay loc.key) bs) s
      | some p, _ => .error (.remote p.1 p.2) s
      | none, none => .error (.remote loc.key n) s
    else .ok (visible s loc.key n) s

/-- A scalar load of n bytes (R114). -/
def loadScalar (a : Word) (n : Nat) : M Nat := retry do
  check (a.toNat % n == 0) .align a
  let loc ← translate .load a
  let bs ← fetchBytes loc n (fun _ => .trap .uncor a 0)
  pure (leNat bs)

/-! ## Strips -/

/-- Sets A and D in the leaf of a page stored to, unless the cached translation shows both set (R161). -/
def markStored (s : State) (key : Nat) : State :=
  if s.dev.tlb.any (fun e => decide (e.hall = s.hart.hall ∧ e.leafKey = key) && e.leaf.getLsbD 6 && e.leaf.getLsbD 7) then s
  else s.markLeaf key 0xC0

/-- The strip commits: its pages are marked, its stores leave the mortar, and a continuation strip opens at the instruction
itself (R143, R161). -/
def State.commit (s : State) : State :=
  let s := (s.hart.mortar.filterMap (·.leaf)).eraseDups.foldl markStored s
  s.modHart (fun h =>
    { h.reopen with
      outgoing := h.outgoing ++ h.mortar, mortar := [], staleOut := h.staleOut || (h.stale && !h.mortar.isEmpty) })

/-- Performs stores in order, up to the first that must wait for acknowledgements (R72, R333). -/
def drainStores : List Store → State → State × List Store
  | [], s => (s, [])
  | st :: rest, s =>
    if isRemote st.key then
      if s.hart.acks.all (fun a => a.1 == (remoteTarget s.part.cfg st.key).1) then drainStores rest (s.hartWrite st.key st.data)
      else (s, st :: rest)
    else if s.hart.acks.isEmpty then drainStores rest (s.poke st.key st.data)
    else (s, st :: rest)

/-- Performs the stores of the hart as far as they may be. Bytes that have come from other devices before such a store are older than it,
and are read again (R69, R72). -/
def State.drain (s : State) : State :=
  let r := drainStores s.hart.outgoing s
  r.1.modHart (fun h =>
    { h with
      outgoing := r.2, staleOut := h.staleOut && !(r.2.isEmpty && h.acks.isEmpty)
      reply := if r.2 = h.outgoing then h.reply else [], refused := if r.2 = h.outgoing then h.refused else [] })

/-- Whether a closing instruction goes on after its commit: no acknowledgement is waited for (R333: a release waits for all, also for
those of what an engine has written for the hart), and no pre-emption request is taken here (R211). -/
def afterCommit (release : Bool) (s : State) : State × Bool :=
  if !s.hart.outgoing.isEmpty || (release && (!s.hart.acks.isEmpty || s.hart.owes s)) then (s.await .acks, false)
  else match s.hart.preempt with
    | some why => (takeAway why s.hart s, false)
    | none => (s, true)

/-- Closes the open strip; true where the closing instruction goes on. -/
def closeStrip (release : Bool) (s : State) : State × Bool := afterCommit release s.commit.drain

/-- A closing instruction: it closes the strip before it does anything else (R88, R142). Where it then waits for remote bytes it is
issued again from there. -/
def closing (release : Bool) (body : M Unit) : M Unit := fun s =>
  match closeStrip release s with
  | (t, true) => retry body t
  | (t, false) => .ok () t

/-! ## The mortar (R145, R146) -/

/-- The chunk of 32 bytes that an address lies in, by virtual address (DESIGN CHOICE, log entry 25). -/
def chunkOf (a : Word) : Nat := a.toNat / 32

/-- The chunks that the mortar uses. -/
def mortarChunks (h : Hart) : List Nat := (h.mortar.map (fun st => chunkOf st.va)).eraseDups

/-- The chunks the mortar holds; a hart without bricks has the mortar of one (R145). -/
def mortarSize (h : Hart) : Nat := if h.grant = [] then 2048 else Nat.max 1 h.bricks * 2048

/-- The new chunks that stores to some addresses need. -/
def newChunks (h : Hart) (as : List Word) : List Nat :=
  let used := mortarChunks h
  (as.map chunkOf).eraseDups.filter (fun c => !used.contains c)

/-- Whether the open strip holds nothing yet and no SETVL opened it. -/
def Hart.isFresh (h : Hart) : Bool :=
  decide (h.live.pc = h.ckpt.pc) && h.mortar.isEmpty && decide (h.pending = 0) && !h.ckptSetvl

/-- Room in the mortar for an instruction's stores, by their addresses: an implicit commit comes before the instruction where they
do not fit, and before a store that the whole mortar cannot hold (R145, R146) (DEDUCED, log entry 25). -/
def makeRoom (as : List Word) : M Unit := fun s =>
  let h := s.hart
  if (mortarChunks h).length + (newChunks h as).length ≤ mortarSize h ∨ h.isFresh then .ok () s else .error .commitFirst s

/-- Puts stores into the mortar. -/
def emit (sts : List Store) : M Unit := update (fun s => s.modHart (fun h => { h with mortar := h.mortar ++ sts }))

/-- A store of bytes at an address and its place, with the leaf whose A and D bits it needs. -/
def mkStore (a : Word) (loc : Loc) (bs : List Byte) : Store := ⟨a, loc.key, bs, loc.leaf.map (·.key)⟩

/-- A scalar store of the low n bytes of a value, by an instruction of len bytes (R114). -/
def storeScalar (a v : Word) (n len : Nat) : M Unit := retry do
  makeRoom [a]
  check (a.toNat % n == 0) .align a
  let loc ← translate .store a
  emit [mkStore a loc (leBytes n v.toNat)]
  update (fun s => s.advance len)

/-- The leaf of a place that is written, with A and D set (R161). -/
def markPage (loc : Loc) (s : State) : State :=
  match loc.leaf with
  | some l => markStored s l.key
  | none => s

/-- A write of the hart that is performed at once: an atomic, an exit word (DEDUCED, log entry 26). -/
def performNow (loc : Loc) (bs : List Byte) (s : State) : State :=
  let s := markPage loc s
  if isRemote loc.key then s.hartWrite loc.key bs else s.poke loc.key bs

/-- What an instruction whose write is performed at once comes to: where the marking of its page on another device must be acknowledged
first, it waits and is issued again (R161). -/
def afterMark (loc : Loc) (done : State → State) (s : State) : State :=
  if (markPage loc s).hart.acks.isEmpty then done s else (markPage loc s).await .acks

/-- A request of the issuing hart for which it expects a response (R333). -/
def State.askFor (s : State) (key kind len : Nat) (payload : List Byte) : State :=
  let num := s.dev.nextReq
  (s.request s.hart.origin (dieOf s.hart.hall) key kind len payload).modHart (fun h => { h with asked := some num })

/-- The same, and the hart waits for it. -/
def State.ask (s : State) (key kind len : Nat) (payload : List Byte) (w : Wait) : State :=
  (s.askFor key kind len payload).modHart (fun h => { h with status := .waiting w })

/-- A read of the issuing hart, unless one is on its way (R333). -/
def askOnce (k n : Nat) (s : State) : State := if s.hart.asked.isSome then s else s.askFor k 1 n []

/-- An access that needs remote bytes sends a read and waits (R333); it is issued again with the response. -/
def awaitRemote (k n : Nat) (s : State) : State := s.ask k 1 n [] (.remote k n)

/-! ## The end of a hart -/

/-- A barrier phase completed, with the bricks each member is to hold now: they are the grant of the phase that begins, once the
gang has had its first grant (R94, R98). -/
def Gang.next (share : Nat) (g : Gang) : Gang :=
  { g with phase := g.phase + 1, arrived := [], phaseGrant := g.phaseGrant.map (fun _ => share) }

/-- Members of a gang that wait at the barrier issue again. -/
def wakeGang (p : PartId) (key : Nat) (s : State) : State :=
  s.mapHarts (fun h =>
    if h.pid = p ∧ h.gkey = key ∧ (h.status = .waiting .arrive ∨ h.status = .waiting .phase) then { h with status := .ready } else h)

/-- Changes a gang of the partition, by its age. -/
def State.modGang (s : State) (key : Nat) (f : Gang → Gang) : State :=
  s.modPart (fun p => { p with gangs := p.gangs.map (fun g => if g.age = key then f g else g) })

/-- The gang of the issuing hart. -/
def State.gang (s : State) : Option Gang := s.part.gangs.find? (fun g => decide (g.age = s.hart.gkey))

/-- The barrier phase of a gang is complete where all its members have arrived (R94, R95). -/
def settlePhase (key : Nat) (s : State) : State :=
  wakeGang s.part.cfg.pid key (s.modGang key (fun g =>
    if g.arrived.length = g.size ∧ 0 < g.size then g.next (shareOf s g.hall s.part.cfg.pid key) else g))

/-- The issuing hart leaves its gang (R95). The gang is there, and can be joined up to its declared size, until GANGSZ is 0
(DESIGN CHOICE, log entry 52). -/
def leaveGang (s : State) : State :=
  let h := s.hart
  let s := s.modGang h.gkey (fun g => { g with size := g.size - 1, arrived := g.arrived.filter (· ≠ h.id) })
  (settlePhase h.gkey s).modPart (fun p => { p with gangs := p.gangs.filter (fun g => decide (g.size ≠ 0)) })

/-- The entry that a refused exit word posts comes after the others of the hart: a control hart's end has its own (R339). -/
def exitOrigin (v : Word) (h : Hart) : Origin := .exit h.id (h.entries + if h.id = 0 then 1 else 0) h.exitVa v

/-- Writes the exit word, or posts kind 10 where the write fails (R90). A remote one is sent, and its refusal comes later (R334). -/
def writeExit (v : Word) (s : State) : State :=
  if s.hart.exitVa = 0 then s
  else
    match xlate .store s.hart.exitVa s with
    | (t, .ok loc) =>
      if isRemote loc.key then (markPage loc t).sendWrite (exitOrigin v t.hart) (dieOf t.hart.hall) loc.key (leBytes 8 v.toNat)
      else performNow loc (leBytes 8 v.toNat) t
    | (t, .error e) => postHart false 10 e.status s.hart.exitVa v 0 t

/-- The copies of an ended hart that have written their words leave their slots (R255). -/
def freeCopies (serial : Nat) (s : State) : State :=
  s.modPart (fun p => { p with copies := p.copies.filter (fun c => decide (c.by_.serial ≠ serial) || c.state == .running) })

/-- The issuing hart, whose stores are performed, ends with an exit value: R17, R90, R91, R95, R99, R255, R305. -/
def endHart (v : Word) (s : State) : State :=
  let h := s.hart
  let s := writeExit v s
  let s := if h.id = 0 then postHart true 3 0 v 0 0 s else s
  let halls := h.hall :: (if h.spread then partnersOf s.part.cfg h.hall else [])
  let s := freeCopies h.serial (leaveGang s)
  let s := s.freeTags (s.tagged h.pid h.id) h.id
  let s := s.modHart (fun h =>
    { h with
      status := if h.detached ∧ h.id ≠ 0 then .absent else .ended
      slot := none, grant := [], announce := none, binds := [], bound := [], mortar := [], preempt := none, pages := []
      stale := false, asked := none, reading := none })
  let s := s.mapHarts (fun g =>
    let g := if g.pid = h.pid ∧ g.claim = some h.id then { g with claim := none } else g
    if g.pid = h.pid ∧ g.status = .waiting (.join h.id) then { g with status := .ready } else g)
  halls.foldl (fun s hall => arbitrate hall s) (taskEnded h.id s)

/-! ## Traps -/

/-- The trap registers and the state at the handler (R207). -/
def Hart.enterTrap (c : Cause) (val valx : Word) (h : Hart) : Hart :=
  let sync := decide (c = .trapi ∨ c = .brk)
  let epc := if sync then h.live.pc + 4 else h.ckpt.pc
  let sk := !sync && h.ckptSetvl
  let trim := if sync then none else h.trim
  let h := if sync then h else h.rollback
  let handled := tstatTk h.tstat || decide (h.tvec = 0)
  let h := { h with
    tepc := epc, tcause := c.code, tval := val, tvalx := valx, tldl := h.live.ldl, trim := none
    asked := none, reply := [], refused := [], reading := none, status := .ready }
  if handled then { h with tstat := mkTstat (trimField trim) sk (tstatTk h.tstat) (tstatPm h.tstat) }
  else
    let h := { h with
      tstat := mkTstat (trimField trim) sk true (decide (h.mode = Mode.supervisor))
      mode := .supervisor
      live := { h.live with pc := h.tvec } }
    { h with ckpt := h.live, ckptSetvl := false, rerun := false, atSetvl := false, pages := [], stale := false, pending := 0 }

/-- Whether a trap ends the hart: a trap is being handled, or there is no handler (R208). -/
def trapEnds (h : Hart) : Bool := tstatTk h.tstat || decide (h.tvec = 0)

/-- Whether a hart's stores, and what engines have written for it, are performed and acknowledged: a release may go on (R333). -/
def Hart.settled (s : State) (h : Hart) : Bool := h.outgoing.isEmpty && h.acks.isEmpty && !h.owes s

/-- The issuing hart ends with an exit value once its stores are performed and acknowledged: its exit word is a release. It waits for a
table on another device that the word's translation needs, and for the marking of the word's page (R90, R161, R208, R333). -/
def endAfterStores (v : Word) (s : State) : State :=
  if s.hart.settled s = false then s.await (.ending v)
  else if s.hart.exitVa = 0 then endHart v s
  else match xlate .store s.hart.exitVa s with
    | (t, .error (.remote k n)) => (askOnce k n t).await (.ending v)
    | (_, .error _) => endHart v s
    | (t, .ok loc) => if (markPage loc t).hart.acks.isEmpty then endHart v s else (markPage loc t).await (.ending v)

/-- Takes a trap (R207), or ends the hart (R208). -/
def takeTrap (c : Cause) (val valx : Word) (s : State) : State :=
  let s := if c = .uncor then s.noteUncor else s
  let ends := trapEnds s.hart
  let s := s.modHart (Hart.enterTrap c val valx)
  if ends then
    endAfterStores (0x8000000000000000 ||| c.code.setWidth 64) (postHart false 1 c.code val s.hart.tepc 0 s)
  else s

/-- The return from a trap, after the handler's strip is closed (R209). -/
def Hart.leaveTrap (h : Hart) : Hart :=
  let sk := tstatSk h.tstat
  let limit := if sk then trimLimit (tstatTrim h.tstat) else none
  let h := { h with
    mode := if tstatPm h.tstat then .supervisor else .user
    tstat := mkTstat (tstatTrim h.tstat) sk false (tstatPm h.tstat)
    live := { h.live with ldl := h.tldl, pc := h.tepc } }
  { h.reopen with instret := h.instret + 1, trim := limit, atSetvl := sk }

/-- The silent re-run of a trimmed strip (R152): its limit is lowered, and it starts again at its SETVL. -/
def Hart.retrim (k : Nat) (h : Hart) : Hart :=
  { h.rollback with trim := some (capBy k h.trim), status := .ready }

abbrev Out := Host.Outcome State Fault Refusal

/-- What an instruction comes to. -/
def run (m : M Unit) (s : State) : Out :=
  match m s with
  | .ok _ t => .next t
  | .error (.trap c val valx) t => .next (takeTrap c val valx t)
  | .error (.remote k n) t => .next (awaitRemote k n t)
  | .error (.reading e k n) t => .next ((awaitRemote k n t).modHart (fun h => { h with reading := some e }))
  | .error (.retrim k) t => .next (t.modHart (Hart.retrim k))
  | .error .commitFirst _ => .next (closeStrip false s).1
  | .error (.stop f) _ => .fault f

/-- Supervisor only (R47). -/
def needSupervisor (w : BitVec 32) : M Unit := do
  let m ← read (fun s => s.hart.mode)
  if m = .supervisor then pure () else trapWord .priv w

end Sys2Proof.Machine
end

