-- ==== Sys2Proof/Machine/Alu.lean ====
section
/-! DEFINITION. The scalar integer instructions (R110 to R113). -/

namespace Sys2Proof.Machine

/-- The R-form operations: xA from xB and xC. -/
def op3 (f : Word → Word → Word) (a b c : XReg) (len : Nat) (s : State) : Out := .next (s.put a (f (s.xr b) (s.xr c)) len)

/-- The operations of one source. -/
def op2 (f : Word → Word) (a b : XReg) (s : State) : Out := .next (s.put a (f (s.xr b)) 4)

/-- The I-form operations: the immediate is sign-extended (R112). -/
def opI (f : Word → Word → Word) (o : I15) (s : State) : Out := .next (s.put o.a (f (s.xr o.b) (o.imm.signExtend 64)) 4)

def flag (b : Bool) : Word := if b then 1 else 0

/-- The shift amount of a register: its bits 5:0. -/
def amount (c : Word) : Nat := (c.extractLsb' 0 6).toNat

def signedDiv (b c : Word) : Word := if c = 0 then minusOne else b.sdiv c
def unsignedDiv (b c : Word) : Word := if c = 0 then minusOne else b / c
def signedRem (b c : Word) : Word := if c = 0 then b else b.srem c
def unsignedRem (b c : Word) : Word := if c = 0 then b else b % c
def mulHigh (b c : Word) : Word := ((b.signExtend 128 * c.signExtend 128) >>> 64).setWidth 64
def mulHighU (b c : Word) : Word := ((b.setWidth 128 * c.setWidth 128) >>> 64).setWidth 64
def leadingZeros (b : Word) : Word := word (((List.range 64).find? (fun i => b.getLsbD (63 - i))).getD 64)
def trailingZeros (b : Word) : Word := word (((List.range 64).find? (fun i => b.getLsbD i)).getD 64)
def onesOf (b : Word) : Word := word ((List.range 64).filter (fun i => b.getLsbD i)).length

/-- The low 8, 16 or 32 bits extended, for the width codes 0, 1, 2 (R110, R43). -/
def extendBy (signed : Bool) (w : BitVec 5) (b : Word) : Word :=
  let n := 8 * 2 ^ w.toNat
  if signed then (b.setWidth n).signExtend 64 else (b.setWidth n).setWidth 64

def wordAdd (b c : Word) : Word := ((b + c).setWidth 32).signExtend 64
def wordSub (b c : Word) : Word := ((b - c).setWidth 32).signExtend 64

/-- The upper immediate: IMM20 × 2^12, sign-extended from 32 bits (R113). -/
def upper (imm : BitVec 20) : Word := (imm ++ 0#12).signExtend 64

/-- R110. -/
def execAdd (o : R3) (s : State) : Out := op3 (fun b c => b + c) o.a o.b o.c 4 s

/-- R110. -/
def execSub (o : R3) (s : State) : Out := op3 (fun b c => b - c) o.a o.b o.c 4 s

/-- R110. -/
def execAnd (o : R3) (s : State) : Out := op3 (fun b c => b &&& c) o.a o.b o.c 4 s

/-- R110. -/
def execOr (o : R3) (s : State) : Out := op3 (fun b c => b ||| c) o.a o.b o.c 4 s

/-- R110. -/
def execXor (o : R3) (s : State) : Out := op3 (fun b c => b ^^^ c) o.a o.b o.c 4 s

/-- R110. -/
def execAndn (o : R3) (s : State) : Out := op3 (fun b c => b &&& ~~~c) o.a o.b o.c 4 s

/-- R110. -/
def execShl (o : R3) (s : State) : Out := op3 (fun b c => b <<< amount c) o.a o.b o.c 4 s

/-- R110. -/
def execShr (o : R3) (s : State) : Out := op3 (fun b c => b >>> amount c) o.a o.b o.c 4 s

/-- R110. -/
def execSra (o : R3) (s : State) : Out := op3 (fun b c => b.sshiftRight (amount c)) o.a o.b o.c 4 s

/-- R110. -/
def execRol (o : R3) (s : State) : Out := op3 (fun b c => b.rotateLeft (amount c)) o.a o.b o.c 4 s

/-- R110. -/
def execRor (o : R3) (s : State) : Out := op3 (fun b c => b.rotateRight (amount c)) o.a o.b o.c 4 s

/-- R110. -/
def execSlt (o : R3) (s : State) : Out := op3 (fun b c => flag (b.slt c)) o.a o.b o.c 4 s

/-- R110. -/
def execSltn (o : R3) (s : State) : Out := op3 (fun b c => flag (b.ult c)) o.a o.b o.c 4 s

/-- R110. -/
def execMin (o : R3) (s : State) : Out := op3 (fun b c => if b.slt c then b else c) o.a o.b o.c 4 s

/-- R110. -/
def execMax (o : R3) (s : State) : Out := op3 (fun b c => if b.slt c then c else b) o.a o.b o.c 4 s

/-- R110. -/
def execMinn (o : R3) (s : State) : Out := op3 (fun b c => if b.ult c then b else c) o.a o.b o.c 4 s

/-- R110. -/
def execMaxn (o : R3) (s : State) : Out := op3 (fun b c => if b.ult c then c else b) o.a o.b o.c 4 s

/-- R110. -/
def execMul (o : R3) (s : State) : Out := op3 (fun b c => b * c) o.a o.b o.c 4 s

/-- R110. -/
def execMulh (o : R3) (s : State) : Out := op3 (mulHigh) o.a o.b o.c 4 s

/-- R110. -/
def execMulhn (o : R3) (s : State) : Out := op3 (mulHighU) o.a o.b o.c 4 s

/-- R111. -/
def execDiv (o : R3) (s : State) : Out := op3 (signedDiv) o.a o.b o.c 4 s

/-- R111. -/
def execDivn (o : R3) (s : State) : Out := op3 (unsignedDiv) o.a o.b o.c 4 s

/-- R111. -/
def execRem (o : R3) (s : State) : Out := op3 (signedRem) o.a o.b o.c 4 s

/-- R111. -/
def execRemn (o : R3) (s : State) : Out := op3 (unsignedRem) o.a o.b o.c 4 s

/-- R110. -/
def execAddw (o : R3) (s : State) : Out := op3 (wordAdd) o.a o.b o.c 4 s

/-- R110. -/
def execSubw (o : R3) (s : State) : Out := op3 (wordSub) o.a o.b o.c 4 s

/-- R110. -/
def execClz (o : R2) (s : State) : Out := op2 leadingZeros o.a o.b s

/-- R110. -/
def execCtz (o : R2) (s : State) : Out := op2 trailingZeros o.a o.b s

/-- R110. -/
def execPopc (o : R2) (s : State) : Out := op2 onesOf o.a o.b s

/-- R110. -/
def execSext (o : RW) (s : State) : Out := op2 (extendBy true o.w) o.a o.b s

/-- R110. -/
def execZext (o : RW) (s : State) : Out := op2 (extendBy false o.w) o.a o.b s

/-- R112. -/
def execAddi (o : I15) (s : State) : Out := opI (fun b i => b + i) o s

/-- R112. -/
def execAndi (o : I15) (s : State) : Out := opI (fun b i => b &&& i) o s

/-- R112. -/
def execOri (o : I15) (s : State) : Out := opI (fun b i => b ||| i) o s

/-- R112. -/
def execXori (o : I15) (s : State) : Out := opI (fun b i => b ^^^ i) o s

/-- R112. -/
def execSlti (o : I15) (s : State) : Out := opI (fun b i => flag (b.slt i)) o s

/-- R112. -/
def execSltni (o : I15) (s : State) : Out := opI (fun b i => flag (b.ult i)) o s

/-- R112. -/
def execShli (o : Sh) (s : State) : Out := op2 (fun b => b <<< o.n.toNat) o.a o.b s

/-- R112. -/
def execShri (o : Sh) (s : State) : Out := op2 (fun b => b >>> o.n.toNat) o.a o.b s

/-- R112. -/
def execSrai (o : Sh) (s : State) : Out := op2 (fun b => b.sshiftRight o.n.toNat) o.a o.b s

/-- R112. -/
def execRori (o : Sh) (s : State) : Out := op2 (fun b => b.rotateRight o.n.toNat) o.a o.b s

/-- R113. -/
def execLui (o : U20) (s : State) : Out := .next (s.put o.a (upper o.imm) 4)

/-- R113. -/
def execAddpc (o : U20) (s : State) : Out := .next (s.put o.a (s.pc + upper o.imm) 4)

end Sys2Proof.Machine
end

