-- ==== Sys2Proof/Machine/Atom.lean ====
section
/-! DEFINITION. Atomics (R123, R75, R76). The order and the scope of an atomic order the hart's other accesses; in this machine of
whole steps every access is performed in order. An atomic and a release come after every earlier store of the hart, so they wait for
acknowledgements (R73, R76, R333; log entry 12). -/

namespace Sys2Proof.Machine

/-- The value an atomic returns: the W forms sign-extend (R123). -/
def atomicResult (n old : Nat) : Word := (BitVec.ofNat (8 * n) old).signExtend 64

/-- Sends an atomic to remote memory and waits for its response (R333). The payload holds the operation, its size, xC and xA
(log entry 13). -/
def sendAtomic (op n : Nat) (loc : Loc) (rd : XReg) (c a : Word) (s : State) : State :=
  (s.await (.atomic loc.key n rd)).ask loc.key 5 n (leBytes 1 op ++ leBytes 1 n ++ leBytes n c.toNat ++ leBytes n a.toNat)
    (.atomic loc.key n rd)

/-- The operations of read-modify-write atomics by their code (R45): the new value from the old one, from xC and from xA; none
where nothing is written. -/
def atomicNew (op n old c a : Nat) : Option Nat :=
  let size := 2 ^ (8 * n)
  let so := signedOf (8 * n) old
  let sc := signedOf (8 * n) c
  match op with
  | 0 => some ((old + c) % size)
  | 1 => some c
  | 2 => if old = a then some c else none
  | 3 => some (old &&& c)
  | 4 => some (old ||| c)
  | 5 => some (old ^^^ c)
  | 6 => some (if so < sc then old else c)
  | 7 => some (if so < sc then c else old)
  | 8 => some (Nat.min old c)
  | _ => some (Nat.max old c)

/-- A read-modify-write atomic on n bytes (R123), whatever its order. -/
def amoOp (op n : Nat) (o : Amo) (s : State) : Out :=
  run (closing true (do
    let s ← get
    let a := s.xr o.b
    let c := (s.xr o.c).toNat % 2 ^ (8 * n)
    let cmp := (s.xr o.a).toNat % 2 ^ (8 * n)
    check (a.toNat % n == 0) .align a
    let loc ← translate .atomic a
    if isRemote loc.key then
      if s.hart.refused.contains loc.key then trap .uncor a
      else update (afterMark loc (fun s => sendAtomic op n loc o.a (s.xr o.c) (s.xr o.a) (markPage loc s)))
    else do
      let bs ← fetchBytes loc n (fun _ => .trap .uncor a 0)
      let old := leNat bs
      match atomicNew op n old c cmp with
      | some v => update (afterMark loc (fun s => (performNow loc (leBytes n v) s).finish o.a (atomicResult n old)))
      | none => update (fun s => s.finish o.a (atomicResult n old)))) s

/-- R123. -/
def execAaddD (o : Amo) (s : State) : Out := amoOp 0 8 o s
/-- R123. -/
def execAaddW (o : Amo) (s : State) : Out := amoOp 0 4 o s
/-- R123. -/
def execAswpD (o : Amo) (s : State) : Out := amoOp 1 8 o s
/-- R123. -/
def execAswpW (o : Amo) (s : State) : Out := amoOp 1 4 o s
/-- R123, R76. -/
def execAcasD (o : Amo) (s : State) : Out := amoOp 2 8 o s
/-- R123, R76. -/
def execAcasW (o : Amo) (s : State) : Out := amoOp 2 4 o s
/-- R123. -/
def execAandD (o : Amo) (s : State) : Out := amoOp 3 8 o s
/-- R123. -/
def execAorD (o : Amo) (s : State) : Out := amoOp 4 8 o s
/-- R123. -/
def execAxorD (o : Amo) (s : State) : Out := amoOp 5 8 o s
/-- R123. -/
def execAminD (o : Amo) (s : State) : Out := amoOp 6 8 o s
/-- R123. -/
def execAmaxD (o : Amo) (s : State) : Out := amoOp 7 8 o s
/-- R123. -/
def execAminnD (o : Amo) (s : State) : Out := amoOp 8 8 o s
/-- R123. -/
def execAmaxnD (o : Amo) (s : State) : Out := amoOp 9 8 o s

/-- LDAQ: a load that acquires (R75, R123). -/
def ldaqOp (n : Nat) (o : Laq) (s : State) : Out :=
  run (closing false (do
    let s ← get
    let a := s.xr o.b
    let v ← loadScalar a n
    update (fun s => s.finish o.a (atomicResult n v)))) s

/-- STRL: a store that releases, performed at once (R75, R123). -/
def strlOp (n : Nat) (o : Srl) (s : State) : Out :=
  run (closing true (do
    let s ← get
    let a := s.xr o.b
    check (a.toNat % n == 0) .align a
    let loc ← translate .atomic a
    update (afterMark loc (fun t => (performNow loc (leBytes n (s.xr o.c).toNat) t).complete)))) s

/-- R123. -/
def execLdaqD (o : Laq) (s : State) : Out := ldaqOp 8 o s
/-- R123. -/
def execLdaqW (o : Laq) (s : State) : Out := ldaqOp 4 o s
/-- R123. -/
def execStrlD (o : Srl) (s : State) : Out := strlOp 8 o s
/-- R123. -/
def execStrlW (o : Srl) (s : State) : Out := strlOp 4 o s

/-- FENCE: the strip closes (R124), and all acknowledgements are waited for (R333). The orders of R77 hold in this machine
(log entry 12). -/
def execFence (_o : Fnc) (s : State) : Out := run (closing true (update State.complete)) s

/-- WAITA and WAITAW (R125): the value when it differs from xC, else a wait (DEDUCED, log entry 27). -/
def waitOp (n : Nat) (o : R3) (s : State) : Out :=
  run (closing false (do
    let s ← get
    let a := s.xr o.b
    let c := (s.xr o.c).toNat % 2 ^ (8 * n)
    check (a.toNat % n == 0) .align a
    let loc ← translate .load a
    let bs ← fetchBytes loc n (fun _ => .trap .uncor a 0)
    if leNat bs = c then
      update (fun s => (s.modHart (fun h => { h with reply := [], refused := [] })).await (.value loc.key n (word c) o.a))
    else update (fun s => s.finish o.a (atomicResult n (leNat bs))))) s

/-- R125. -/
def execWaita (o : R3) (s : State) : Out := waitOp 8 o s
/-- R125. -/
def execWaitaw (o : R3) (s : State) : Out := waitOp 4 o s

end Sys2Proof.Machine
end

