-- ==== Sys2Proof/Decode.lean ====
section
/-! DEFINITION. The decoder of instruction parcels (R36 to R61) and the encoder written from the same tables. A word the tables
reserve is refused by name; the machine turns a refusal into ILL (R41, R42). The word noncomputable stands where Lean's compiler,
which numbers at most 245 constructors with fields, cannot build the instruction; every definition here is plain data and the
kernel evaluates it (log entry 5). -/

namespace Sys2Proof

/-- Why the decoder refuses a word. -/
inductive Reject where
  /-- The major opcode is reserved (R40, R41). -/
  | reservedMajor
  /-- The tables list no such function of the major (R43 to R55). -/
  | reservedFunction
  /-- A field that must be zero is not (R42). -/
  | nonzeroField
  /-- A field holds a value outside its limits (R43 to R54). -/
  | fieldLimit
  /-- Fewer bytes than the instruction has. -/
  | short
  deriving DecidableEq, Repr

/-! The forms of R38, from bit 31 down to bit 0. -/

def formR (f : BitVec 10) (c b a : BitVec 5) (maj : BitVec 6) : BitVec 32 := f ++ c ++ b ++ a ++ maj ++ 0#1
def formV (op : BitVec 5) (m : BitVec 3) (kc kb : BitVec 1) (c b a : BitVec 5) (maj : BitVec 6) : BitVec 32 :=
  op ++ m ++ kc ++ kb ++ c ++ b ++ a ++ maj ++ 0#1
def formI (imm : BitVec 15) (b a : BitVec 5) (maj : BitVec 6) : BitVec 32 := imm ++ b ++ a ++ maj ++ 0#1
def formU (imm : BitVec 20) (a : BitVec 5) (maj : BitVec 6) : BitVec 32 := imm ++ a ++ maj ++ 0#1
def formC (s d op : BitVec 5) : BitVec 16 := s ++ d ++ op ++ 1#1

/-! The fields of a word (R38, R44 to R54). -/

def fMaj (w : BitVec 32) : BitVec 6 := w.extractLsb' 1 6
def fA (w : BitVec 32) : BitVec 5 := w.extractLsb' 7 5
def fB (w : BitVec 32) : BitVec 5 := w.extractLsb' 12 5
def fC (w : BitVec 32) : BitVec 5 := w.extractLsb' 17 5
def fF10 (w : BitVec 32) : BitVec 10 := w.extractLsb' 22 10
def fImm (w : BitVec 32) : BitVec 15 := w.extractLsb' 17 15
def fImm20 (w : BitVec 32) : BitVec 20 := w.extractLsb' 12 20
def fKB (w : BitVec 32) : BitVec 1 := w.extractLsb' 22 1
def fKC (w : BitVec 32) : BitVec 1 := w.extractLsb' 23 1
def fM (w : BitVec 32) : BitVec 3 := w.extractLsb' 24 3
def fOp5 (w : BitVec 32) : BitVec 5 := w.extractLsb' 27 5
def fP (w : BitVec 32) : BitVec 1 := w.extractLsb' 30 1
def fP1 (w : BitVec 32) : BitVec 1 := w.extractLsb' 31 1
def fR (w : BitVec 32) : BitVec 3 := w.extractLsb' 27 3
def fOrd (w : BitVec 32) : BitVec 2 := w.extractLsb' 25 2
def fScope (w : BitVec 32) : BitVec 3 := w.extractLsb' 22 3
def fOrdB (w : BitVec 32) : BitVec 2 := w.extractLsb' 30 2
def fN (w : BitVec 32) : BitVec 12 := w.extractLsb' 17 12
def fNz (w : BitVec 32) : BitVec 3 := w.extractLsb' 29 3
def fSh (w : BitVec 32) : BitVec 6 := w.extractLsb' 17 6
def fShz (w : BitVec 32) : BitVec 7 := w.extractLsb' 23 7
def fShk (w : BitVec 32) : BitVec 2 := w.extractLsb' 30 2
def fMode (w : BitVec 32) : BitVec 3 := w.extractLsb' 29 3
def fSat (w : BitVec 32) : BitVec 1 := w.extractLsb' 28 1
def fCvt0 (w : BitVec 32) : BitVec 1 := w.extractLsb' 27 1
def lo3 (x : BitVec 5) : BitVec 3 := x.extractLsb' 0 3
def hi2 (x : BitVec 5) : BitVec 2 := x.extractLsb' 3 2
def lo2 (x : BitVec 5) : BitVec 2 := x.extractLsb' 0 2
def hi3 (x : BitVec 5) : BitVec 3 := x.extractLsb' 2 3
def mid1 (x : BitVec 5) : BitVec 1 := x.extractLsb' 2 1

/-- An instruction whose must-be-zero fields are zero, or the refusal (R42). -/
def chk (ok : Bool) (i : Instr) : Except Reject Instr :=
  if ok then .ok i else .error .nonzeroField

/-! For each operand structure: reading it from a word, the fields of the word that must then be zero, and writing it. -/

def gR3 (w : BitVec 32) : R3 := ⟨fC w, fB w, fA w⟩
def eR3 (maj : BitVec 6) (f : BitVec 10) (o : R3) : BitVec 32 := formR f o.c o.b o.a maj
def gR2 (w : BitVec 32) : R2 := ⟨fB w, fA w⟩
def zR2 (w : BitVec 32) : Bool := fC w == 0
def eR2 (maj : BitVec 6) (f : BitVec 10) (o : R2) : BitVec 32 := formR f 0 o.b o.a maj
def gRW (w : BitVec 32) : RW := ⟨fC w, fB w, fA w⟩
def eRW (maj : BitVec 6) (f : BitVec 10) (o : RW) : BitVec 32 := formR f o.w o.b o.a maj
def gI15 (w : BitVec 32) : I15 := ⟨fImm w, fB w, fA w⟩
def eI15 (maj : BitVec 6) (o : I15) : BitVec 32 := formI o.imm o.b o.a maj
def gU20 (w : BitVec 32) : U20 := ⟨fImm20 w, fA w⟩
def eU20 (maj : BitVec 6) (o : U20) : BitVec 32 := formU o.imm o.a maj
def gSt (w : BitVec 32) : St := ⟨fF10 w ++ fA w, fC w, fB w⟩
def eSt (maj : BitVec 6) (o : St) : BitVec 32 := formR (o.imm.extractLsb' 5 10) o.c o.b (o.imm.extractLsb' 0 5) maj
def gJ20 (w : BitVec 32) : J20 := ⟨fImm20 w, fA w⟩
def eJ20 (maj : BitVec 6) (o : J20) : BitVec 32 := formU o.off o.a maj
def gF3 (w : BitVec 32) : F3 := ⟨fP w, fR w, fC w, fB w, fA w⟩
def zF3 (w : BitVec 32) : Bool := fP1 w == 0
def eF3 (maj : BitVec 6) (f : BitVec 5) (o : F3) : BitVec 32 := formR (0#1 ++ o.p ++ o.r ++ f) o.c o.b o.a maj
def gF2 (w : BitVec 32) : F2 := ⟨fP w, fR w, fB w, fA w⟩
def zF2 (w : BitVec 32) : Bool := fP1 w == 0 && fC w == 0
def eF2 (maj : BitVec 6) (f : BitVec 5) (o : F2) : BitVec 32 := formR (0#1 ++ o.p ++ o.r ++ f) 0 o.b o.a maj
def gF3N (w : BitVec 32) : F3N := ⟨fP w, fC w, fB w, fA w⟩
def zF3N (w : BitVec 32) : Bool := fP1 w == 0 && fR w == 0
def eF3N (maj : BitVec 6) (f : BitVec 5) (o : F3N) : BitVec 32 := formR (0#1 ++ o.p ++ 0#3 ++ f) o.c o.b o.a maj
def gF2N (w : BitVec 32) : F2N := ⟨fP w, fB w, fA w⟩
def zF2N (w : BitVec 32) : Bool := fP1 w == 0 && fR w == 0 && fC w == 0
def eF2N (maj : BitVec 6) (f : BitVec 5) (o : F2N) : BitVec 32 := formR (0#1 ++ o.p ++ 0#3 ++ f) 0 o.b o.a maj
def gAmo (w : BitVec 32) : Amo := ⟨fOrd w, fScope w, fC w, fB w, fA w⟩
def eAmo (maj : BitVec 6) (f : BitVec 5) (o : Amo) : BitVec 32 := formR (f ++ o.order ++ o.scope) o.c o.b o.a maj
def gLaq (w : BitVec 32) : Laq := ⟨fScope w, fB w, fA w⟩
def zLaq (w : BitVec 32) : Bool := fOrd w == 0 && fC w == 0
def eLaq (maj : BitVec 6) (f : BitVec 5) (o : Laq) : BitVec 32 := formR (f ++ 0#2 ++ o.scope) 0 o.b o.a maj
def gSrl (w : BitVec 32) : Srl := ⟨fScope w, fC w, fB w⟩
def zSrl (w : BitVec 32) : Bool := fOrd w == 0 && fA w == 0
def eSrl (maj : BitVec 6) (f : BitVec 5) (o : Srl) : BitVec 32 := formR (f ++ 0#2 ++ o.scope) o.c o.b 0 maj
def gFnc (w : BitVec 32) : Fnc := ⟨fC w, fB w⟩
def zFnc (w : BitVec 32) : Bool := fA w == 0
def eFnc (maj : BitVec 6) (f : BitVec 10) (o : Fnc) : BitVec 32 := formR f o.kinds o.scope 0 maj
def zNone (w : BitVec 32) : Bool := fA w == 0 && fB w == 0 && fC w == 0
def eNone (maj : BitVec 6) (f : BitVec 10) : BitVec 32 := formR f 0 0 0 maj
def gCrR (w : BitVec 32) : CrR := ⟨fN w, fA w⟩
def zCrR (w : BitVec 32) : Bool := fB w == 0 && fNz w == 0
def eCrR (maj : BitVec 6) (o : CrR) : BitVec 32 := formI (0#3 ++ o.n) 0 o.a maj
def gCrW (w : BitVec 32) : CrW := ⟨fN w, fB w, fA w⟩
def zCrW (w : BitVec 32) : Bool := fNz w == 0
def eCrW (maj : BitVec 6) (o : CrW) : BitVec 32 := formI (0#3 ++ o.n) o.b o.a maj
def gN (w : BitVec 32) : BitVec 5 := (fC w)
def zN (w : BitVec 32) : Bool := fA w == 0 && fB w == 0
def eN (maj : BitVec 6) (f : BitVec 10) (n : BitVec 5) : BitVec 32 := formR f n 0 0 maj
def gBx (w : BitVec 32) : XReg := (fB w)
def zBx (w : BitVec 32) : Bool := fA w == 0 && fC w == 0
def eBx (maj : BitVec 6) (f : BitVec 10) (b : XReg) : BitVec 32 := formR f 0 b 0 maj
def gTlb (w : BitVec 32) : Tlb := ⟨fC w, fB w⟩
def zTlb (w : BitVec 32) : Bool := fA w == 0
def eTlb (maj : BitVec 6) (f : BitVec 10) (o : Tlb) : BitVec 32 := formR f o.k o.b 0 maj
def gImm (w : BitVec 32) : BitVec 15 := (fImm w)
def zImm (w : BitVec 32) : Bool := fA w == 0 && fB w == 0
def eImm (maj : BitVec 6) (imm : BitVec 15) : BitVec 32 := formI imm 0 0 maj
def gVM2 (w : BitVec 32) : VM2 := ⟨fM w, fB w, fA w⟩
def zVM2 (w : BitVec 32) : Bool := fKC w == 0 && fKB w == 0 && fC w == 0
def eVM2 (maj : BitVec 6) (f : BitVec 5) (o : VM2) : BitVec 32 := formV f o.m 0 0 0 o.b o.a maj
def gVM3 (w : BitVec 32) : VM3 := ⟨fM w, fC w, fB w, fA w⟩
def zVM3 (w : BitVec 32) : Bool := fKC w == 0 && fKB w == 0
def eVM3 (maj : BitVec 6) (f : BitVec 5) (o : VM3) : BitVec 32 := formV f o.m 0 0 o.c o.b o.a maj
def gVMK3 (w : BitVec 32) : VMK3 := ⟨fM w, fKC w, fC w, fB w, fA w⟩
def zVMK3 (w : BitVec 32) : Bool := fKB w == 0
def eVMK3 (maj : BitVec 6) (f : BitVec 5) (o : VMK3) : BitVec 32 := formV f o.m o.kc 0 o.c o.b o.a maj
def gVVV (w : BitVec 32) : VVV := ⟨fM w, fKC w, fKB w, fC w, fB w, fA w⟩
def eVVV (maj : BitVec 6) (f : BitVec 5) (o : VVV) : BitVec 32 := formV f o.m o.kc o.kb o.c o.b o.a maj
def gVVX (w : BitVec 32) : VVX := ⟨fM w, fKB w, fC w, fB w, fA w⟩
def zVVX (w : BitVec 32) : Bool := fKC w == 0
def eVVX (maj : BitVec 6) (f : BitVec 5) (o : VVX) : BitVec 32 := formV f o.m 0 o.kb o.c o.b o.a maj
def gVV (w : BitVec 32) : VV := ⟨fM w, fKB w, fB w, fA w⟩
def zVV (w : BitVec 32) : Bool := fKC w == 0 && fC w == 0
def eVV (maj : BitVec 6) (f : BitVec 5) (o : VV) : BitVec 32 := formV f o.m 0 o.kb 0 o.b o.a maj
def gCvt (w : BitVec 32) : Cvt := ⟨fMode w, fSat w, fM w, fKB w, fKC w ++ fC w, fB w, fA w⟩
def zCvt (w : BitVec 32) : Bool := fCvt0 w == 0
def eCvt (maj : BitVec 6) (o : Cvt) : BitVec 32 := formV (o.mode ++ o.sat ++ 0#1) o.m (o.d.extractLsb' 5 1) o.kb (o.d.extractLsb' 0 5) o.b o.a maj
def gCmpV (w : BitVec 32) : CmpV := ⟨fM w, fKC w, fKB w, fC w, fB w, lo3 (fA w)⟩
def zCmpV (w : BitVec 32) : Bool := hi2 (fA w) == 0
def eCmpV (maj : BitVec 6) (f : BitVec 5) (o : CmpV) : BitVec 32 := formV f o.m o.kc o.kb o.c o.b (0#2 ++ o.d) maj
def gCmpX (w : BitVec 32) : CmpX := ⟨fM w, fKB w, fC w, fB w, lo3 (fA w)⟩
def zCmpX (w : BitVec 32) : Bool := fKC w == 0 && hi2 (fA w) == 0
def eCmpX (maj : BitVec 6) (f : BitVec 5) (o : CmpX) : BitVec 32 := formV f o.m 0 o.kb o.c o.b (0#2 ++ o.d) maj
def gM3 (w : BitVec 32) : M3 := ⟨lo3 (fC w), lo3 (fB w), lo3 (fA w)⟩
def zM3 (w : BitVec 32) : Bool := fM w == 0 && fKC w == 0 && fKB w == 0 && hi2 (fC w) == 0 && hi2 (fB w) == 0 && hi2 (fA w) == 0
def eM3 (maj : BitVec 6) (f : BitVec 5) (o : M3) : BitVec 32 := formV f 0 0 0 (0#2 ++ o.c) (0#2 ++ o.b) (0#2 ++ o.a) maj
def gM2 (w : BitVec 32) : M2 := ⟨lo3 (fB w), lo3 (fA w)⟩
def zM2 (w : BitVec 32) : Bool := fM w == 0 && fKC w == 0 && fKB w == 0 && fC w == 0 && hi2 (fB w) == 0 && hi2 (fA w) == 0
def eM2 (maj : BitVec 6) (f : BitVec 5) (o : M2) : BitVec 32 := formV f 0 0 0 0 (0#2 ++ o.b) (0#2 ++ o.a) maj
def gMX (w : BitVec 32) : MX := ⟨fM w, lo3 (fB w), fA w⟩
def zMX (w : BitVec 32) : Bool := fKC w == 0 && fKB w == 0 && fC w == 0 && hi2 (fB w) == 0
def eMX (maj : BitVec 6) (f : BitVec 5) (o : MX) : BitVec 32 := formV f o.m 0 0 0 (0#2 ++ o.b) o.a maj
def gMSet (w : BitVec 32) : MSet := ⟨fB w, lo3 (fA w)⟩
def zMSet (w : BitVec 32) : Bool := fM w == 0 && fKC w == 0 && fKB w == 0 && fC w == 0 && hi2 (fA w) == 0
def eMSet (maj : BitVec 6) (f : BitVec 5) (o : MSet) : BitVec 32 := formV f 0 0 0 0 o.b (0#2 ++ o.a) maj
def gMa (w : BitVec 32) : MReg := (lo3 (fA w))
def zMa (w : BitVec 32) : Bool := fM w == 0 && fKC w == 0 && fKB w == 0 && fC w == 0 && fB w == 0 && hi2 (fA w) == 0
def eMa (maj : BitVec 6) (f : BitVec 5) (a : MReg) : BitVec 32 := formV f 0 0 0 0 0 (0#2 ++ a) maj
def gVIx (w : BitVec 32) : VIx := ⟨fM w, fA w⟩
def zVIx (w : BitVec 32) : Bool := fKC w == 0 && fKB w == 0 && fC w == 0 && fB w == 0
def eVIx (maj : BitVec 6) (f : BitVec 5) (o : VIx) : BitVec 32 := formV f o.m 0 0 0 0 o.a maj
def gTm (w : BitVec 32) : Tm := ⟨fKC w, fKB w, fC w, fB w, hi2 (fA w), lo2 (fA w)⟩
def zTm (w : BitVec 32) : Bool := fM w == 0 && mid1 (fA w) == 0
def eTm (maj : BitVec 6) (f : BitVec 5) (o : Tm) : BitVec 32 := formV f 0 o.kc o.kb o.c o.b (o.r ++ 0#1 ++ o.t) maj
def gTa (w : BitVec 32) : TReg := (lo2 (fA w))
def zTa (w : BitVec 32) : Bool := fM w == 0 && fKC w == 0 && fKB w == 0 && fC w == 0 && fB w == 0 && hi3 (fA w) == 0
def eTa (maj : BitVec 6) (f : BitVec 5) (t : TReg) : BitVec 32 := formV f 0 0 0 0 0 (0#3 ++ t) maj
def gTrw (w : BitVec 32) : Trw := ⟨fM w, fC w, lo2 (fB w), fA w⟩
def zTrw (w : BitVec 32) : Bool := fKC w == 0 && fKB w == 0 && hi3 (fB w) == 0
def eTrw (maj : BitVec 6) (f : BitVec 5) (o : Trw) : BitVec 32 := formV f o.m 0 0 o.c (0#3 ++ o.t) o.a maj
def gTsr (w : BitVec 32) : Tsr := ⟨fM w, fKB w, fC w, fB w, lo2 (fA w)⟩
def zTsr (w : BitVec 32) : Bool := fKC w == 0 && hi3 (fA w) == 0
def eTsr (maj : BitVec 6) (f : BitVec 5) (o : Tsr) : BitVec 32 := formV f o.m 0 o.kb o.c o.b (0#3 ++ o.t) maj
def gAx (w : BitVec 32) : XReg := (fA w)
def zAx (w : BitVec 32) : Bool := fB w == 0 && fC w == 0
def eAx (maj : BitVec 6) (f : BitVec 10) (a : XReg) : BitVec 32 := formR f 0 0 a maj
def gOrd2 (w : BitVec 32) : Ord2 := ⟨fOrdB w, fB w, fA w⟩
def zOrd2 (w : BitVec 32) : Bool := fC w == 0
def eOrd2 (maj : BitVec 6) (f : BitVec 8) (o : Ord2) : BitVec 32 := formR (o.order ++ f) 0 o.b o.a maj
def gRBC (w : BitVec 32) : RBC := ⟨fC w, fB w⟩
def zRBC (w : BitVec 32) : Bool := fA w == 0
def eRBC (maj : BitVec 6) (f : BitVec 10) (o : RBC) : BitVec 32 := formR f o.c o.b 0 maj

def decOpr (w : BitVec 32) : Except Reject Instr :=
  match fF10 w with
  | 0x000#10 => .ok (.add (gR3 w))
  | 0x001#10 => .ok (.sub (gR3 w))
  | 0x002#10 => .ok (.and (gR3 w))
  | 0x003#10 => .ok (.or (gR3 w))
  | 0x004#10 => .ok (.xor (gR3 w))
  | 0x005#10 => .ok (.andn (gR3 w))
  | 0x006#10 => .ok (.shl (gR3 w))
  | 0x007#10 => .ok (.shr (gR3 w))
  | 0x008#10 => .ok (.sra (gR3 w))
  | 0x009#10 => .ok (.rol (gR3 w))
  | 0x00A#10 => .ok (.ror (gR3 w))
  | 0x00B#10 => .ok (.slt (gR3 w))
  | 0x00C#10 => .ok (.sltn (gR3 w))
  | 0x00D#10 => .ok (.min (gR3 w))
  | 0x00E#10 => .ok (.max (gR3 w))
  | 0x00F#10 => .ok (.minn (gR3 w))
  | 0x010#10 => .ok (.maxn (gR3 w))
  | 0x011#10 => .ok (.mul (gR3 w))
  | 0x012#10 => .ok (.mulh (gR3 w))
  | 0x013#10 => .ok (.mulhn (gR3 w))
  | 0x014#10 => .ok (.div (gR3 w))
  | 0x015#10 => .ok (.divn (gR3 w))
  | 0x016#10 => .ok (.rem (gR3 w))
  | 0x017#10 => .ok (.remn (gR3 w))
  | 0x018#10 => chk (zR2 w) (.clz (gR2 w))
  | 0x019#10 => chk (zR2 w) (.ctz (gR2 w))
  | 0x01A#10 => chk (zR2 w) (.popc (gR2 w))
  | 0x01B#10 => .ok (.sext (gRW w))
  | 0x01C#10 => .ok (.zext (gRW w))
  | 0x01D#10 => .ok (.addw (gR3 w))
  | 0x01E#10 => .ok (.subw (gR3 w))
  | _ => .error .reservedFunction

def decShifti (w : BitVec 32) : Except Reject Instr :=
  match fShk w with
  | 0#2 => chk (fShz w == 0) (.shli ⟨fSh w, fB w, fA w⟩)
  | 1#2 => chk (fShz w == 0) (.shri ⟨fSh w, fB w, fA w⟩)
  | 2#2 => chk (fShz w == 0) (.srai ⟨fSh w, fB w, fA w⟩)
  | 3#2 => chk (fShz w == 0) (.rori ⟨fSh w, fB w, fA w⟩)
  | _ => .error .reservedFunction

def decBr (w : BitVec 32) : Except Reject Instr :=
  match lo3 (fA w) with
  | 0#3 => .ok (.beq ⟨(fA w).extractLsb' 3 2 ++ fF10 w, fC w, fB w⟩)
  | 1#3 => .ok (.bne ⟨(fA w).extractLsb' 3 2 ++ fF10 w, fC w, fB w⟩)
  | 2#3 => .ok (.blt ⟨(fA w).extractLsb' 3 2 ++ fF10 w, fC w, fB w⟩)
  | 3#3 => .ok (.bge ⟨(fA w).extractLsb' 3 2 ++ fF10 w, fC w, fB w⟩)
  | 4#3 => .ok (.bltn ⟨(fA w).extractLsb' 3 2 ++ fF10 w, fC w, fB w⟩)
  | 5#3 => .ok (.bgen ⟨(fA w).extractLsb' 3 2 ++ fF10 w, fC w, fB w⟩)
  | _ => .error .reservedFunction

def decFop (w : BitVec 32) : Except Reject Instr :=
  match (fF10 w).extractLsb' 0 5 with
  | 0x00#5 => chk (zF3 w) (.fadd (gF3 w))
  | 0x01#5 => chk (zF3 w) (.fsub (gF3 w))
  | 0x02#5 => chk (zF3 w) (.fmul (gF3 w))
  | 0x03#5 => chk (zF3 w) (.fdiv (gF3 w))
  | 0x04#5 => chk (zF2 w) (.fsqrt (gF2 w))
  | 0x05#5 => chk (zF3N w) (.fmin (gF3N w))
  | 0x06#5 => chk (zF3N w) (.fmax (gF3N w))
  | 0x07#5 => chk (zF3 w) (.fmadd (gF3 w))
  | 0x08#5 => chk (zF3N w) (.feq (gF3N w))
  | 0x09#5 => chk (zF3N w) (.flt (gF3N w))
  | 0x0A#5 => chk (zF3N w) (.fle (gF3N w))
  | 0x0B#5 => chk (zF2 w) (.fcvti (gF2 w))
  | 0x0C#5 => chk (zF2 w) (.fcvtn (gF2 w))
  | 0x0D#5 => chk (zF2 w) (.fcvtf (gF2 w))
  | 0x0E#5 => chk (zF2 w) (.fcvtfn (gF2 w))
  | 0x0F#5 => chk (zF2 w) (.fcvtp (gF2 w))
  | 0x10#5 => chk (zF2N w) (.fclass (gF2N w))
  | 0x11#5 => chk (zF3N w) (.fsgnj (gF3N w))
  | _ => .error .reservedFunction

def decAtom (w : BitVec 32) : Except Reject Instr :=
  match fOp5 w with
  | 0x00#5 => .ok (.aaddD (gAmo w))
  | 0x01#5 => .ok (.aaddW (gAmo w))
  | 0x02#5 => .ok (.aswpD (gAmo w))
  | 0x03#5 => .ok (.aswpW (gAmo w))
  | 0x04#5 => .ok (.acasD (gAmo w))
  | 0x05#5 => .ok (.acasW (gAmo w))
  | 0x06#5 => .ok (.aandD (gAmo w))
  | 0x07#5 => .ok (.aorD (gAmo w))
  | 0x08#5 => .ok (.axorD (gAmo w))
  | 0x09#5 => .ok (.aminD (gAmo w))
  | 0x0A#5 => .ok (.amaxD (gAmo w))
  | 0x0B#5 => .ok (.aminnD (gAmo w))
  | 0x0C#5 => .ok (.amaxnD (gAmo w))
  | 0x0D#5 => chk (zLaq w) (.ldaqD (gLaq w))
  | 0x0E#5 => chk (zSrl w) (.strlD (gSrl w))
  | 0x0F#5 => chk (zLaq w) (.ldaqW (gLaq w))
  | 0x10#5 => chk (zSrl w) (.strlW (gSrl w))
  | _ => .error .reservedFunction

/-- SYNC (R46); the fields of WAITA are those of R38, whatever word file 13 prints (DEDUCED, log entry 22). -/
def decSync (w : BitVec 32) : Except Reject Instr :=
  match fF10 w with
  | 0x000#10 => chk (zFnc w) (.fence (gFnc w))
  | 0x020#10 => .ok (.waita (gR3 w))
  | 0x040#10 => .ok (.waitaw (gR3 w))
  | 0x080#10 => chk (zNone w) .yield
  | _ => .error .reservedFunction

def decSys (w : BitVec 32) : Except Reject Instr :=
  match fF10 w with
  | 0x000#10 => chk (zN w) (.trap (gN w))
  | 0x001#10 => chk (zNone w) .brk
  | 0x002#10 => chk (zNone w) .tret
  | 0x003#10 => chk (zNone w) .halt
  | 0x004#10 => chk (zBx w) (.vsave (gBx w))
  | 0x005#10 => chk (zBx w) (.vrestore (gBx w))
  | 0x006#10 => chk (zTlb w) (.tlbinv (gTlb w))
  | 0x007#10 => chk (zNone w) .icsync
  | _ => .error .reservedFunction

def decVcfg (w : BitVec 32) : Except Reject Instr :=
  match fF10 w with
  | 0x000#10 => chk (zR2 w) (.setvl (gR2 w))
  | 0x001#10 => chk (zBx w) (.setshape (gBx w))
  | 0x003#10 => chk (zN w) (.vconf (gN w))
  | 0x004#10 => chk (zNone w) .vclose
  | _ => .error .reservedFunction

def decVld (w : BitVec 32) : Except Reject Instr :=
  match fOp5 w with
  | 0x00#5 => chk (zVM2 w) (.vldu (gVM2 w))
  | 0x01#5 => chk (zVM3 w) (.vlds (gVM3 w))
  | 0x02#5 => chk (zVMK3 w) (.vldx (gVMK3 w))
  | 0x03#5 => chk (zVM2 w) (.vldb (gVM2 w))
  | 0x04#5 => chk (zVM3 w) (.vld2d (gVM3 w))
  | _ => .error .reservedFunction

def decVst (w : BitVec 32) : Except Reject Instr :=
  match fOp5 w with
  | 0x00#5 => chk (zVM2 w) (.vstu (gVM2 w))
  | 0x01#5 => chk (zVM3 w) (.vsts (gVM3 w))
  | 0x02#5 => chk (zVMK3 w) (.vstx (gVMK3 w))
  | 0x03#5 => chk (zVM2 w) (.vstuu (gVM2 w))
  | 0x04#5 => chk (zVMK3 w) (.vstxu (gVMK3 w))
  | 0x05#5 => chk (zVM3 w) (.vst2d (gVM3 w))
  | _ => .error .reservedFunction

def decVint (w : BitVec 32) : Except Reject Instr :=
  match fOp5 w with
  | 0x00#5 => .ok (.vadd (gVVV w))
  | 0x01#5 => .ok (.vsub (gVVV w))
  | 0x03#5 => .ok (.vmul (gVVV w))
  | 0x04#5 => .ok (.vmulh (gVVV w))
  | 0x05#5 => .ok (.vmulhn (gVVV w))
  | 0x06#5 => .ok (.vdiv (gVVV w))
  | 0x07#5 => .ok (.vdivn (gVVV w))
  | 0x08#5 => .ok (.vrem (gVVV w))
  | 0x09#5 => .ok (.vremn (gVVV w))
  | 0x0A#5 => .ok (.vmin (gVVV w))
  | 0x0B#5 => .ok (.vmax (gVVV w))
  | 0x0C#5 => .ok (.vminn (gVVV w))
  | 0x0D#5 => .ok (.vmaxn (gVVV w))
  | 0x0E#5 => .ok (.vand (gVVV w))
  | 0x0F#5 => .ok (.vor (gVVV w))
  | 0x10#5 => .ok (.vxor (gVVV w))
  | 0x11#5 => .ok (.vshl (gVVV w))
  | 0x12#5 => .ok (.vshr (gVVV w))
  | 0x13#5 => .ok (.vsra (gVVV w))
  | 0x14#5 => .ok (.vsadd (gVVV w))
  | 0x15#5 => .ok (.vsaddn (gVVV w))
  | 0x16#5 => .ok (.vssub (gVVV w))
  | 0x17#5 => .ok (.vssubn (gVVV w))
  | 0x18#5 => .ok (.vabsd (gVVV w))
  | 0x19#5 => .ok (.vmacc (gVVV w))
  | _ => .error .reservedFunction

def decVintx (w : BitVec 32) : Except Reject Instr :=
  match fOp5 w with
  | 0x00#5 => chk (zVVX w) (.vaddX (gVVX w))
  | 0x01#5 => chk (zVVX w) (.vsubX (gVVX w))
  | 0x03#5 => chk (zVVX w) (.vmulX (gVVX w))
  | 0x04#5 => chk (zVVX w) (.vmulhX (gVVX w))
  | 0x05#5 => chk (zVVX w) (.vmulhnX (gVVX w))
  | 0x06#5 => chk (zVVX w) (.vdivX (gVVX w))
  | 0x07#5 => chk (zVVX w) (.vdivnX (gVVX w))
  | 0x08#5 => chk (zVVX w) (.vremX (gVVX w))
  | 0x09#5 => chk (zVVX w) (.vremnX (gVVX w))
  | 0x0A#5 => chk (zVVX w) (.vminX (gVVX w))
  | 0x0B#5 => chk (zVVX w) (.vmaxX (gVVX w))
  | 0x0C#5 => chk (zVVX w) (.vminnX (gVVX w))
  | 0x0D#5 => chk (zVVX w) (.vmaxnX (gVVX w))
  | 0x0E#5 => chk (zVVX w) (.vandX (gVVX w))
  | 0x0F#5 => chk (zVVX w) (.vorX (gVVX w))
  | 0x10#5 => chk (zVVX w) (.vxorX (gVVX w))
  | 0x11#5 => chk (zVVX w) (.vshlX (gVVX w))
  | 0x12#5 => chk (zVVX w) (.vshrX (gVVX w))
  | 0x13#5 => chk (zVVX w) (.vsraX (gVVX w))
  | 0x14#5 => chk (zVVX w) (.vsaddX (gVVX w))
  | 0x15#5 => chk (zVVX w) (.vsaddnX (gVVX w))
  | 0x16#5 => chk (zVVX w) (.vssubX (gVVX w))
  | 0x17#5 => chk (zVVX w) (.vssubnX (gVVX w))
  | 0x18#5 => chk (zVVX w) (.vabsdX (gVVX w))
  | 0x19#5 => chk (zVVX w) (.vmaccX (gVVX w))
  | _ => .error .reservedFunction

def decVflt (w : BitVec 32) : Except Reject Instr :=
  match fOp5 w with
  | 0x00#5 => .ok (.vfadd (gVVV w))
  | 0x01#5 => .ok (.vfsub (gVVV w))
  | 0x02#5 => .ok (.vfmul (gVVV w))
  | 0x03#5 => .ok (.vfdiv (gVVV w))
  | 0x04#5 => .ok (.vfmin (gVVV w))
  | 0x05#5 => .ok (.vfmax (gVVV w))
  | 0x06#5 => .ok (.vfsgnj (gVVV w))
  | 0x07#5 => .ok (.vfsgnjn (gVVV w))
  | 0x08#5 => chk (zVV w) (.vfsqrt (gVV w))
  | 0x09#5 => chk (zVV w) (.vfrsqrt (gVV w))
  | 0x0A#5 => chk (zVV w) (.vfrcp (gVV w))
  | 0x0B#5 => chk (zVV w) (.vfexp2 (gVV w))
  | 0x0C#5 => chk (zVV w) (.vflog2 (gVV w))
  | 0x0D#5 => chk (zVV w) (.vfabs (gVV w))
  | 0x0E#5 => chk (zVV w) (.vfneg (gVV w))
  | 0x0F#5 => chk (zVV w) (.vfclass (gVV w))
  | 0x10#5 => .ok (.vfma (gVVV w))
  | 0x11#5 => .ok (.vfms (gVVV w))
  | 0x12#5 => .ok (.vfnma (gVVV w))
  | 0x13#5 => .ok (.vfscale (gVVV w))
  | 0x14#5 => .ok (.vfwadd (gVVV w))
  | 0x15#5 => .ok (.vfwmul (gVVV w))
  | 0x16#5 => .ok (.vfwma (gVVV w))
  | _ => .error .reservedFunction

def decVfltx (w : BitVec 32) : Except Reject Instr :=
  match fOp5 w with
  | 0x00#5 => chk (zVVX w) (.vfaddX (gVVX w))
  | 0x01#5 => chk (zVVX w) (.vfsubX (gVVX w))
  | 0x02#5 => chk (zVVX w) (.vfmulX (gVVX w))
  | 0x03#5 => chk (zVVX w) (.vfdivX (gVVX w))
  | 0x04#5 => chk (zVVX w) (.vfminX (gVVX w))
  | 0x05#5 => chk (zVVX w) (.vfmaxX (gVVX w))
  | 0x06#5 => chk (zVVX w) (.vfsgnjX (gVVX w))
  | 0x07#5 => chk (zVVX w) (.vfsgnjnX (gVVX w))
  | 0x10#5 => chk (zVVX w) (.vfmaX (gVVX w))
  | 0x11#5 => chk (zVVX w) (.vfmsX (gVVX w))
  | 0x12#5 => chk (zVVX w) (.vfnmaX (gVVX w))
  | 0x13#5 => chk (zVVX w) (.vfscaleX (gVVX w))
  | 0x14#5 => chk (zVVX w) (.vfwaddX (gVVX w))
  | 0x15#5 => chk (zVVX w) (.vfwmulX (gVVX w))
  | 0x16#5 => chk (zVVX w) (.vfwmaX (gVVX w))
  | _ => .error .reservedFunction

def decVcmp (w : BitVec 32) : Except Reject Instr :=
  match fOp5 w with
  | 0x00#5 => chk (zCmpV w) (.vceq (gCmpV w))
  | 0x01#5 => chk (zCmpV w) (.vcne (gCmpV w))
  | 0x02#5 => chk (zCmpV w) (.vclt (gCmpV w))
  | 0x03#5 => chk (zCmpV w) (.vcle (gCmpV w))
  | 0x04#5 => chk (zCmpV w) (.vcltn (gCmpV w))
  | 0x05#5 => chk (zCmpV w) (.vclen (gCmpV w))
  | 0x06#5 => chk (zCmpV w) (.vfceq (gCmpV w))
  | 0x07#5 => chk (zCmpV w) (.vfclt (gCmpV w))
  | 0x08#5 => chk (zCmpV w) (.vfcle (gCmpV w))
  | 0x09#5 => chk (zCmpV w) (.vfcun (gCmpV w))
  | 0x10#5 => chk (zCmpX w) (.vceqX (gCmpX w))
  | 0x11#5 => chk (zCmpX w) (.vcneX (gCmpX w))
  | 0x12#5 => chk (zCmpX w) (.vcltX (gCmpX w))
  | 0x13#5 => chk (zCmpX w) (.vcleX (gCmpX w))
  | 0x14#5 => chk (zCmpX w) (.vcltnX (gCmpX w))
  | 0x15#5 => chk (zCmpX w) (.vclenX (gCmpX w))
  | 0x16#5 => chk (zCmpX w) (.vfceqX (gCmpX w))
  | 0x17#5 => chk (zCmpX w) (.vfcltX (gCmpX w))
  | 0x18#5 => chk (zCmpX w) (.vfcleX (gCmpX w))
  | 0x19#5 => chk (zCmpX w) (.vfcunX (gCmpX w))
  | _ => .error .reservedFunction

noncomputable def decVmsk (w : BitVec 32) : Except Reject Instr :=
  match fOp5 w with
  | 0x00#5 => chk (zM3 w) (.mand (gM3 w))
  | 0x01#5 => chk (zM3 w) (.mor (gM3 w))
  | 0x02#5 => chk (zM3 w) (.mxor (gM3 w))
  | 0x03#5 => chk (zM3 w) (.mandn (gM3 w))
  | 0x04#5 => chk (zM2 w) (.mnot (gM2 w))
  | 0x05#5 => chk (zMX w) (.mpop (gMX w))
  | 0x06#5 => chk (zMX w) (.mfirst (gMX w))
  | 0x07#5 => chk (zMSet w) (.msetx (gMSet w))
  | 0x08#5 => chk (zMa w) (.mclr (gMa w))
  | 0x09#5 => chk (zMX w) (.viota (gMX w))
  | 0x0A#5 => chk (zVIx w) (.vidx (gVIx w))
  | 0x0B#5 => chk (zMX w) (.mmovv (gMX w))
  | _ => .error .reservedFunction

noncomputable def decVred (w : BitVec 32) : Except Reject Instr :=
  match fOp5 w with
  | 0x00#5 => chk (zVVX w) (.vrsumo (gVVX w))
  | 0x01#5 => chk (zVVX w) (.vrsumt (gVVX w))
  | 0x02#5 => chk (zVVX w) (.vrmaxf (gVVX w))
  | 0x03#5 => chk (zVVX w) (.vrminf (gVVX w))
  | 0x04#5 => chk (zVVX w) (.vrmaxfi (gVVX w))
  | 0x05#5 => chk (zVVX w) (.vrsum (gVVX w))
  | 0x06#5 => chk (zVVX w) (.vrmax (gVVX w))
  | 0x07#5 => chk (zVVX w) (.vrmin (gVVX w))
  | 0x08#5 => chk (zVVX w) (.vrmaxn (gVVX w))
  | 0x09#5 => chk (zVVX w) (.vrminn (gVVX w))
  | 0x0A#5 => chk (zVVX w) (.vrand (gVVX w))
  | 0x0B#5 => chk (zVVX w) (.vror (gVVX w))
  | 0x0C#5 => chk (zVVX w) (.vrxor (gVVX w))
  | 0x0D#5 => chk (zVVX w) (.vrmaxi (gVVX w))
  | _ => .error .reservedFunction

noncomputable def decVprm (w : BitVec 32) : Except Reject Instr :=
  match fOp5 w with
  | 0x00#5 => .ok (.vrgath (gVVV w))
  | 0x01#5 => chk (zVVX w) (.vslup (gVVX w))
  | 0x02#5 => chk (zVVX w) (.vsldn (gVVX w))
  | 0x03#5 => chk (zVV w) (.vcmpr (gVV w))
  | 0x04#5 => .ok (.vmerge (gVVV w))
  | 0x05#5 => chk (zVM2 w) (.vmvs (gVM2 w))
  | 0x06#5 => chk (zVV w) (.vmvx (gVV w))
  | 0x07#5 => chk (zVM2 w) (.vbcst (gVM2 w))
  | 0x08#5 => chk (zVV w) (.vmov (gVV w))
  | 0x09#5 => chk (zVVX w) (.xchg (gVVX w))
  | _ => .error .reservedFunction

noncomputable def decTile (w : BitVec 32) : Except Reject Instr :=
  match fOp5 w with
  | 0x00#5 => chk (zTm w) (.tmac (gTm w))
  | 0x01#5 => chk (zTa w) (.tzero (gTa w))
  | 0x02#5 => chk (zTrw w) (.trow (gTrw w))
  | 0x04#5 => chk (zTsr w) (.tsetrow (gTsr w))
  | _ => .error .reservedFunction

noncomputable def decVstrm (w : BitVec 32) : Except Reject Instr :=
  match fF10 w with
  | 0x000#10 => chk (zR2 w) (.vbind (gR2 w))
  | 0x001#10 => chk (zBx w) (.vunbind (gBx w))
  | 0x002#10 => .ok (.vspos (gR3 w))
  | 0x003#10 => chk (zBx w) (.vsflush (gBx w))
  | _ => .error .reservedFunction

noncomputable def decHart (w : BitVec 32) : Except Reject Instr :=
  match fF10 w with
  | 0x000#10 => chk (zR2 w) (.hspawn (gR2 w))
  | 0x001#10 => chk (zBx w) (.hexit (gBx w))
  | 0x002#10 => chk (zR2 w) (.lease (gR2 w))
  | 0x003#10 => chk (zAx w) (.garrive (gAx w))
  | 0x004#10 => chk (zR2 w) (.gwait (gR2 w))
  | 0x005#10 => chk (zR2 w) (.hjoin (gR2 w))
  | _ => .error .reservedFunction

noncomputable def decCopy (w : BitVec 32) : Except Reject Instr :=
  match fF10 w with
  | 0x000#10 => chk (zR2 w) (.cpystart (gR2 w))
  | 0x001#10 => chk (zBx w) (.cpycan (gBx w))
  | 0x002#10 => .ok (.cpystat (gR3 w))
  | _ => .error .reservedFunction

noncomputable def decBlk (w : BitVec 32) : Except Reject Instr :=
  match (fF10 w).extractLsb' 0 8 with
  | 0x00#8 => chk (fOrdB w == 0 && zR2 w) (.balloc (gR2 w))
  | 0x01#8 => chk (zOrd2 w) (.bref (gOrd2 w))
  | 0x02#8 => chk (zOrd2 w) (.bfree (gOrd2 w))
  | 0x03#8 => chk (fOrdB w == 0 && zR2 w) (.bcow (gR2 w))
  | 0x04#8 => chk (fOrdB w == 0 && zRBC w) (.bpromo (gRBC w))
  | 0x05#8 => chk (fOrdB w == 0 && zBx w) (.bcompact (gBx w))
  | 0x06#8 => chk (fOrdB w == 0 && zAx w) (.epadv (gAx w))
  | 0x07#8 => chk (fOrdB w == 0 && zR2 w) (.eprd (gR2 w))
  | 0x08#8 => chk (fOrdB w == 0) (.bstat (gR3 w))
  | _ => .error .reservedFunction

noncomputable def decXlat (w : BitVec 32) : Except Reject Instr :=
  match fOp5 w with
  | 0x00#5 => chk (zVVX w) (.vxlat (gVVX w))
  | 0x01#5 => chk (zVVX w) (.vxlatf (gVVX w))
  | _ => .error .reservedFunction

noncomputable def decSpan (w : BitVec 32) : Except Reject Instr :=
  match fF10 w with
  | 0x000#10 => chk (zR2 w) (.ixnew (gR2 w))
  | 0x001#10 => .ok (.ixapp (gR3 w))
  | 0x002#10 => chk (zR2 w) (.ixseal (gR2 w))
  | 0x003#10 => chk (zBx w) (.ixdrop (gBx w))
  | 0x004#10 => .ok (.ixshare (gR3 w))
  | 0x005#10 => chk (zR2 w) (.curnew (gR2 w))
  | 0x006#10 => .ok (.curatt (gR3 w))
  | 0x007#10 => .ok (.curfeed (gR3 w))
  | 0x008#10 => .ok (.curprop (gR3 w))
  | 0x009#10 => .ok (.curacc (gR3 w))
  | 0x00A#10 => chk (zR2 w) (.curroll (gR2 w))
  | 0x00B#10 => chk (zBx w) (.curdrop (gBx w))
  | 0x00C#10 => .ok (.curstat (gR3 w))
  | _ => .error .reservedFunction

noncomputable def decFrnt (w : BitVec 32) : Except Reject Instr :=
  match fF10 w with
  | 0x000#10 => chk (zR2 w) (.flaunch (gR2 w))
  | 0x001#10 => .ok (.fpoint (gR3 w))
  | 0x002#10 => chk (zRBC w) (.fdone (gRBC w))
  | 0x003#10 => chk (zR2 w) (.fnext (gR2 w))
  | 0x004#10 => chk (zBx w) (.fsave (gBx w))
  | 0x005#10 => chk (zBx w) (.fresume (gBx w))
  | 0x006#10 => .ok (.fquery (gR3 w))
  | 0x007#10 => chk (zBx w) (.fcancel (gBx w))
  | _ => .error .reservedFunction

noncomputable def decFab (w : BitVec 32) : Except Reject Instr :=
  match fF10 w with
  | 0x000#10 => chk (zBx w) (.gswitch (gBx w))
  | 0x001#10 => chk (zBx w) (.gresume (gBx w))
  | 0x002#10 => .ok (.fbstat (gR3 w))
  | _ => .error .reservedFunction

/-- The word by its major opcode (R40). -/
noncomputable def decodeFields (w : BitVec 32) : Except Reject Instr :=
  match fMaj w with
  | 0x01#6 => decOpr w
  | 0x02#6 => .ok (.addi (gI15 w))
  | 0x03#6 => .ok (.andi (gI15 w))
  | 0x04#6 => .ok (.ori (gI15 w))
  | 0x05#6 => .ok (.xori (gI15 w))
  | 0x06#6 => .ok (.slti (gI15 w))
  | 0x07#6 => .ok (.sltni (gI15 w))
  | 0x08#6 => decShifti w
  | 0x09#6 => .ok (.lui (gU20 w))
  | 0x0A#6 => .ok (.addpc (gU20 w))
  | 0x0B#6 => .ok (.ldb (gI15 w))
  | 0x0C#6 => .ok (.ldh (gI15 w))
  | 0x0D#6 => .ok (.ldw (gI15 w))
  | 0x0E#6 => .ok (.ldd (gI15 w))
  | 0x0F#6 => .ok (.ldbn (gI15 w))
  | 0x10#6 => .ok (.ldhn (gI15 w))
  | 0x11#6 => .ok (.ldwn (gI15 w))
  | 0x12#6 => .ok (.stb (gSt w))
  | 0x13#6 => .ok (.sth (gSt w))
  | 0x14#6 => .ok (.stw (gSt w))
  | 0x15#6 => .ok (.std (gSt w))
  | 0x16#6 => decBr w
  | 0x17#6 => .ok (.jal (gJ20 w))
  | 0x18#6 => .ok (.jalr (gI15 w))
  | 0x19#6 => decFop w
  | 0x1A#6 => decAtom w
  | 0x1B#6 => decSync w
  | 0x1C#6 => chk (zCrR w) (.rdcr (gCrR w))
  | 0x1D#6 => chk (zCrW w) (.wrcr (gCrW w))
  | 0x1E#6 => decSys w
  | 0x20#6 => decVcfg w
  | 0x21#6 => chk (zImm w) (.setshapei (gImm w))
  | 0x22#6 => decVld w
  | 0x23#6 => decVst w
  | 0x24#6 => decVint w
  | 0x25#6 => decVintx w
  | 0x26#6 => decVflt w
  | 0x27#6 => decVfltx w
  | 0x28#6 => chk (zCvt w) (.vcvt (gCvt w))
  | 0x29#6 => decVcmp w
  | 0x2A#6 => decVmsk w
  | 0x2B#6 => decVred w
  | 0x2C#6 => decVprm w
  | 0x2D#6 => decTile w
  | 0x2E#6 => decVstrm w
  | 0x30#6 => decHart w
  | 0x31#6 => decCopy w
  | 0x32#6 => decBlk w
  | 0x33#6 => decXlat w
  | 0x34#6 => decSpan w
  | 0x35#6 => decFrnt w
  | 0x36#6 => decFab w
  | _ => .error .reservedMajor

/-- An instruction within the limits of its fields, or the refusal. -/
def checkLimits (i : Instr) : Except Reject Instr :=
  if i.wf then .ok i else .error .fieldLimit

/-- The instruction a 32-bit word encodes (R36, R38). -/
noncomputable def decode32 (w : BitVec 32) : Except Reject Instr :=
  match decodeFields w with
  | .ok i => checkLimits i
  | .error e => .error e

/-- The compact operation a parcel encodes (R39, R60). -/
noncomputable def decode16 (p : Parcel) : Except Reject Instr :=
  match p.extractLsb' 1 5 with
  | 0#5 => .ok (.cMov ⟨p.extractLsb' 11 5, p.extractLsb' 6 5⟩)
  | 1#5 => .ok (.cAdd ⟨p.extractLsb' 11 5, p.extractLsb' 6 5⟩)
  | 2#5 => .ok (.cSub ⟨p.extractLsb' 11 5, p.extractLsb' 6 5⟩)
  | 3#5 => .ok (.cAnd ⟨p.extractLsb' 11 5, p.extractLsb' 6 5⟩)
  | 4#5 => .ok (.cOr ⟨p.extractLsb' 11 5, p.extractLsb' 6 5⟩)
  | 5#5 => .ok (.cXor ⟨p.extractLsb' 11 5, p.extractLsb' 6 5⟩)
  | 6#5 => .ok (.cShl ⟨p.extractLsb' 11 5, p.extractLsb' 6 5⟩)
  | 7#5 => .ok (.cAddi ⟨p.extractLsb' 11 5, p.extractLsb' 6 5⟩)
  | 8#5 => .ok (.cLdd ⟨p.extractLsb' 11 5, p.extractLsb' 6 5⟩)
  | 9#5 => .ok (.cMul ⟨p.extractLsb' 11 5, p.extractLsb' 6 5⟩)
  | 10#5 => .ok (.cSlt ⟨p.extractLsb' 11 5, p.extractLsb' 6 5⟩)
  | 16#5 => .ok (.cVmov ⟨p.extractLsb' 11 5, p.extractLsb' 6 5⟩)
  | 17#5 => .ok (.cVadd ⟨p.extractLsb' 11 5, p.extractLsb' 6 5⟩)
  | 18#5 => .ok (.cVsub ⟨p.extractLsb' 11 5, p.extractLsb' 6 5⟩)
  | 19#5 => .ok (.cVmul ⟨p.extractLsb' 11 5, p.extractLsb' 6 5⟩)
  | 20#5 => .ok (.cVfadd ⟨p.extractLsb' 11 5, p.extractLsb' 6 5⟩)
  | 21#5 => .ok (.cVfsub ⟨p.extractLsb' 11 5, p.extractLsb' 6 5⟩)
  | 22#5 => .ok (.cVfmul ⟨p.extractLsb' 11 5, p.extractLsb' 6 5⟩)
  | 23#5 => .ok (.cVfma ⟨p.extractLsb' 11 5, p.extractLsb' 6 5⟩)
  | 24#5 => .ok (.cVfmax ⟨p.extractLsb' 11 5, p.extractLsb' 6 5⟩)
  | 25#5 => .ok (.cVfmin ⟨p.extractLsb' 11 5, p.extractLsb' 6 5⟩)
  | 26#5 => .ok (.cVand ⟨p.extractLsb' 11 5, p.extractLsb' 6 5⟩)
  | 27#5 => .ok (.cVxor ⟨p.extractLsb' 11 5, p.extractLsb' 6 5⟩)
  | _ => .error .reservedFunction

/-- Bit 0 of the first parcel tells a compact instruction from a 32-bit word (R36). -/
def isCompact (p : Parcel) : Bool := p.getLsbD 0

/-- The bytes of a word as the parcels are stored: little-endian, the first parcel first (R36). -/
def bytes32 (w : BitVec 32) : List Byte :=
  [w.extractLsb' 0 8, w.extractLsb' 8 8, w.extractLsb' 16 8, w.extractLsb' 24 8]

/-- The bytes of a parcel, little-endian (R36). -/
def bytes16 (p : Parcel) : List Byte := [p.extractLsb' 0 8, p.extractLsb' 8 8]

/-- Decodes the instruction at the head of a list of bytes and gives the rest (R36). -/
noncomputable def decodeBytes : List Byte → Except Reject (Instr × List Byte)
  | b0 :: b1 :: rest =>
    if isCompact (b1 ++ b0) then
      match decode16 (b1 ++ b0) with
      | .ok i => .ok (i, rest)
      | .error e => .error e
    else
      match rest with
      | b2 :: b3 :: rest' =>
        match decode32 (b3 ++ b2 ++ b1 ++ b0) with
        | .ok i => .ok (i, rest')
        | .error e => .error e
      | _ => .error .short
  | _ => .error .short

/-- The words of an instruction: a 32-bit word or a compact parcel; an event has none. -/
inductive Code where
  | word (w : BitVec 32)
  | parcel (p : Parcel)
  | none
  deriving DecidableEq, Repr

/-- The encoding of an instruction (R43 to R60). -/
def encode : Instr → Code
  | .add o => .word (eR3 0x01#6 0x000#10 o)
  | .sub o => .word (eR3 0x01#6 0x001#10 o)
  | .and o => .word (eR3 0x01#6 0x002#10 o)
  | .or o => .word (eR3 0x01#6 0x003#10 o)
  | .xor o => .word (eR3 0x01#6 0x004#10 o)
  | .andn o => .word (eR3 0x01#6 0x005#10 o)
  | .shl o => .word (eR3 0x01#6 0x006#10 o)
  | .shr o => .word (eR3 0x01#6 0x007#10 o)
  | .sra o => .word (eR3 0x01#6 0x008#10 o)
  | .rol o => .word (eR3 0x01#6 0x009#10 o)
  | .ror o => .word (eR3 0x01#6 0x00A#10 o)
  | .slt o => .word (eR3 0x01#6 0x00B#10 o)
  | .sltn o => .word (eR3 0x01#6 0x00C#10 o)
  | .min o => .word (eR3 0x01#6 0x00D#10 o)
  | .max o => .word (eR3 0x01#6 0x00E#10 o)
  | .minn o => .word (eR3 0x01#6 0x00F#10 o)
  | .maxn o => .word (eR3 0x01#6 0x010#10 o)
  | .mul o => .word (eR3 0x01#6 0x011#10 o)
  | .mulh o => .word (eR3 0x01#6 0x012#10 o)
  | .mulhn o => .word (eR3 0x01#6 0x013#10 o)
  | .div o => .word (eR3 0x01#6 0x014#10 o)
  | .divn o => .word (eR3 0x01#6 0x015#10 o)
  | .rem o => .word (eR3 0x01#6 0x016#10 o)
  | .remn o => .word (eR3 0x01#6 0x017#10 o)
  | .clz o => .word (eR2 0x01#6 0x018#10 o)
  | .ctz o => .word (eR2 0x01#6 0x019#10 o)
  | .popc o => .word (eR2 0x01#6 0x01A#10 o)
  | .sext o => .word (eRW 0x01#6 0x01B#10 o)
  | .zext o => .word (eRW 0x01#6 0x01C#10 o)
  | .addw o => .word (eR3 0x01#6 0x01D#10 o)
  | .subw o => .word (eR3 0x01#6 0x01E#10 o)
  | .addi o => .word (eI15 0x02#6 o)
  | .andi o => .word (eI15 0x03#6 o)
  | .ori o => .word (eI15 0x04#6 o)
  | .xori o => .word (eI15 0x05#6 o)
  | .slti o => .word (eI15 0x06#6 o)
  | .sltni o => .word (eI15 0x07#6 o)
  | .shli o => .word (formI (0#2 ++ 0#7 ++ o.n) o.b o.a 0x08#6)
  | .shri o => .word (formI (1#2 ++ 0#7 ++ o.n) o.b o.a 0x08#6)
  | .srai o => .word (formI (2#2 ++ 0#7 ++ o.n) o.b o.a 0x08#6)
  | .rori o => .word (formI (3#2 ++ 0#7 ++ o.n) o.b o.a 0x08#6)
  | .lui o => .word (eU20 0x09#6 o)
  | .addpc o => .word (eU20 0x0A#6 o)
  | .ldb o => .word (eI15 0x0B#6 o)
  | .ldh o => .word (eI15 0x0C#6 o)
  | .ldw o => .word (eI15 0x0D#6 o)
  | .ldd o => .word (eI15 0x0E#6 o)
  | .ldbn o => .word (eI15 0x0F#6 o)
  | .ldhn o => .word (eI15 0x10#6 o)
  | .ldwn o => .word (eI15 0x11#6 o)
  | .stb o => .word (eSt 0x12#6 o)
  | .sth o => .word (eSt 0x13#6 o)
  | .stw o => .word (eSt 0x14#6 o)
  | .std o => .word (eSt 0x15#6 o)
  | .beq o => .word (formR (o.off.extractLsb' 0 10) o.c o.b (o.off.extractLsb' 10 2 ++ 0#3) 0x16#6)
  | .bne o => .word (formR (o.off.extractLsb' 0 10) o.c o.b (o.off.extractLsb' 10 2 ++ 1#3) 0x16#6)
  | .blt o => .word (formR (o.off.extractLsb' 0 10) o.c o.b (o.off.extractLsb' 10 2 ++ 2#3) 0x16#6)
  | .bge o => .word (formR (o.off.extractLsb' 0 10) o.c o.b (o.off.extractLsb' 10 2 ++ 3#3) 0x16#6)
  | .bltn o => .word (formR (o.off.extractLsb' 0 10) o.c o.b (o.off.extractLsb' 10 2 ++ 4#3) 0x16#6)
  | .bgen o => .word (formR (o.off.extractLsb' 0 10) o.c o.b (o.off.extractLsb' 10 2 ++ 5#3) 0x16#6)
  | .jal o => .word (eJ20 0x17#6 o)
  | .jalr o => .word (eI15 0x18#6 o)
  | .fadd o => .word (eF3 0x19#6 0x00#5 o)
  | .fsub o => .word (eF3 0x19#6 0x01#5 o)
  | .fmul o => .word (eF3 0x19#6 0x02#5 o)
  | .fdiv o => .word (eF3 0x19#6 0x03#5 o)
  | .fsqrt o => .word (eF2 0x19#6 0x04#5 o)
  | .fmin o => .word (eF3N 0x19#6 0x05#5 o)
  | .fmax o => .word (eF3N 0x19#6 0x06#5 o)
  | .fmadd o => .word (eF3 0x19#6 0x07#5 o)
  | .feq o => .word (eF3N 0x19#6 0x08#5 o)
  | .flt o => .word (eF3N 0x19#6 0x09#5 o)
  | .fle o => .word (eF3N 0x19#6 0x0A#5 o)
  | .fcvti o => .word (eF2 0x19#6 0x0B#5 o)
  | .fcvtn o => .word (eF2 0x19#6 0x0C#5 o)
  | .fcvtf o => .word (eF2 0x19#6 0x0D#5 o)
  | .fcvtfn o => .word (eF2 0x19#6 0x0E#5 o)
  | .fcvtp o => .word (eF2 0x19#6 0x0F#5 o)
  | .fclass o => .word (eF2N 0x19#6 0x10#5 o)
  | .fsgnj o => .word (eF3N 0x19#6 0x11#5 o)
  | .aaddD o => .word (eAmo 0x1A#6 0x00#5 o)
  | .aaddW o => .word (eAmo 0x1A#6 0x01#5 o)
  | .aswpD o => .word (eAmo 0x1A#6 0x02#5 o)
  | .aswpW o => .word (eAmo 0x1A#6 0x03#5 o)
  | .acasD o => .word (eAmo 0x1A#6 0x04#5 o)
  | .acasW o => .word (eAmo 0x1A#6 0x05#5 o)
  | .aandD o => .word (eAmo 0x1A#6 0x06#5 o)
  | .aorD o => .word (eAmo 0x1A#6 0x07#5 o)
  | .axorD o => .word (eAmo 0x1A#6 0x08#5 o)
  | .aminD o => .word (eAmo 0x1A#6 0x09#5 o)
  | .amaxD o => .word (eAmo 0x1A#6 0x0A#5 o)
  | .aminnD o => .word (eAmo 0x1A#6 0x0B#5 o)
  | .amaxnD o => .word (eAmo 0x1A#6 0x0C#5 o)
  | .ldaqD o => .word (eLaq 0x1A#6 0x0D#5 o)
  | .strlD o => .word (eSrl 0x1A#6 0x0E#5 o)
  | .ldaqW o => .word (eLaq 0x1A#6 0x0F#5 o)
  | .strlW o => .word (eSrl 0x1A#6 0x10#5 o)
  | .fence o => .word (eFnc 0x1B#6 0x000#10 o)
  | .waita o => .word (eR3 0x1B#6 0x020#10 o)
  | .waitaw o => .word (eR3 0x1B#6 0x040#10 o)
  | .yield => .word (eNone 0x1B#6 0x080#10)
  | .rdcr o => .word (eCrR 0x1C#6 o)
  | .wrcr o => .word (eCrW 0x1D#6 o)
  | .prioWrite _ => .none
  | .frndWrite _ => .none
  | .poolRegisterWrite _ => .none
  | .domainwWrite _ => .none
  | .ptrootWrite _ => .none
  | .trap n => .word (eN 0x1E#6 0x000#10 n)
  | .brk => .word (eNone 0x1E#6 0x001#10)
  | .tret => .word (eNone 0x1E#6 0x002#10)
  | .halt => .word (eNone 0x1E#6 0x003#10)
  | .vsave b => .word (eBx 0x1E#6 0x004#10 b)
  | .vrestore b => .word (eBx 0x1E#6 0x005#10 b)
  | .tlbinv o => .word (eTlb 0x1E#6 0x006#10 o)
  | .icsync => .word (eNone 0x1E#6 0x007#10)
  | .setvl o => .word (eR2 0x20#6 0x000#10 o)
  | .setshape b => .word (eBx 0x20#6 0x001#10 b)
  | .vconf n => .word (eN 0x20#6 0x003#10 n)
  | .vclose => .word (eNone 0x20#6 0x004#10)
  | .setshapei imm => .word (eImm 0x21#6 imm)
  | .vldu o => .word (eVM2 0x22#6 0x00#5 o)
  | .vlds o => .word (eVM3 0x22#6 0x01#5 o)
  | .vldx o => .word (eVMK3 0x22#6 0x02#5 o)
  | .vldb o => .word (eVM2 0x22#6 0x03#5 o)
  | .vld2d o => .word (eVM3 0x22#6 0x04#5 o)
  | .vstu o => .word (eVM2 0x23#6 0x00#5 o)
  | .vsts o => .word (eVM3 0x23#6 0x01#5 o)
  | .vstx o => .word (eVMK3 0x23#6 0x02#5 o)
  | .vstuu o => .word (eVM2 0x23#6 0x03#5 o)
  | .vstxu o => .word (eVMK3 0x23#6 0x04#5 o)
  | .vst2d o => .word (eVM3 0x23#6 0x05#5 o)
  | .vadd o => .word (eVVV 0x24#6 0x00#5 o)
  | .vsub o => .word (eVVV 0x24#6 0x01#5 o)
  | .vmul o => .word (eVVV 0x24#6 0x03#5 o)
  | .vmulh o => .word (eVVV 0x24#6 0x04#5 o)
  | .vmulhn o => .word (eVVV 0x24#6 0x05#5 o)
  | .vdiv o => .word (eVVV 0x24#6 0x06#5 o)
  | .vdivn o => .word (eVVV 0x24#6 0x07#5 o)
  | .vrem o => .word (eVVV 0x24#6 0x08#5 o)
  | .vremn o => .word (eVVV 0x24#6 0x09#5 o)
  | .vmin o => .word (eVVV 0x24#6 0x0A#5 o)
  | .vmax o => .word (eVVV 0x24#6 0x0B#5 o)
  | .vminn o => .word (eVVV 0x24#6 0x0C#5 o)
  | .vmaxn o => .word (eVVV 0x24#6 0x0D#5 o)
  | .vand o => .word (eVVV 0x24#6 0x0E#5 o)
  | .vor o => .word (eVVV 0x24#6 0x0F#5 o)
  | .vxor o => .word (eVVV 0x24#6 0x10#5 o)
  | .vshl o => .word (eVVV 0x24#6 0x11#5 o)
  | .vshr o => .word (eVVV 0x24#6 0x12#5 o)
  | .vsra o => .word (eVVV 0x24#6 0x13#5 o)
  | .vsadd o => .word (eVVV 0x24#6 0x14#5 o)
  | .vsaddn o => .word (eVVV 0x24#6 0x15#5 o)
  | .vssub o => .word (eVVV 0x24#6 0x16#5 o)
  | .vssubn o => .word (eVVV 0x24#6 0x17#5 o)
  | .vabsd o => .word (eVVV 0x24#6 0x18#5 o)
  | .vmacc o => .word (eVVV 0x24#6 0x19#5 o)
  | .vaddX o => .word (eVVX 0x25#6 0x00#5 o)
  | .vsubX o => .word (eVVX 0x25#6 0x01#5 o)
  | .vmulX o => .word (eVVX 0x25#6 0x03#5 o)
  | .vmulhX o => .word (eVVX 0x25#6 0x04#5 o)
  | .vmulhnX o => .word (eVVX 0x25#6 0x05#5 o)
  | .vdivX o => .word (eVVX 0x25#6 0x06#5 o)
  | .vdivnX o => .word (eVVX 0x25#6 0x07#5 o)
  | .vremX o => .word (eVVX 0x25#6 0x08#5 o)
  | .vremnX o => .word (eVVX 0x25#6 0x09#5 o)
  | .vminX o => .word (eVVX 0x25#6 0x0A#5 o)
  | .vmaxX o => .word (eVVX 0x25#6 0x0B#5 o)
  | .vminnX o => .word (eVVX 0x25#6 0x0C#5 o)
  | .vmaxnX o => .word (eVVX 0x25#6 0x0D#5 o)
  | .vandX o => .word (eVVX 0x25#6 0x0E#5 o)
  | .vorX o => .word (eVVX 0x25#6 0x0F#5 o)
  | .vxorX o => .word (eVVX 0x25#6 0x10#5 o)
  | .vshlX o => .word (eVVX 0x25#6 0x11#5 o)
  | .vshrX o => .word (eVVX 0x25#6 0x12#5 o)
  | .vsraX o => .word (eVVX 0x25#6 0x13#5 o)
  | .vsaddX o => .word (eVVX 0x25#6 0x14#5 o)
  | .vsaddnX o => .word (eVVX 0x25#6 0x15#5 o)
  | .vssubX o => .word (eVVX 0x25#6 0x16#5 o)
  | .vssubnX o => .word (eVVX 0x25#6 0x17#5 o)
  | .vabsdX o => .word (eVVX 0x25#6 0x18#5 o)
  | .vmaccX o => .word (eVVX 0x25#6 0x19#5 o)
  | .vfadd o => .word (eVVV 0x26#6 0x00#5 o)
  | .vfsub o => .word (eVVV 0x26#6 0x01#5 o)
  | .vfmul o => .word (eVVV 0x26#6 0x02#5 o)
  | .vfdiv o => .word (eVVV 0x26#6 0x03#5 o)
  | .vfmin o => .word (eVVV 0x26#6 0x04#5 o)
  | .vfmax o => .word (eVVV 0x26#6 0x05#5 o)
  | .vfsgnj o => .word (eVVV 0x26#6 0x06#5 o)
  | .vfsgnjn o => .word (eVVV 0x26#6 0x07#5 o)
  | .vfsqrt o => .word (eVV 0x26#6 0x08#5 o)
  | .vfrsqrt o => .word (eVV 0x26#6 0x09#5 o)
  | .vfrcp o => .word (eVV 0x26#6 0x0A#5 o)
  | .vfexp2 o => .word (eVV 0x26#6 0x0B#5 o)
  | .vflog2 o => .word (eVV 0x26#6 0x0C#5 o)
  | .vfabs o => .word (eVV 0x26#6 0x0D#5 o)
  | .vfneg o => .word (eVV 0x26#6 0x0E#5 o)
  | .vfclass o => .word (eVV 0x26#6 0x0F#5 o)
  | .vfma o => .word (eVVV 0x26#6 0x10#5 o)
  | .vfms o => .word (eVVV 0x26#6 0x11#5 o)
  | .vfnma o => .word (eVVV 0x26#6 0x12#5 o)
  | .vfscale o => .word (eVVV 0x26#6 0x13#5 o)
  | .vfwadd o => .word (eVVV 0x26#6 0x14#5 o)
  | .vfwmul o => .word (eVVV 0x26#6 0x15#5 o)
  | .vfwma o => .word (eVVV 0x26#6 0x16#5 o)
  | .vfaddX o => .word (eVVX 0x27#6 0x00#5 o)
  | .vfsubX o => .word (eVVX 0x27#6 0x01#5 o)
  | .vfmulX o => .word (eVVX 0x27#6 0x02#5 o)
  | .vfdivX o => .word (eVVX 0x27#6 0x03#5 o)
  | .vfminX o => .word (eVVX 0x27#6 0x04#5 o)
  | .vfmaxX o => .word (eVVX 0x27#6 0x05#5 o)
  | .vfsgnjX o => .word (eVVX 0x27#6 0x06#5 o)
  | .vfsgnjnX o => .word (eVVX 0x27#6 0x07#5 o)
  | .vfmaX o => .word (eVVX 0x27#6 0x10#5 o)
  | .vfmsX o => .word (eVVX 0x27#6 0x11#5 o)
  | .vfnmaX o => .word (eVVX 0x27#6 0x12#5 o)
  | .vfscaleX o => .word (eVVX 0x27#6 0x13#5 o)
  | .vfwaddX o => .word (eVVX 0x27#6 0x14#5 o)
  | .vfwmulX o => .word (eVVX 0x27#6 0x15#5 o)
  | .vfwmaX o => .word (eVVX 0x27#6 0x16#5 o)
  | .vcvt o => .word (eCvt 0x28#6 o)
  | .vceq o => .word (eCmpV 0x29#6 0x00#5 o)
  | .vcne o => .word (eCmpV 0x29#6 0x01#5 o)
  | .vclt o => .word (eCmpV 0x29#6 0x02#5 o)
  | .vcle o => .word (eCmpV 0x29#6 0x03#5 o)
  | .vcltn o => .word (eCmpV 0x29#6 0x04#5 o)
  | .vclen o => .word (eCmpV 0x29#6 0x05#5 o)
  | .vfceq o => .word (eCmpV 0x29#6 0x06#5 o)
  | .vfclt o => .word (eCmpV 0x29#6 0x07#5 o)
  | .vfcle o => .word (eCmpV 0x29#6 0x08#5 o)
  | .vfcun o => .word (eCmpV 0x29#6 0x09#5 o)
  | .vceqX o => .word (eCmpX 0x29#6 0x10#5 o)
  | .vcneX o => .word (eCmpX 0x29#6 0x11#5 o)
  | .vcltX o => .word (eCmpX 0x29#6 0x12#5 o)
  | .vcleX o => .word (eCmpX 0x29#6 0x13#5 o)
  | .vcltnX o => .word (eCmpX 0x29#6 0x14#5 o)
  | .vclenX o => .word (eCmpX 0x29#6 0x15#5 o)
  | .vfceqX o => .word (eCmpX 0x29#6 0x16#5 o)
  | .vfcltX o => .word (eCmpX 0x29#6 0x17#5 o)
  | .vfcleX o => .word (eCmpX 0x29#6 0x18#5 o)
  | .vfcunX o => .word (eCmpX 0x29#6 0x19#5 o)
  | .mand o => .word (eM3 0x2A#6 0x00#5 o)
  | .mor o => .word (eM3 0x2A#6 0x01#5 o)
  | .mxor o => .word (eM3 0x2A#6 0x02#5 o)
  | .mandn o => .word (eM3 0x2A#6 0x03#5 o)
  | .mnot o => .word (eM2 0x2A#6 0x04#5 o)
  | .mpop o => .word (eMX 0x2A#6 0x05#5 o)
  | .mfirst o => .word (eMX 0x2A#6 0x06#5 o)
  | .msetx o => .word (eMSet 0x2A#6 0x07#5 o)
  | .mclr a => .word (eMa 0x2A#6 0x08#5 a)
  | .viota o => .word (eMX 0x2A#6 0x09#5 o)
  | .vidx o => .word (eVIx 0x2A#6 0x0A#5 o)
  | .mmovv o => .word (eMX 0x2A#6 0x0B#5 o)
  | .vrsumo o => .word (eVVX 0x2B#6 0x00#5 o)
  | .vrsumt o => .word (eVVX 0x2B#6 0x01#5 o)
  | .vrmaxf o => .word (eVVX 0x2B#6 0x02#5 o)
  | .vrminf o => .word (eVVX 0x2B#6 0x03#5 o)
  | .vrmaxfi o => .word (eVVX 0x2B#6 0x04#5 o)
  | .vrsum o => .word (eVVX 0x2B#6 0x05#5 o)
  | .vrmax o => .word (eVVX 0x2B#6 0x06#5 o)
  | .vrmin o => .word (eVVX 0x2B#6 0x07#5 o)
  | .vrmaxn o => .word (eVVX 0x2B#6 0x08#5 o)
  | .vrminn o => .word (eVVX 0x2B#6 0x09#5 o)
  | .vrand o => .word (eVVX 0x2B#6 0x0A#5 o)
  | .vror o => .word (eVVX 0x2B#6 0x0B#5 o)
  | .vrxor o => .word (eVVX 0x2B#6 0x0C#5 o)
  | .vrmaxi o => .word (eVVX 0x2B#6 0x0D#5 o)
  | .vrgath o => .word (eVVV 0x2C#6 0x00#5 o)
  | .vslup o => .word (eVVX 0x2C#6 0x01#5 o)
  | .vsldn o => .word (eVVX 0x2C#6 0x02#5 o)
  | .vcmpr o => .word (eVV 0x2C#6 0x03#5 o)
  | .vmerge o => .word (eVVV 0x2C#6 0x04#5 o)
  | .vmvs o => .word (eVM2 0x2C#6 0x05#5 o)
  | .vmvx o => .word (eVV 0x2C#6 0x06#5 o)
  | .vbcst o => .word (eVM2 0x2C#6 0x07#5 o)
  | .vmov o => .word (eVV 0x2C#6 0x08#5 o)
  | .xchg o => .word (eVVX 0x2C#6 0x09#5 o)
  | .tmac o => .word (eTm 0x2D#6 0x00#5 o)
  | .tzero t => .word (eTa 0x2D#6 0x01#5 t)
  | .trow o => .word (eTrw 0x2D#6 0x02#5 o)
  | .tsetrow o => .word (eTsr 0x2D#6 0x04#5 o)
  | .vbind o => .word (eR2 0x2E#6 0x000#10 o)
  | .vunbind b => .word (eBx 0x2E#6 0x001#10 b)
  | .vspos o => .word (eR3 0x2E#6 0x002#10 o)
  | .vsflush b => .word (eBx 0x2E#6 0x003#10 b)
  | .hspawn o => .word (eR2 0x30#6 0x000#10 o)
  | .hexit b => .word (eBx 0x30#6 0x001#10 b)
  | .lease o => .word (eR2 0x30#6 0x002#10 o)
  | .garrive a => .word (eAx 0x30#6 0x003#10 a)
  | .gwait o => .word (eR2 0x30#6 0x004#10 o)
  | .hjoin o => .word (eR2 0x30#6 0x005#10 o)
  | .cpystart o => .word (eR2 0x31#6 0x000#10 o)
  | .cpycan b => .word (eBx 0x31#6 0x001#10 b)
  | .cpystat o => .word (eR3 0x31#6 0x002#10 o)
  | .cpystatRelease o => .word (eR3 0x31#6 0x002#10 o)
  | .balloc o => .word (eR2 0x32#6 0x000#10 o)
  | .ballocFar o => .word (eR2 0x32#6 0x000#10 o)
  | .bref o => .word (eOrd2 0x32#6 0x01#8 o)
  | .bfree o => .word (eOrd2 0x32#6 0x02#8 o)
  | .bcow o => .word (eR2 0x32#6 0x003#10 o)
  | .bpromo o => .word (eRBC 0x32#6 0x004#10 o)
  | .bcompact b => .word (eBx 0x32#6 0x005#10 b)
  | .epadv a => .word (eAx 0x32#6 0x006#10 a)
  | .eprd o => .word (eR2 0x32#6 0x007#10 o)
  | .eprdWithdraw o => .word (eR2 0x32#6 0x007#10 o)
  | .bstat o => .word (eR3 0x32#6 0x008#10 o)
  | .vxlat o => .word (eVVX 0x33#6 0x00#5 o)
  | .vxlatf o => .word (eVVX 0x33#6 0x01#5 o)
  | .ixnew o => .word (eR2 0x34#6 0x000#10 o)
  | .ixapp o => .word (eR3 0x34#6 0x001#10 o)
  | .ixseal o => .word (eR2 0x34#6 0x002#10 o)
  | .ixdrop b => .word (eBx 0x34#6 0x003#10 b)
  | .ixshare o => .word (eR3 0x34#6 0x004#10 o)
  | .ixshareRemove o => .word (eR3 0x34#6 0x004#10 o)
  | .curnew o => .word (eR2 0x34#6 0x005#10 o)
  | .curatt o => .word (eR3 0x34#6 0x006#10 o)
  | .curfeed o => .word (eR3 0x34#6 0x007#10 o)
  | .curprop o => .word (eR3 0x34#6 0x008#10 o)
  | .curacc o => .word (eR3 0x34#6 0x009#10 o)
  | .curroll o => .word (eR2 0x34#6 0x00A#10 o)
  | .curdrop b => .word (eBx 0x34#6 0x00B#10 b)
  | .curstat o => .word (eR3 0x34#6 0x00C#10 o)
  | .flaunch o => .word (eR2 0x35#6 0x000#10 o)
  | .fpoint o => .word (eR3 0x35#6 0x001#10 o)
  | .fdone o => .word (eRBC 0x35#6 0x002#10 o)
  | .fnext o => .word (eR2 0x35#6 0x003#10 o)
  | .fsave b => .word (eBx 0x35#6 0x004#10 b)
  | .fresume b => .word (eBx 0x35#6 0x005#10 b)
  | .fquery o => .word (eR3 0x35#6 0x006#10 o)
  | .fcancel b => .word (eBx 0x35#6 0x007#10 b)
  | .gswitch b => .word (eBx 0x36#6 0x000#10 b)
  | .gresume b => .word (eBx 0x36#6 0x001#10 b)
  | .fbstat o => .word (eR3 0x36#6 0x002#10 o)
  | .cMov o => .parcel (formC o.s o.d 0#5)
  | .cAdd o => .parcel (formC o.s o.d 1#5)
  | .cSub o => .parcel (formC o.s o.d 2#5)
  | .cAnd o => .parcel (formC o.s o.d 3#5)
  | .cOr o => .parcel (formC o.s o.d 4#5)
  | .cXor o => .parcel (formC o.s o.d 5#5)
  | .cShl o => .parcel (formC o.s o.d 6#5)
  | .cAddi o => .parcel (formC o.s o.d 7#5)
  | .cLdd o => .parcel (formC o.s o.d 8#5)
  | .cMul o => .parcel (formC o.s o.d 9#5)
  | .cSlt o => .parcel (formC o.s o.d 10#5)
  | .cVmov o => .parcel (formC o.s o.d 16#5)
  | .cVadd o => .parcel (formC o.s o.d 17#5)
  | .cVsub o => .parcel (formC o.s o.d 18#5)
  | .cVmul o => .parcel (formC o.s o.d 19#5)
  | .cVfadd o => .parcel (formC o.s o.d 20#5)
  | .cVfsub o => .parcel (formC o.s o.d 21#5)
  | .cVfmul o => .parcel (formC o.s o.d 22#5)
  | .cVfma o => .parcel (formC o.s o.d 23#5)
  | .cVfmax o => .parcel (formC o.s o.d 24#5)
  | .cVfmin o => .parcel (formC o.s o.d 25#5)
  | .cVand o => .parcel (formC o.s o.d 26#5)
  | .cVxor o => .parcel (formC o.s o.d 27#5)
  | .setvlGrantWaitEnd _ => .none
  | .forcedShrink _ => .none
  | .preemption _ => .none
  | .watchdogExpiry _ => .none
  | .budget => .none
  | .residencyEviction _ => .none
  | .engineQueueAdmit _ => .none
  | .waitaWake _ => .none
  | .waitTimeout _ => .none
  | .haltResume _ => .none
  | .haltTimeout _ => .none
  | .tlbinvComplete _ => .none
  | .copyChunkDone _ _ => .none
  | .bcowCopyDone _ => .none
  | .promotionComplete _ => .none
  | .compactionComplete _ => .none
  | .epochReclaim _ => .none
  | .ixdropStorageReleased _ => .none
  | .curpropOutputWritten _ => .none
  | .fnextServe _ => .none
  | .fsaveAreaWritten _ => .none
  | .launchPark _ => .none
  | .startMessage _ _ => .none
  | .hostWrite _ _ _ => .none
  | .read _ => .none
  | .readResponse _ => .none
  | .write _ => .none
  | .writeAcknowledgement _ => .none
  | .atomic _ => .none
  | .atomicResponse _ => .none
  | .marker _ _ _ => .none
  | .management _ => .none
  | .flitReplay _ => .none
  | .credit _ _ => .none
  | .injectionAdmit _ => .none
  | .linkTraining _ _ => .none
  | .linkDown _ => .none
  | .hartsOff _ _ => .none
  | .jobSwitchedOut _ => .none
  | .latePacket _ _ => .none
  | .jobResumed _ => .none
  | .partitionConfigure _ => .none
  | .routeConfigure _ _ => .none
  | .resizeHall _ => .none
  | .resizeMemory _ _ _ => .none
  | .granuleMigration _ _ => .none
  | .partitionPreemption _ => .none
  | .attestationReport _ _ => .none
  | .uncClear => .none
  | .deviceReset => .none
  | .firmwareVerify _ => .none
  | .dieSelfTest _ => .none
  | .hbmTraining _ => .none
  | .fullServiceReconfigure => .none
  | .laneRetirement _ _ _ => .none
  | .throttle => .none
  | .unthrottle => .none
  | .thermalShutdown => .none
  | .reservedEncoding _ => .none
  | .fetchFault _ => .none
  | .copyTranslationFault _ => .none
  | .curattResult _ => .none

/-- The bytes of an encoding as they are stored. -/
def Code.bytes : Code → List Byte
  | .word w => bytes32 w
  | .parcel p => bytes16 p
  | .none => []

/-- The host's question: the instruction read from an instruction whose bits are w, numbered as the opcode table numbers them,
bit 0 the least significant of the first parcel. Bits above nbits are 0. -/
noncomputable def decodeTableWord (nbits w : Nat) : Option Instr :=
  match decodeBytes (bytes32 (BitVec.ofNat 32 (w % 2 ^ nbits))) with
  | .ok (i, _) => some i
  | .error _ => none

end Sys2Proof
end

