-- ==== Sys2Proof/Machine/Num.lean ====
section
/-! DEFINITION. Number formats, exact values and rounding (R165 to R180). Arithmetic works on exact fractions and rounds once. A
magnitude is written by its code, the encoding without the sign: for every format the codes count the magnitudes in order, so
the two neighbours of a value are a code and its successor. -/

namespace Sys2Proof.Machine

/-- An exact fraction; the denominator is positive. -/
structure Frac where
  num : Int
  den : Nat
  deriving DecidableEq, Repr

namespace Frac

def ofInt (n : Int) : Frac := ⟨n, 1⟩
def zero : Frac := ⟨0, 1⟩
def add (a b : Frac) : Frac := ⟨a.num * b.den + b.num * a.den, a.den * b.den⟩
def neg (a : Frac) : Frac := ⟨-a.num, a.den⟩
def sub (a b : Frac) : Frac := a.add b.neg
def mul (a b : Frac) : Frac := ⟨a.num * b.num, a.den * b.den⟩
/-- The quotient by a nonzero fraction. -/
def div (a b : Frac) : Frac :=
  if b.num < 0 then ⟨-(a.num * b.den), a.den * b.num.natAbs⟩ else ⟨a.num * b.den, a.den * b.num.natAbs⟩
def abs (a : Frac) : Frac := ⟨a.num.natAbs, a.den⟩
def isNeg (a : Frac) : Bool := decide (a.num < 0)
def isZero (a : Frac) : Bool := decide (a.num = 0)
def lt (a b : Frac) : Bool := decide (a.num * b.den < b.num * a.den)
def le (a b : Frac) : Bool := decide (a.num * b.den ≤ b.num * a.den)
def eq (a b : Frac) : Bool := decide (a.num * b.den = b.num * a.den)
def pow2 (e : Int) : Frac := if 0 ≤ e then ⟨(2 ^ e.toNat : Nat), 1⟩ else ⟨1, 2 ^ (-e).toNat⟩
def scale (a : Frac) (e : Int) : Frac := a.mul (pow2 e)
/-- The greatest integer at or below the fraction. -/
def floor (a : Frac) : Int := a.num / (a.den : Int)

/-- The exponent e with 2^e ≤ a < 2^(e+1), for a positive a. -/
def log2Floor (a : Frac) : Int :=
  let n := a.num.natAbs
  let e : Int := (Nat.log2 n : Int) - (Nat.log2 a.den : Int)
  if (a.abs).lt (pow2 e) then e - 1 else e

end Frac

/-- A value of a floating or integer format. The flag of a finite value is its sign, which a zero keeps. -/
inductive FVal where
  | nan
  | inf (neg : Bool)
  | fin (q : Frac) (neg : Bool)
  deriving DecidableEq, Repr

def FVal.ofFrac (q : Frac) : FVal := .fin q q.isNeg
def FVal.zero : FVal := .fin Frac.zero false
def FVal.isNan : FVal → Bool
  | .nan => true
  | _ => false
def FVal.sign : FVal → Bool
  | .nan => false
  | .inf n => n
  | .fin _ n => n
def FVal.isZero : FVal → Bool
  | .fin q _ => q.isZero
  | _ => false

/-! ## Formats -/

/-- A floating format by its magnitudes: fraction bits, the exponent of the smallest unit, the code of the largest finite
magnitude, and whether it has a sign, infinities, and a negative zero (R165 to R168). -/
structure Fmt where
  width : Nat
  f : Nat
  emin : Int
  maxCode : Nat
  signed : Bool
  hasInf : Bool
  ieee : Bool
  deriving DecidableEq, Repr

def fmtF16 : Fmt := ⟨16, 10, -24, 0x7BFF, true, true, true⟩
def fmtBf16 : Fmt := ⟨16, 7, -133, 0x7F7F, true, true, true⟩
def fmtF32 : Fmt := ⟨32, 23, -149, 0x7F7FFFFF, true, true, true⟩
def fmtF64 : Fmt := ⟨64, 52, -1074, 0x7FEFFFFFFFFFFFFF, true, true, true⟩

/-- A binary8 format of precision p (R167): bias 2^(7 − p) signed, 2^(8 − p) unsigned. -/
def fmtB8 (p : Nat) (signed ext : Bool) : Fmt :=
  let bias : Int := (2 ^ ((if signed then 7 else 8) - p) : Nat)
  ⟨8, p - 1, 1 - bias - ((p : Int) - 1), (if signed then 0x7F else 0xFE) - (if ext then 1 else 0), signed, ext, false⟩

/-- The floating format of a code of R165. -/
def fmtOf (c : BitVec 6) : Fmt :=
  let n := c.toNat
  if n = 0x08 then fmtF16
  else if n = 0x09 then fmtBf16
  else if n = 0x0B then fmtF64
  else if n < 0x11 then fmtF32
  else if n < 0x18 then fmtB8 (n - 0x10) true false
  else if n < 0x20 then fmtB8 (n - 0x18) true true
  else if n < 0x28 then fmtB8 (n - 0x20) false false
  else fmtB8 (n - 0x28) false true

/-- The exact value of a magnitude code (R167). -/
def Fmt.magOf (fm : Fmt) (code : Nat) : Frac :=
  if code < 2 ^ fm.f then (Frac.ofInt code).scale fm.emin
  else (Frac.ofInt (code % 2 ^ fm.f + 2 ^ fm.f : Nat)).scale (fm.emin + (code / 2 ^ fm.f : Nat) - 1)

/-- The largest finite value (R168). -/
def Fmt.maxVal (fm : Fmt) : Frac := fm.magOf fm.maxCode

/-- The default NaN (R166, R167). -/
def Fmt.nanBits (fm : Fmt) : Nat :=
  if fm.ieee then fm.maxCode + 1 + 2 ^ (fm.f - 1) else if fm.signed then 0x80 else 0xFF

/-- The bits of an infinity of a format that has them (R166, R167). -/
def Fmt.infBits (fm : Fmt) (neg : Bool) : Nat :=
  fm.maxCode + 1 + (if neg then 2 ^ (fm.width - 1) else 0)

/-- The bits of a finite magnitude with its sign; a binary8 zero is 0x00 (R167). -/
def Fmt.finBits (fm : Fmt) (neg : Bool) (code : Nat) : Nat :=
  if neg && fm.signed && (fm.ieee || code != 0) then code + 2 ^ (fm.width - 1) else code

/-- The value of a bit pattern (R166, R167). -/
def Fmt.value (fm : Fmt) (bits : Nat) : FVal :=
  let b := bits % 2 ^ fm.width
  if fm.ieee then
    let neg := decide (2 ^ (fm.width - 1) ≤ b)
    let code := b % 2 ^ (fm.width - 1)
    if code ≤ fm.maxCode then
      let q := fm.magOf code
      .fin (if neg then q.neg else q) neg
    else if code = fm.maxCode + 1 then .inf neg else .nan
  else if b = fm.nanBits then .nan
  else
    let neg := fm.signed && decide (0x80 ≤ b)
    let code := if fm.signed then b % 0x80 else b
    if code ≤ fm.maxCode then
      let q := fm.magOf code
      .fin (if neg then q.neg else q) neg
    else .inf neg

/-- A NaN with its leading fraction bit 0 (R120). -/
def Fmt.isSignalling (fm : Fmt) (bits : Nat) : Bool :=
  (fm.value bits).isNan && !(bits.testBit (fm.f - 1))

/-- The value of an element of any format, integers included. -/
def elemValue (fmt : BitVec 6) (bits : Nat) : FVal :=
  if isInt fmt then
    let w := widthOf fmt
    let b := bits % 2 ^ w
    if isSignedInt fmt && b.testBit (w - 1) then .ofFrac (.ofInt ((b : Int) - (2 ^ w : Nat))) else .ofFrac (.ofInt b)
  else (fmtOf fmt).value bits

/-! ## Rounding -/

/-- The rounding modes, by the codes of R169. -/
inductive RMode where
  | rne | rtz | rdn | rup | rna | sto | efb
  deriving DecidableEq, Repr

def RMode.ofCode (c : BitVec 3) : RMode :=
  match c.toNat with
  | 0 => .rne
  | 1 => .rtz
  | 2 => .rdn
  | 3 => .rup
  | 4 => .rna
  | 5 => .sto
  | _ => .efb

/-- A positive magnitude between its neighbours: the lower code, and the position of the magnitude between the two, from 0 (exact)
to below 1 (R169, R171). -/
structure Split where
  code : Nat
  t : Frac
  deriving DecidableEq, Repr

/-- Splits a magnitude in a grid whose unit near it is 2^max(e − f, emin). -/
def splitMag (f : Nat) (emin : Int) (q : Frac) : Split :=
  if q.isZero then ⟨0, Frac.zero⟩
  else
    let qe := max (q.log2Floor - f) emin
    let s := q.scale (-qe)
    let k := s.floor
    ⟨(qe - emin).toNat * 2 ^ f + k.toNat, s.sub (Frac.ofInt k)⟩

/-- Whether the mode takes the upper code (R169, R171): neg is the sign of the value, z the generator's word. -/
def roundsUp (mode : RMode) (z : Word) (neg : Bool) (s : Split) : Bool :=
  if s.t.isZero then false
  else
    let half : Frac := ⟨1, 2⟩
    match mode with
    | .rne | .efb => half.lt s.t || (half.eq s.t && s.code % 2 == 1)
    | .rtz => false
    | .rdn => neg
    | .rup => !neg
    | .rna => half.le s.t
    | .sto =>
      let draw : Frac := ⟨((z.toNat >>> 32 : Nat) : Int), 2 ^ 32⟩
      if neg then !(draw.lt ((Frac.ofInt 1).sub s.t)) else draw.lt s.t

/-- The result of rounding: a finite code, an overflow to infinity, or an overflow to the largest finite value (R170). -/
inductive Rounded where
  | code (c : Nat)
  | overInf
  | overMax
  deriving DecidableEq, Repr

/-- Whether an overflow goes to infinity (R170). -/
def overflowToInf (mode : RMode) (neg : Bool) : Bool :=
  match mode with
  | .rne | .rna | .efb => true
  | .rtz | .sto => false
  | .rdn => neg
  | .rup => !neg

/-- Round of a magnitude in a format (R169 to R171). -/
def Fmt.roundMag (fm : Fmt) (mode : RMode) (z : Word) (neg : Bool) (q : Frac) : Rounded :=
  if mode = .sto && fm.maxVal.lt q then .overMax
  else
    let s := splitMag fm.f fm.emin q
    let c := if roundsUp mode z neg s then s.code + 1 else s.code
    if c ≤ fm.maxCode then .code c else if overflowToInf mode neg then .overInf else .overMax

/-- Conv into a floating format: the bits of the result (R169, R170, R179). A zero keeps the sign of the value in the IEEE formats. -/
def Fmt.conv (fm : Fmt) (mode : RMode) (z : Word) (sat : Bool) : FVal → Nat
  | .nan => fm.nanBits
  | .inf neg =>
    if neg && !fm.signed then (if sat then 0 else fm.nanBits)
    else if sat then fm.finBits neg fm.maxCode
    else if fm.hasInf then fm.infBits neg else fm.nanBits
  | .fin q neg =>
    if q.isNeg && !fm.signed then (if sat then 0 else fm.nanBits)
    else
      match fm.roundMag mode z neg q.abs with
      | .code c => fm.finBits neg c
      | .overMax => fm.finBits neg fm.maxCode
      | .overInf => if sat then fm.finBits neg fm.maxCode else if fm.hasInf then fm.infBits neg else fm.nanBits

/-- A finite value rounded to an integer (R119, R122, R179). -/
def roundInt (mode : RMode) (z : Word) (q : Frac) : Int :=
  let neg := q.isNeg
  let a := q.abs
  let k := a.floor
  let s : Split := ⟨k.toNat, a.sub (Frac.ofInt k)⟩
  let r : Int := if roundsUp mode z neg s then k + 1 else k
  if neg then -r else r

/-- The bounds of an integer format (R165). -/
def intMin (fmt : BitVec 6) : Int := if isSignedInt fmt then -(2 ^ (widthOf fmt - 1) : Nat) else 0
def intMax (fmt : BitVec 6) : Int :=
  if isSignedInt fmt then (2 ^ (widthOf fmt - 1) : Nat) - 1 else (2 ^ widthOf fmt : Nat) - 1

/-- Sat (R35). -/
def clampInt (lo hi n : Int) : Int := max lo (min hi n)

/-- The low w bits of an integer in two's complement. -/
def lowBits (w : Nat) (n : Int) : Nat := (n % (2 ^ w : Nat)).toNat

/-- Conv into an integer format (R179). -/
def convInt (fmt : BitVec 6) (mode : RMode) (z : Word) (sat : Bool) : FVal → Nat
  | .nan => 0
  | .inf neg => lowBits (widthOf fmt) (if neg then intMin fmt else intMax fmt)
  | .fin q _ =>
    let n := roundInt mode z q
    lowBits (widthOf fmt) (if sat then clampInt (intMin fmt) (intMax fmt) n else n)

/-- Conv of R179 into any format. -/
def conv (fmt : BitVec 6) (mode : RMode) (z : Word) (sat : Bool) (v : FVal) : Nat :=
  if isInt fmt then convInt fmt mode z sat v else (fmtOf fmt).conv mode z sat v

/-- The conversion of a bound stream (R175): RNE, clamped to the finite range; NaN gives the default NaN, or 0 in an integer
format. -/
def convStream (fmt : BitVec 6) (v : FVal) : Nat :=
  if isInt fmt then convInt fmt .rne 0 true v
  else
    let fm := fmtOf fmt
    match v with
    | .nan => fm.nanBits
    | .inf neg =>
      if neg && !fm.signed then 0 else if fm.hasInf then fm.infBits neg else fm.finBits neg fm.maxCode
    | .fin q neg => fm.conv .rne 0 true (.fin q neg)

/-- The stochastic generator (R171). -/
def gen (sbase seed stream : Word) (row e : Nat) : Word :=
  let k := sbase + word e
  let z := seed + k * 0x9E3779B97F4A7C15
  let z := z ^^^ (stream + word row)
  let z := (z ^^^ (z >>> 30)) * 0xBF58476D1CE4E5B9
  let z := (z ^^^ (z >>> 27)) * 0x94D049BB133111EB
  z ^^^ (z >>> 31)

/-! ## Exact operations -/

/-- The sign of an exact zero sum (R118 with IEEE 754-2019; R185): −0 when every addend is −0; else −0 under RDN, except that
a scalar sum of two +0 is +0 (DEDUCED, log entry 36). -/
def zeroSumSign (vector : Bool) (mode : RMode) (sa sb bothZero : Bool) : Bool :=
  if sa && sb && bothZero then true
  else if mode = .rdn then (vector || !(bothZero && !sa && !sb)) else false

/-- Exact sum (R118, R185, R186). -/
def fAdd (vector : Bool) (mode : RMode) : FVal → FVal → FVal
  | .nan, _ => .nan
  | _, .nan => .nan
  | .inf s, .inf t => if s = t then .inf s else .nan
  | .inf s, .fin _ _ => .inf s
  | .fin _ _, .inf t => .inf t
  | .fin p s, .fin q t =>
    let r := p.add q
    if r.isZero then .fin r (zeroSumSign vector mode s t (p.isZero && q.isZero)) else .ofFrac r

def fNeg : FVal → FVal
  | .nan => .nan
  | .inf s => .inf (!s)
  | .fin q s => .fin q.neg (!s)

/-- Exact product; a zero takes the sign of the product (R118, R185). -/
def fMul : FVal → FVal → FVal
  | .nan, _ => .nan
  | _, .nan => .nan
  | .inf s, .inf t => .inf (s != t)
  | .inf s, .fin q t => if q.isZero then .nan else .inf (s != t)
  | .fin q s, .inf t => if q.isZero then .nan else .inf (s != t)
  | .fin p s, .fin q t => .fin (p.mul q) (s != t)

/-- Exact quotient (R118, R186). -/
def fDiv : FVal → FVal → FVal
  | .nan, _ => .nan
  | _, .nan => .nan
  | .inf _, .inf _ => .nan
  | .inf s, .fin _ t => .inf (s != t)
  | .fin _ s, .inf t => .fin Frac.zero (s != t)
  | .fin p s, .fin q t =>
    if q.isZero then (if p.isZero then .nan else .inf (s != t)) else .fin (p.div q) (s != t)

/-- Newton's iteration for the integer square root, downward from a start at or above it. -/
def isqrtLoop (n : Nat) : Nat → Nat → Nat
  | 0, x => x
  | fuel + 1, x =>
    let y := (x + n / x) / 2
    if y < x then isqrtLoop n fuel y else x

/-- The integer square root. -/
def isqrt (n : Nat) : Nat :=
  if n = 0 then 0 else isqrtLoop n (Nat.log2 n + 2) (2 ^ (Nat.log2 n / 2 + 1))

/-- The grid of the approximations below: every decision point of a rounding, and of an exact residual, is a multiple of 2^−1200. -/
def gridBits : Nat := 1200

/-- √q on the same side of every multiple of 2^−1200 as the exact root, and equal to it where it is such a multiple (R118). -/
def sqrtFrac (q : Frac) : Frac :=
  let n := q.num.natAbs * 2 ^ (2 * gridBits)
  let r := isqrt (n / q.den)
  if r * r * q.den = n then ⟨r, 2 ^ gridBits⟩ else ⟨(2 * r + 1 : Nat), 2 ^ (gridBits + 1)⟩

def fSqrt : FVal → FVal
  | .nan => .nan
  | .inf s => if s then .nan else .inf false
  | .fin q s => if q.isZero then .fin q s else if q.isNeg then .nan else .fin (sqrtFrac q) false

/-- 1/√b (R187). -/
def fRsqrt : FVal → FVal
  | .nan => .nan
  | .inf s => if s then .nan else .fin Frac.zero false
  | .fin q s => if q.isZero then .inf s else if q.isNeg then .nan else .fin (sqrtFrac ((Frac.ofInt 1).div q)) false

/-- 1/b (R187). -/
def fRcp (v : FVal) : FVal := fDiv (.fin (Frac.ofInt 1) false) v

/-- Digits of log2 m for a fixed-point m in [1, 2) known between lo and hi, with p fraction bits: squaring gives one digit a turn.
The digits are those of the exact logarithm while the two bounds agree. -/
def log2Digits (p : Nat) : Nat → Nat → Nat → Nat → Nat
  | 0, _, _, acc => acc
  | fuel + 1, lo, hi, acc =>
    let lo2 := (lo * lo) >>> p
    let hi2 := ((hi * hi) >>> p) + 1
    if 2 ^ (p + 1) ≤ lo2 then log2Digits p fuel (lo2 / 2) ((hi2 + 1) / 2) (2 * acc + 1)
    else log2Digits p fuel lo2 hi2 (2 * acc)

/-- log2 q for a positive q: exact for a power of two, else on the same side of every multiple of 2^−96 as the exact logarithm,
which is irrational (R187; log entry 8). -/
def log2Frac (q : Frac) : Frac :=
  let e := q.log2Floor
  let m := q.scale (-e)
  if m.eq (Frac.ofInt 1) then Frac.ofInt e
  else
    let p := 320
    let lo := (m.scale (p : Nat)).floor.toNat
    let d := log2Digits p 96 lo (lo + 1) 0
    (Frac.ofInt e).add ⟨(2 * d + 1 : Nat), 2 ^ 97⟩

def fLog2 : FVal → FVal
  | .nan => .nan
  | .inf s => if s then .nan else .inf false
  | .fin q _ => if q.isZero then .inf true else if q.isNeg then .nan else .ofFrac (log2Frac q)

/-- The product of the roots 2^(2^−j) over the bits of a fraction, most significant first, bounded below and above, with p
fraction bits. -/
def exp2Loop (p : Nat) : List Bool → Nat → Nat × Nat → Nat × Nat
  | [], _, acc => acc
  | b :: bs, r, (lo, hi) =>
    let r' := isqrt (r * 2 ^ p)
    exp2Loop p bs r' (if b then ((lo * r') >>> p, ((hi * (r' + 1)) >>> p) + 1) else (lo, hi))

/-- 2^q: exact for an integer q, else on the same side of every multiple of 2^(floor q − 256) as the exact power, which is
irrational; exponents beyond every format are replaced by ones still beyond it (R187; log entry 8). -/
def exp2Frac (q : Frac) : Frac :=
  let i := q.floor
  if 4096 ≤ i then Frac.pow2 4096
  else if i < -4096 then Frac.pow2 (-4096)
  else
    let f := q.sub (Frac.ofInt i)
    if f.isZero then Frac.pow2 i
    else
      let p := 512
      let k := Nat.log2 f.den
      let n := f.num.toNat
      let bits := (List.range k).map (fun j => n.testBit (k - 1 - j))
      let r := exp2Loop p bits (2 * 2 ^ p) (2 ^ p, 2 ^ p)
      (Frac.mk (2 * (r.1 >>> (p - 256)) + 1 : Nat) (2 ^ 257)).scale i

def fExp2 : FVal → FVal
  | .nan => .nan
  | .inf s => if s then .fin Frac.zero false else .inf false
  | .fin q _ => .fin (exp2Frac q) false

/-- The class code of R120. -/
def classCode (fm : Fmt) (bits : Nat) : Nat :=
  let neg := if bits.testBit (fm.width - 1) then 1 else 0
  match fm.value bits with
  | .nan => neg + 2 * (if fm.isSignalling bits then 5 else 4)
  | .inf _ => neg + 2 * 3
  | .fin q _ =>
    let code := bits % 2 ^ (fm.width - 1)
    neg + 16 + 2 * (if q.isZero then 0 else if code < 2 ^ fm.f then 1 else 2)

/-- The order of FMIN and FMAX on numbers: by value, with −0 below +0 (R118). -/
def fLess : FVal → FVal → Bool
  | .nan, _ => false
  | _, .nan => false
  | .inf s, .inf t => s && !t
  | .inf s, .fin _ _ => s
  | .fin _ _, .inf t => !t
  | .fin p s, .fin q t => if p.isZero && q.isZero then s && !t else p.lt q

/-- Numeric relations; −0 equals +0 and a NaN satisfies none (R118, R190). -/
def fEqv : FVal → FVal → Bool
  | .inf s, .inf t => s == t
  | .fin p _, .fin q _ => p.eq q
  | _, _ => false

def fLt : FVal → FVal → Bool
  | .inf s, .inf t => s && !t
  | .inf s, .fin _ _ => s
  | .fin _ _, .inf t => !t
  | .fin p _, .fin q _ => p.lt q
  | _, _ => false

def fLe (a b : FVal) : Bool := fLt a b || fEqv a b

/-- FMIN on bit patterns: the other operand of a NaN, the default NaN of two (R118). -/
def fMinBits (fm : Fmt) (b c : Nat) : Nat :=
  let x := fm.value b
  let y := fm.value c
  if x.isNan && y.isNan then fm.nanBits
  else if x.isNan then c else if y.isNan then b
  else if fLess y x then c else b

/-- FMAX on bit patterns (R118). -/
def fMaxBits (fm : Fmt) (b c : Nat) : Nat :=
  let x := fm.value b
  let y := fm.value c
  if x.isNan && y.isNan then fm.nanBits
  else if x.isNan then c else if y.isNan then b
  else if fLess x y then c else b

/-- The bits of b with the sign bit given (R118, R186). -/
def withSign (w b : Nat) (s : Bool) : Nat :=
  b % 2 ^ (w - 1) + (if s then 2 ^ (w - 1) else 0)

/-- One step of error feedback (R122, R174): the value rounded, and the residual c carried in. Gives the rounded value's input, or
none where the special case applies. -/
def residual (y : Frac) (out : FVal) : Nat :=
  match out with
  | .fin q _ => fmtF64.conv .rne 0 false (.ofFrac (y.sub q))
  | _ => 0

end Sys2Proof.Machine
end

