-- ==== Sys2Proof/Machine/Operands.lean ====
section
/-! DEFINITION. Vector operands: register groups and their elements (R109), masks (R189), the checks before a vector instruction
(R57, R181, R214, R262, R356), element faults (R151, R152), bound streams (R260, R261), and the destination policy (R182). -/

namespace Sys2Proof.Machine

/-! ## Layout -/

/-- The layout of a register group: element width, registers per row, slots per register (R109). -/
structure Grp where
  w : Nat
  q : Nat
  m : Nat
  deriving DecidableEq, Repr

/-- SHAPE and the geometry in force, as a vector instruction uses them. -/
structure Shp where
  ew : BitVec 6
  w : Nat
  q : Nat
  rows : Nat
  vl : Nat
  cap : Nat
  m : Nat
  nreg : Nat
  tz : Bool
  mz : Bool
  rnd : RMode
  deriving DecidableEq, Repr

def shapeOf (s : State) : Shp :=
  let h := s.hart
  let sh := h.live.shape
  { ew := ewOf sh, w := widthOf (ewOf sh), q := grpOf sh, rows := rowsOf sh, vl := h.live.vl.toNat, cap := capOf h sh,
    m := slotsPer h.bricks h.lmod h.nreg, nreg := h.nreg, tz := tailZero sh, mz := maskZero sh, rnd := RMode.ofCode (rndOf sh) }

/-- The group of an operand that follows SHAPE. -/
def Shp.grp (p : Shp) : Grp := ⟨p.w, p.q, p.m⟩

/-- A group of elements of another width: q registers per row, so that a row holds as many elements (R149, R178, R188). -/
def Shp.grpOfWidth (p : Shp) (w : Nat) : Grp := ⟨w, Nat.max 1 (p.q * w / p.w), p.m⟩

/-- The elements a row of a group can hold. -/
def Grp.cap (g : Grp) : Nat := g.q * g.m * 32 / g.w

def listSet {α : Type} (d : α) : List α → Nat → α → List α
  | [], 0, x => [x]
  | [], i + 1, x => d :: listSet d [] i x
  | _ :: ys, 0, x => x :: ys
  | y :: ys, i + 1, x => y :: listSet d ys i x

/-- Register number v + n; groups that pass the last register have been refused before. -/
def regAdd (v : VReg) (n : Nat) : Nat := (v.toNat + n) % 32

/-- A slot of a register; what lies beyond its list reads zero (DESIGN CHOICE, log entry 48). -/
def Strip.slot (st : Strip) (r s : Nat) : Slot := ((st.v.toList.getD r []).getD s 0)

/-- A slot with part of its bits written; an unreadable one stays so (R361; DESIGN CHOICE, log entry 46). -/
def Strip.putSlot (st : Strip) (r s : Nat) (x : Slot) : Strip :=
  { st with v := st.v.setIfInBounds r (listSet 0 (st.v.toList.getD r []) s x) }

/-- A slot written whole. -/
def Strip.setSlot (st : Strip) (r s : Nat) (x : Slot) : Strip :=
  { st.putSlot r s x with lost := st.lost.filter (fun u => u != (r, s)) }

/-- The register and slot of group slot g of row ρ (R109). -/
def Grp.place (g : Grp) (v : VReg) (row slot : Nat) : Nat × Nat := (regAdd v (row * g.q + slot / g.m), slot % g.m)

/-- Element e of row ρ of a group (R109). -/
def getElem (st : Strip) (g : Grp) (v : VReg) (row e : Nat) : Nat :=
  if g.w = 64 then
    let lo := g.place v row (2 * e)
    let hi := g.place v row (2 * e + 1)
    (st.slot lo.1 lo.2).toNat + 2 ^ 32 * (st.slot hi.1 hi.2).toNat
  else
    let p := g.place v row (e * g.w / 32)
    bitsOf (st.slot p.1 p.2).toNat (e * g.w % 32) g.w

/-- A slot with w bits at an offset replaced. -/
def insertBits (old lo w x : Nat) : Nat :=
  old % 2 ^ lo + (x % 2 ^ w) * 2 ^ lo + old / 2 ^ (lo + w) * 2 ^ (lo + w)

/-- Writes element e of row ρ of a group (R109). -/
def setElem (st : Strip) (g : Grp) (v : VReg) (row e x : Nat) : Strip :=
  if g.w = 64 then
    let lo := g.place v row (2 * e)
    let hi := g.place v row (2 * e + 1)
    (st.setSlot lo.1 lo.2 (BitVec.ofNat 32 x)).setSlot hi.1 hi.2 (BitVec.ofNat 32 (x / 2 ^ 32))
  else if g.w = 32 then
    let p := g.place v row e
    st.setSlot p.1 p.2 (BitVec.ofNat 32 x)
  else
    let p := g.place v row (e * g.w / 32)
    st.putSlot p.1 p.2 (BitVec.ofNat 32 (insertBits (st.slot p.1 p.2).toNat (e * g.w % 32) g.w x))

/-- Zeroes the elements at or above vl in one row (R182): whole slots go, and the slot that holds both kinds keeps its low bits. -/
def zeroTailRow (g : Grp) (v : VReg) (vl row : Nat) (st : Strip) : Strip :=
  let full := vl * g.w / 32
  let part := vl * g.w % 32
  (List.range g.q).foldl (fun st r =>
    let reg := regAdd v (row * g.q + r)
    let old := st.v.toList.getD reg []
    let keep := full - r * g.m
    let split := decide (part ≠ 0 ∧ r * g.m ≤ full ∧ keep < g.m)
    let new := if split then
        old.take keep ++ ((old.drop keep).take 1).map (fun x => x &&& BitVec.ofNat 32 (2 ^ part - 1))
      else old.take keep
    { st with
      v := st.v.setIfInBounds reg new
      lost := st.lost.filter (fun u => !(u.1 == reg && decide ((if split then keep + 1 else keep) ≤ u.2))) }) st

def zeroTail (g : Grp) (v : VReg) (vl rows : Nat) (st : Strip) : Strip :=
  (List.range rows).foldl (fun st r => zeroTailRow g v vl r st) st

/-- The positions of a strip in linear order: row, element. -/
def positions (rows vl : Nat) : List (Nat × Nat) :=
  (List.range rows).flatMap (fun r => (List.range vl).map (fun e => (r, e)))

/-! ## Masks -/

def Strip.bit (st : Strip) (m e : Nat) : Bool := (st.m.toList.getD m []).getD e false

/-- Whether element e is active under predicate m (R35). -/
def Strip.active (st : Strip) (m : MReg) (e : Nat) : Bool := m = 0 || st.bit m.toNat e

def Strip.setMask (st : Strip) (d : MReg) (bs : List Bool) : Strip := { st with m := st.m.set d.toNat bs }

/-- The bits of a mask destination (R189): inactive ones are kept or zeroed by MSKP, those at or above VL by TAIL. -/
def writeMask (p : Shp) (pred d : MReg) (f : Nat → Bool) (st : Strip) : Strip :=
  let old := st.m.toList.getD d.toNat []
  let low := (List.range p.vl).map (fun e => if st.active pred e then f e else if p.mz then false else old.getD e false)
  st.setMask d (if p.tz then low else low ++ old.drop p.vl)

/-! ## The destination policy (R182) -/

/-- Writes a vector destination: active elements from f, where it gives one, and inactive and tail elements by MSKP and TAIL. Sources
are read from the strip before any write. -/
def writeSome (p : Shp) (g : Grp) (pred : MReg) (v : VReg) (f : Nat → Nat → Option Nat) (st : Strip) : Strip :=
  let st' := (positions p.rows p.vl).foldl (fun acc (re : Nat × Nat) =>
    if st.active pred re.2 then (match f re.1 re.2 with
      | some x => setElem acc g v re.1 re.2 x
      | none => acc)
    else if p.mz then setElem acc g v re.1 re.2 0 else acc) st
  let st' := if p.tz then zeroTail g v p.vl p.rows st' else st'
  { st' with ldl := ldlV v }

/-- The same, where every active element is written. -/
def writeRows (p : Shp) (g : Grp) (pred : MReg) (v : VReg) (f : Nat → Nat → Nat) (st : Strip) : Strip :=
  writeSome p g pred v (fun r e => some (f r e)) st

/-! ## Element faults (R151, R152) -/

/-- An element fault: its element and row, its cause and its address. -/
structure EFault where
  e : Nat
  row : Nat
  cause : Cause
  addr : Word
  deriving DecidableEq, Repr

def EFault.before (a b : EFault) : Bool := decide (a.e < b.e) || (decide (a.e = b.e) && decide (a.row ≤ b.row))

/-- The lower of two faults (R152). -/
def lowerFault : Option EFault → Option EFault → Option EFault
  | none, b => b
  | a, none => a
  | some a, some b => if a.before b then some a else some b

/-- R152: a fault at element 0, or in a strip that no SETVL opened, traps; any other trims the strip. -/
def raiseFault : Option EFault → M Unit
  | none => pure ()
  | some f => fun s =>
    if f.e ≠ 0 ∧ s.hart.ckptSetvl then .error (.retrim f.e) s else .error (.trap f.cause (word f.e) f.addr) s

/-- One element of a vector access: its row, its element, its address. -/
structure Elt where
  row : Nat
  e : Nat
  addr : Word
  deriving DecidableEq, Repr

/-- The checks of one element (R151). -/
def checkElem (k : Kind) (b : Nat) (x : Elt) : M (Except EFault Loc) := fun s =>
  let bad := fun c => Except.error (EFault.mk x.e x.row c x.addr)
  if x.addr.toNat % b ≠ 0 then .ok (bad .align) s
  else
    match xlate k x.addr s with
    | (t, .error (.cause c)) => .ok (bad c) t
    | (t, .error (.remote key n)) => .error (.remote key n) t
    | (t, .error (.stop f)) => .error (.stop f) t
    | (t, .ok loc) =>
      if loc.dev then .ok (bad .devio) t
      else if k = .load ∧ isRemote loc.key = false ∧ (damagedByte t loc.key b).isSome then .ok (bad .uncor) t
      else .ok (.ok loc) t

/-- The checks of all elements before any access (R160): the elements that pass with their places, and the lowest fault. -/
def checkElems (k : Kind) (b : Nat) : List Elt → M (List (Elt × Loc) × Option EFault)
  | [] => pure ([], none)
  | x :: xs => do
    let r ← checkElem k b x
    let rest ← checkElems k b xs
    match r with
    | .ok loc => pure ((x, loc) :: rest.1, rest.2)
    | .error f => pure (rest.1, lowerFault (some f) rest.2)

/-- The bytes of remote elements that come before the lowest fault so far: they are waited for, and one whose read is refused faults
(R333, R334). -/
def awaitElems (b : Nat) : List (Elt × Loc) → Option EFault → M (Option EFault)
  | [], f => pure f
  | (x, loc) :: rest, f => fun s =>
    let bad : EFault := ⟨x.e, x.row, .uncor, x.addr⟩
    if isRemote loc.key && !f.any (fun g => g.before bad) then
      if (s.hart.refusedByte loc.key b).isSome then awaitElems b rest (some bad) s
      else match s.hart.missing loc.key b with
        | some p => .error (.remote p.1 p.2) s
        | none => awaitElems b rest f s
    else awaitElems b rest f s

/-- The checks of a load's elements: their places, and the lowest fault. -/
def loadElems (b : Nat) (els : List Elt) : M (List (Elt × Loc) × Option EFault) := do
  let r ← checkElems .load b els
  let f ← awaitElems b r.1 r.2
  pure (r.1, f)

/-- The bytes of checked elements, each as a number. -/
def readElems (b : Nat) : List (Elt × Loc) → M (List Nat)
  | [] => pure []
  | (x, loc) :: rest => do
    let bs ← fetchBytes loc b (fun _ => .trap .uncor (word x.e) x.addr)
    let more ← readElems b rest
    pure (leNat bs :: more)

/-- The end of a vector instruction of len bytes; an oversized store commits here (R146, R211). -/
def finishVector (len : Nat) : M Unit := fun s =>
  let t := s.advance len
  .ok () (if mortarSize t.hart < (mortarChunks t.hart).length then (closeStrip false t).1 else t)

/-! ## Checks before a vector instruction -/

/-- What a vector instruction uses: its word, the formats it admits, whether it demands one row or one register per row, its
operand groups with their registers per row, the mask it writes, the registers whose naming as a source pops a stream, the destinations
that it reads, its vector destination, and which slots it reads where these are not those of the elements below VL of its sources. -/
structure VUse where
  word : BitVec 32
  admits : BitVec 6 → Bool := fun _ => true
  oneRow : Bool := false
  oneReg : Bool := false
  plain : Bool := false
  groups : Shp → List (VReg × Nat) := fun _ => []
  maskDst : Option MReg := none
  pops : List VReg := []
  reads : List VReg := []
  dst : Option VReg := none
  slots : Option (Shp → Strip → Nat × Nat → Bool) := none

def isReducedFormat (ew : BitVec 6) : Bool := ew = 0x0A || ew = 0x09

/-- ILL in reduced service for a major that it does not offer (R356). -/
def needFull (w : BitVec 32) : M Unit := do
  let r ← read isReduced
  if r then trapWord .ill w else pure ()

/-- The lowest-numbered brick of a list. Of bricks in several halls the one of the lowest hall comes first: the manual numbers bricks
within a hall (R214): DESIGN CHOICE (log entry 51). -/
def lowestBrick : List (Nat × Nat) → Option (Nat × Nat)
  | [] => none
  | b :: bs =>
    match lowestBrick bs with
    | none => some b
    | some c => some (if b.1 < c.1 ∨ (b.1 = c.1 ∧ b.2 ≤ c.2) then b else c)

/-- The VOWNER value of R214. -/
def ownerFound (s : State) : Word :=
  let h := s.hart
  let out := vownerOut h.vowner
  match lowestBrick (h.grant.filter (fun b => (s.brickAt b.1 b.2).owner.any (· != h.id))) with
  | some b => mkVowner out true ((s.brickAt b.1 b.2).owner.getD 0)
  | none =>
    if (s.tagged h.pid h.id).all (fun b => h.grant.contains b) then mkVowner out false 0
    else mkVowner out true h.id

/-- VOWN; and in place, the re-layout that is due, and the first use of the grant's bricks (R213, R214). -/
def ownVector : M Unit := fun s =>
  if inPlace s s.hart then .ok () (s.modHart Hart.placed).tagGrant
  else
    let v := ownerFound s
    .error (.trap .vown v 0) (s.modHart (fun h => { h with vowner := v }))

/-- Whether a group touches a bound register's cover without starting at it (R262). -/
def misbound (p : Shp) (b : Binding) (v n : Nat) : Bool :=
  decide (b.reg.toNat ≠ v ∧ v < b.reg.toNat + p.q ∧ b.reg.toNat < v + n)

/-- The checks of R57 from ILL to VOWN, then the overlap check of R262. Item 5 of R57 gives ILLSHAPE for GRP × ROWS above 8 and names no
instruction; one without a vector group (plain: the mask instructions and TZERO) uses neither, and is not checked: DESIGN CHOICE (log
entry 57). -/
def vectorChecks (u : VUse) : M Shp := do
  let p ← read shapeOf
  let red ← read isReduced
  if red && !u.plain && !isReducedFormat p.ew then trapWord .ill u.word
  else if !u.admits p.ew || (u.oneRow && p.rows != 1) || (u.oneReg && p.q != 1) then trapWord .ill u.word
  else
    let gs := u.groups p
    if gs.any (fun g => decide (8 < p.rows * g.2) || decide (p.nreg < g.1.toNat + p.rows * g.2)) ||
        (!u.plain && decide (8 < p.rows * p.q)) then trapWord .illshape u.word
    else do
      let bound ← read (fun s => s.hart.bound)
      match u.maskDst with
      | some m => check (!bound.any (fun b => b.1 == m)) .cmbusy (m.setWidth 64)
      | none => pure ()
      ownVector
      let binds ← read (fun s => s.hart.binds)
      if gs.any (fun g => binds.any (fun b => misbound p b g.1.toNat (p.rows * g.2))) then trapWord .illshape u.word
      else pure p

/-! ## Bound streams (R260, R261) -/

def State.bindingOf (s : State) (v : VReg) : Option Binding := s.hart.binds.find? (fun b => b.reg == v)

def Strip.posOf (st : Strip) (v : VReg) : Nat := assocGet st.pos v 0
def Strip.setPos (st : Strip) (v : VReg) (n : Nat) : Strip := { st with pos := assocSet st.pos v n }

/-- The address of stream element j, and of its scale byte. -/
def Binding.at (b : Binding) (j : Nat) : Word := b.base + word j * b.stride
def Binding.scaleAt (b : Binding) (j : Nat) : Word := b.scale + word (j / 2 ^ b.sblog) * b.sstride

/-- The stream elements of a strip that lie within the length, and the SEND fault of the first that does not. -/
def streamElts (b : Binding) (pos vl : Nat) (at_ : Nat → Word) : List Elt × Option EFault :=
  ((List.range (Nat.min vl (b.len - pos))).map (fun e => ⟨0, e, at_ (pos + e)⟩),
    if b.len < pos + vl then some ⟨b.len - pos, 0, .send, 0⟩ else none)

/-- The value of a scale byte (R175); none is the NaN. -/
def scaleValue (byte : Nat) : Option Frac := if byte = 255 then none else some (Frac.pow2 ((byte : Int) - 127))

/-- A stream conversion with a scale (R175). -/
def scaled (src dst : BitVec 6) (load : Bool) (scale : Option Nat) (bits : Nat) : Nat :=
  if src = dst ∧ scale = none then bits
  else
    match (scale.map scaleValue).getD (some (Frac.ofInt 1)) with
    | none => convStream dst .nan
    | some q =>
      let f : FVal := .fin q false
      let v := elemValue src bits
      convStream dst (if load then fMul v f else fDiv v f)

/-- The scale bytes of a strip; none without a scale stream. -/
def readScales (b : Binding) (els : List (Elt × Loc)) : M (List (Option Nat)) := do
  if b.scale = 0 then pure (els.map (fun _ => none))
  else do
    let bs ← readElems 1 els
    pure (bs.map some)

/-- The checks of a strip's scale bytes. -/
def checkScales (b : Binding) (pos vl : Nat) : M (List (Elt × Loc) × Option EFault) := do
  let els := (streamElts b pos vl b.scaleAt).1
  if b.scale = 0 then pure (els.map (fun x => (x, ⟨0, none⟩)), none)
  else loadElems 1 els

/-- A pop of one register (R260): nothing where it is not bound for load. -/
def pop (p : Shp) (w : BitVec 32) (v : VReg) : M Unit := do
  let b? ← read (fun s => s.bindingOf v)
  match b? with
  | none => pure ()
  | some b =>
    if b.store || p.vl == 0 then pure ()
    else if p.rows != 1 then trapWord .illshape w
    else do
      let pos ← read (fun s => s.hart.live.posOf v)
      let width := widthOf b.fmt / 8
      let st := streamElts b pos p.vl b.at
      let r ← loadElems width st.1
      let sc ← checkScales b pos p.vl
      raiseFault (lowerFault (lowerFault r.2 sc.2) st.2)
      let bits ← readElems width r.1
      let scales ← readScales b sc.1
      let vals := (bits.zip scales).map (fun x => scaled b.fmt p.ew true x.2 x.1)
      update (fun s => s.modLive (fun st =>
        let st' := (vals.zipIdx).foldl (fun acc x => setElem acc p.grp v 0 x.2 x.1) st
        let st' := if p.tz then zeroTail p.grp v p.vl 1 st' else st'
        st'.setPos v (pos + p.vl)))

/-- A pending append: its binding, its position, and the places of its elements and scale bytes. -/
structure Append where
  b : Binding
  pos : Nat
  els : List (Elt × Loc)
  scales : List (Option Nat)

/-- Room for the append to a destination register (R145, R261). -/
def roomForAppend (p : Shp) (dst : Option VReg) : M Unit := do
  let b? ← read (fun s => dst.bind s.bindingOf)
  match b? with
  | none => pure ()
  | some b =>
    if !b.store || p.rows != 1 then pure ()
    else do
      let pos ← read (fun s => s.hart.live.posOf b.reg)
      makeRoom ((streamElts b pos p.vl b.at).1.map (·.addr))

/-- The checks of an append to a destination register, with the faults of the instruction's own elements (R261)
(DEDUCED, log entry 30). -/
def prepareAppend (p : Shp) (w : BitVec 32) (dst : Option VReg) (own : Option EFault) : M (Option Append) := do
  let b? ← read (fun s => dst.bind s.bindingOf)
  match b? with
  | none => do raiseFault own; pure none
  | some b =>
    if !b.store || p.vl == 0 then do raiseFault own; pure none
    else if p.rows != 1 then trapWord .illshape w
    else do
      let pos ← read (fun s => s.hart.live.posOf b.reg)
      let st := streamElts b pos p.vl b.at
      let r ← checkElems .store (widthOf b.fmt / 8) st.1
      let sc ← checkScales b pos p.vl
      raiseFault (lowerFault own (lowerFault (lowerFault r.2 sc.2) st.2))
      let scales ← readScales b sc.1
      pure (some ⟨b, pos, r.1, scales⟩)

/-- UNCOR where an element to append lies in an unreadable slot: one that the instruction has not written whole (R261, R361). -/
def checkAppend (p : Shp) (a : Append) (st : Strip) : M Unit :=
  check (st.lost.isEmpty || !a.els.any (fun x =>
    let g := p.grp
    let at_ := fun i => g.place a.b.reg 0 (x.1.e * g.w / 32 + i)
    st.lost.contains (at_ 0) || (g.w == 64 && st.lost.contains (at_ 1)))) .uncor 0

/-- The stores of an append, after the instruction has written its destination (R261). -/
def doAppend (p : Shp) : Option Append → M Unit
  | none => pure ()
  | some a => do
    let st ← read (fun s => s.hart.live)
    checkAppend p a st
    let width := widthOf a.b.fmt / 8
    emit ((a.els.zip a.scales).map (fun x =>
      mkStore x.1.1.addr x.1.2 (leBytes width (scaled p.ew a.b.fmt false x.2 (getElem st p.grp a.b.reg 0 x.1.1.e)))))
    update (fun s => s.modLive (fun st => st.setPos a.b.reg (a.pos + p.vl)))

/-- The pops of an instruction's sources, each register once (R260) (DEDUCED, log entry 30). -/
def popAll (p : Shp) (w : BitVec 32) : List VReg → M Unit
  | [] => pure ()
  | v :: vs => do pop p w v; popAll p w vs

/-- Whether an unreadable slot lies under an element that a source group is read for (R361). -/
def readsLost (p : Shp) (vn : VReg × Nat) (u : Nat × Nat) : Bool :=
  let r := u.1 - vn.1.toNat
  decide (vn.1.toNat ≤ u.1 ∧ r < p.rows * vn.2 ∧ (r % vn.2 * p.m + u.2) * 32 * p.q < p.vl * vn.2 * p.w)

/-- UNCOR where a source has an unreadable slot (R361). -/
def checkLost (u : VUse) (p : Shp) : M Unit := do
  let st ← read (fun s => s.hart.live)
  let reads := fun l => match u.slots with
    | some f => f p st l
    | none => ((u.groups p).filter (fun g => (u.pops ++ u.reads).contains g.1)).any (fun g => readsLost p g l)
  check (st.lost.isEmpty || !st.lost.any reads) .uncor 0

/-- The sources of a vector instruction made ready: its streams popped, and every slot readable. -/
def popSources (u : VUse) (p : Shp) : M Unit := do
  popAll p u.word u.pops.eraseDups
  checkLost u p

/-- A vector instruction on registers: its checks, its pops, its own faults, its effect on the strip, its append. -/
def vectorOpIf (u : VUse) (len : Nat) (own : Shp → M Unit) (effect : Shp → M Unit) : M Unit := retry do
  let p ← vectorChecks u
  roomForAppend p u.dst
  popSources u p
  own p
  let a ← prepareAppend p u.word u.dst none
  effect p
  doAppend p a
  finishVector len

/-- The same without faults of its own. -/
def vectorOp (u : VUse) (len : Nat) (effect : Shp → M Unit) : M Unit := vectorOpIf u len (fun _ => pure ()) effect

/-- The effect of an instruction that changes the strip alone. -/
def onStrip (f : Shp → Strip → Strip) (p : Shp) : M Unit := update (fun s => s.modLive (f p))

end Sys2Proof.Machine
end

