-- ==== Sys2Proof/Machine/Sys.lean ====
section
/-! DEFINITION. System instructions (R127, R130 to R133) and the vector save area (R215 to R217). -/

namespace Sys2Proof.Machine

/-- R130: the strip is closed, and the trap resumes after the instruction. -/
def execTrap (n : BitVec 5) (s : State) : Out := run (closing false (trap .trapi (n.setWidth 64))) s

/-- R130. -/
def execBrk (s : State) : Out := run (closing false (trap .brk 0)) s

/-- R209. -/
def execTret (s : State) : Out :=
  run (do
    needSupervisor (eNone 0x1E#6 0x002#10)
    closing false (update (fun s => s.modHart Hart.leaveTrap))) s

/-- R131: the hart stops until an entry is posted, WTIME passes, or it is pre-empted. -/
def execHalt (s : State) : Out :=
  run (do
    needSupervisor (eNone 0x1E#6 0x003#10)
    closing false (update (fun s => s.await (.halt s.part.posted)))) s

/-- R127: no architectural effect. -/
def execYield (s : State) : Out := .next (s.advance 4)

/-- R133: the strip is closed. -/
def execIcsync (s : State) : Out := run (closing false (update State.complete)) s

/-- The translations that a TLBINV names (R132). -/
def PageUse.named (k : BitVec 5) (a root : Word) (u : PageUse) : Bool :=
  match k.toNat with
  | 0 => decide (u.vpn = a.toNat / 2 ^ pageBits u.level)
  | 1 => decide (u.root = root) && !u.glob
  | _ => true

/-- The translation that a cache entry holds. -/
def TlbEntry.use (e : TlbEntry) : PageUse := ⟨e.root, e.level, e.vpn, e.leaf.getLsbD 5⟩

/-- Another hart of the partition whose open strip holds an invalidated translation, or whose stores under one are not all
performed (R132) (DEDUCED, log entry 27). -/
def staleElsewhere (s : State) : Bool :=
  s.harts.any (fun h => decide (h.pid = s.hart.pid) && h.status != .absent && (h.stale || h.staleOut))

/-- Marks a hart whose open strip holds an invalidated translation, or that has stores on their way (R132). -/
def Hart.markStale (k : BitVec 5) (a root : Word) (h : Hart) : Hart :=
  { h with
    stale := h.stale || h.pages.any (PageUse.named k a root)
    staleOut := h.staleOut || !(h.outgoing.isEmpty && h.acks.isEmpty) }

/-- Invalidates the partition's cached translations, and marks the harts that hold one (R132). -/
def invalidate (k : BitVec 5) (a : Word) (s : State) : State :=
  let pid := s.hart.pid
  let root := s.hart.ptroot
  let s := s.modDev (fun d => { d with tlb := d.tlb.filter (fun e => !(decide (e.pid = pid) && e.use.named k a root)) })
  s.mapHarts (fun h => if h.pid = pid then h.markStale k a root else h)

/-- R132: it completes once no other open strip holds an invalidated translation. -/
def execTlbinv (o : Tlb) (s : State) : Out :=
  run (do
    needSupervisor (eTlb 0x1E#6 0x006#10 o)
    closing true (update (fun s =>
      let s := invalidate o.k (s.xr o.b) s
      if staleElsewhere s then s.await .tlbinv else s.complete))) s

/-! ## The vector save area -/

/-- The pieces of a range of bytes, none across a 64 KiB page. -/
def splitSpan : Nat → Nat → Nat → List (Nat × Nat)
  | 0, _, _ => []
  | fuel + 1, a, n =>
    if n = 0 then []
    else
      let k := Nat.min n (2 ^ 16 - a % 2 ^ 16)
      (a, k) :: splitSpan fuel (a + k) (n - k)

def spanOf (a n : Nat) : List (Nat × Nat) := splitSpan (n / 2 ^ 16 + 2) a n

/-- A piece of a range, with its address, place and length. -/
structure Piece where
  va : Word
  loc : Loc
  n : Nat
  deriving DecidableEq, Repr

/-- Translates the pieces of a range in ascending order; the first that fails traps with its address. -/
def translateSpan (k : Kind) : List (Nat × Nat) → M (List Piece)
  | [] => pure []
  | (a, n) :: rest => do
    let loc ← translate k (word a)
    let more ← translateSpan k rest
    pure (⟨word a, loc, n⟩ :: more)

/-- The stores of bytes over translated pieces. -/
def spanStores : List Piece → List Byte → List Store
  | [], _ => []
  | p :: rest, bs => mkStore p.va p.loc (bs.take p.n) :: spanStores rest (bs.drop p.n)

/-- Writes bytes over translated pieces directly, in ascending address order (R215, R333). -/
def writeSpan (ps : List Piece) (bs : List Byte) (s : State) : State :=
  let sts := (spanStores ps bs).filter (fun st => !st.data.isEmpty)
  let s := (sts.filterMap (·.leaf)).eraseDups.foldl markStored s
  (s.modHart (fun h => { h with outgoing := h.outgoing ++ sts })).drain

/-- The bytes of translated pieces; UNCOR at the failing address. -/
def readPieces : List Piece → M (List Byte)
  | [] => pure []
  | p :: rest => do
    let bs ← fetchBytes p.loc p.n (fun i => .trap .uncor (p.va + word i) 0)
    let more ← readPieces rest
    pure (bs ++ more)

/-- Reads the bytes of a range, translated before any is read; PAGE, PROT or UNCOR at the failing address. -/
def readSpan (ps : List (Nat × Nat)) : M (List Byte) := do
  let locs ← translateSpan .load ps
  readPieces locs

def padTo {α : Type} (d : α) (n : Nat) (l : List α) : List α := l.take n ++ List.replicate (n - l.length) d

def slotBytes (l : List Slot) : List Byte := l.flatMap (fun x => leBytes 4 x.toNat)

/-- Eight mask bits a byte, bit 0 first (R217). -/
def packBits : Nat → List Bool → List Byte
  | 0, _ => []
  | n + 1, bs =>
    BitVec.ofNat 8 ((List.range 8).foldl (fun v i => if bs.getD i false then v + 2 ^ i else v) 0) :: packBits n (bs.drop 8)

/-- The bytes of a vector save area (R217). -/
def saveArea (h : Hart) (b l : Nat) : List Byte :=
  let m := slotsPer b l h.nreg
  let mc := maskBits b l
  let tc := tileCols b l
  leBytes 4 1 ++ leBytes 1 h.nreg ++ leBytes 3 0 ++
  leBytes 2 h.id ++ leBytes 2 b ++ leBytes 1 l ++ leBytes 1 h.dies ++ leBytes 2 0 ++
  leBytes 4 m ++ leBytes 4 mc ++ leBytes 4 tc ++ leBytes 4 0 ++ List.replicate 96 0 ++
  (h.live.v.toList.take h.nreg).flatMap (fun r => slotBytes (padTo 0 m r)) ++
  h.live.m.toList.flatMap (fun bs => packBits (mc / 8) bs) ++
  h.live.t.toList.flatMap (fun t => t.toList.flatMap (fun row => slotBytes (padTo 0 tc row)))

/-- A strip with its vector state zero, but for bound masks. -/
def Strip.dropVectors (keep : Nat → Bool) (st : Strip) : Strip :=
  { st with
    v := Vector.replicate 32 []
    m := Vector.ofFn (fun i : Fin 8 => if keep i.val then st.m[i] else [])
    t := Vector.replicate 4 (Vector.replicate 16 [])
    lost := [] }

def Hart.isBound (h : Hart) (i : Nat) : Bool := h.bound.any (fun b => decide (b.1.toNat = i))

/-- VOWNER with OUT set, with VAL clear, and with OUT clear (R215, R216). -/
def ownerOut (v : Word) : Word := v ||| 0x8000
def ownerDone (v : Word) : Word := v &&& ~~~0x1000#64
def ownerIn (v : Word) : Word := v &&& ~~~0x8000#64

/-- The hart a VSAVE saves: the one VOWNER names, else the issuing hart (R215). -/
def saveTarget (h : Hart) : Nat := if vownerVal h.vowner then vownerHart h.vowner else h.id

/-- The bricks of the saved hart become free and its state leaves them (R215). -/
def afterSave (id : Nat) (s : State) : State :=
  let s := s.freeTags (s.tagged s.hart.pid id) id
  let s := s.modHartOf s.hart.pid id (fun h =>
    { h with
      live := h.live.dropVectors h.isBound, ckpt := h.ckpt.dropVectors h.isBound, vowner := ownerOut h.vowner })
  s.modHart (fun h => { h with vowner := ownerDone h.vowner })

/-- The offset in a save area of an unreadable slot; none where the area leaves the slot out (R217). -/
def lostOffset (nreg b l : Nat) (u : Nat × Nat) : Option Nat :=
  let m := slotsPer b l nreg
  let tc := tileCols b l
  if u.1 < nreg ∧ u.2 < m then some (128 + 4 * (m * u.1 + u.2))
  else if 32 ≤ u.1 ∧ u.2 < tc then some (128 + 4 * m * nreg + maskBits b l + 4 * (tc * (u.1 - 32) + u.2))
  else none

/-- The bytes of a save area before its first unreadable slot, where it has one (R215; DESIGN CHOICE, log entry 46). -/
def lostFrom (h : Hart) (b l : Nat) : Option Nat := (h.live.lost.filterMap (lostOffset h.nreg b l)).min?

/-- R215. -/
def execVsave (b : XReg) (s : State) : Out :=
  run (do
    needSupervisor (eBx 0x1E#6 0x004#10 b)
    closing true (do
      let s ← get
      let a := s.xr b
      check (a.toNat % 64 == 0) .align a
      let id := saveTarget s.hart
      let n := (s.tagged s.hart.pid id).length
      let g := (s.findHart s.hart.pid id).getD s.hart
      let h := if inPlace s g then g.placed else g
      let size := 128 + 6144 * n * h.lmod
      let locs ← translateSpan .store (spanOf a.toNat size)
      match lostFrom h n h.lmod with
      | some k => do update (writeSpan locs ((saveArea h n h.lmod).take k)); trap .uncor 0
      | none => update (fun t => (afterSave id (writeSpan locs (saveArea h n h.lmod) t)).complete))) s

/-- The fields of a header that must be zero (R217). -/
def headerReserved (n : Nat) : Bool :=
  bitsOf n 40 24 != 0 || bitsOf n 112 16 != 0 || bitsOf n 224 32 != 0 || bitsOf n 256 768 != 0

/-- n lists of len slots from bytes. -/
def slotLists (len : Nat) : Nat → List Byte → List (List Slot)
  | 0, _ => []
  | n + 1, bs =>
    ((List.range len).map (fun i => BitVec.ofNat 32 (leNat ((bs.drop (4 * i)).take 4)))) :: slotLists len n (bs.drop (4 * len))

def unpackBits (n : Nat) (bs : List Byte) : List Bool :=
  (List.range n).map (fun i => (bs.getD (i / 8) 0).getLsbD (i % 8))

/-- The vector state of a save area, cut to the issuing hart's geometry (R216). -/
def restoreArea (n m mc tc : Nat) (bs : List Byte) (h : Hart) : Hart :=
  let lanes := h.bricks * h.lmod
  let regs := (slotLists m n bs).map (List.take (slotsPer 1 lanes n))
  let bs := bs.drop (4 * m * n)
  let masks := (List.range 8).map (fun i => (unpackBits mc (bs.drop (i * (mc / 8)))).take (maskBits 1 lanes))
  let bs := bs.drop (mc / 8 * 8)
  let rows := (slotLists tc 64 bs).map (List.take (tileCols 1 lanes))
  { h with
    nreg := n, cut := none
    live := { h.live with
      v := Vector.ofFn (fun i : Fin 32 => regs.getD i.val [])
      m := Vector.ofFn (fun i : Fin 8 => if h.isBound i.val then h.live.m[i] else masks.getD i.val [])
      t := Vector.ofFn (fun i : Fin 4 => Vector.ofFn (fun r : Fin 16 => rows.getD (16 * i.val + r.val) []))
      lost := [] } }

/-- A strip whose state has been written over in some of its hart's bricks, by their place in the order of R108: what it held there is a
free value (log entry 51). Columns and mask bits lie in the bricks in equal parts (R201; log entry 46). -/
def Strip.stray (n nreg lanes bricks : Nat) (gone : Nat → Bool) (st : Strip) : Strip :=
  let per := slotsPer 1 lanes nreg / bricks
  let slots := fun (unit : Nat) (l : List Slot) (size : Nat) => (List.range size).map (fun i =>
    if gone (i % slotsPer 1 lanes nreg / per) then Config.straySlot n unit i else l.getD i 0)
  { st with
    v := Vector.ofFn (fun i : Fin 32 => slots i.val st.v[i] (slotsPer 1 lanes nreg))
    m := Vector.ofFn (fun i : Fin 8 => (List.range (maskBits 1 lanes)).map (fun e =>
      if gone (e / (maskBits 1 lanes / bricks)) then (Config.straySlot n (96 + i.val) e).getLsbD 0 else st.m[i].getD e false))
    t := Vector.ofFn (fun i : Fin 4 => Vector.ofFn (fun r : Fin 16 => slots (32 + 16 * i.val + r.val) st.t[i][r] (tileCols 1 lanes))) }

/-- A hart after a VRESTORE of another into bricks that carry its tag (R216). -/
def Hart.overwritten (s : State) (taken : List (Nat × Nat)) (h : Hart) : Hart :=
  let bs := placeBricks s h
  if bs.any taken.contains then
    let f := Strip.stray s.dev.freeIdx h.nreg (bs.length * h.lmod) bs.length (fun i => (bs[i]?).any taken.contains)
    { h with live := f h.live, ckpt := f h.ckpt }
  else h

/-- The other harts whose tags a VRESTORE's grant takes lose what lies in those bricks (R216). -/
def overwriteOthers (s : State) : State :=
  let of := fun (h : Hart) => s.hart.grant.filter (fun b => (s.brickAt b.1 b.2).owner == some h.id)
  if s.hart.grant.all (fun b => (s.brickAt b.1 b.2).owner.all (· == s.hart.id)) then s
  else ({ s with harts := s.harts.map (fun h => if h.pid = s.hart.pid then h.overwritten s (of h) else h) } : State).modDev
    (fun d => { d with freeIdx := d.freeIdx + 1 })

/-- R216. -/
def execVrestore (b : XReg) (s : State) : Out :=
  run (do
    needSupervisor (eBx 0x1E#6 0x005#10 b)
    closing false (do
      let s ← get
      let a := s.xr b
      check (a.toNat % 64 == 0) .align a
      check (!vownerVal s.hart.vowner) .vown s.hart.vowner
      let hd ← readSpan (spanOf a.toNat 128)
      let n := leNat hd
      let nreg := bitsOf n 32 8
      check (bitsOf n 0 32 == 1 && (nreg == 8 || nreg == 16 || nreg == 32) && !headerReserved n) .illshape a
      let m := bitsOf n 128 32
      let mc := bitsOf n 160 32
      let tc := bitsOf n 192 32
      let size := 4 * m * nreg + mc / 8 * 8 + 256 * tc
      let bs ← readSpan (spanOf (a.toNat + 128) size)
      update (fun t =>
        let t := ((overwriteOthers t).modHart (restoreArea nreg m mc tc bs)).tagGrant
        (t.modHart (fun h => { h with vowner := ownerIn h.vowner })).complete))) s

end Sys2Proof.Machine
end

