-- ==== Sys2Proof/Machine/Engine.lean ====
section
/-! DEFINITION. The course of an engine instruction (R7) and the reads and writes an engine makes for it (R362). -/

namespace Sys2Proof.Machine

/-- The commands of a hart that an engine has accepted (R339). -/
def Hart.ordinal (h : Hart) (e : EngineKind) : Nat := (h.accepted.filter (· == e)).length

/-- Whether the queue of the hart at an engine is full (R7). -/
def Hart.queueFull (h : Hart) (e : EngineKind) : Bool := decide (Config.queueDepth ≤ (h.queued.filter (· == e)).length)

/-- An engine instruction: refused in reduced service (R356), then closing as a release (R75), then its body
(DEDUCED, log entry 37). -/
def engineOp (w : BitVec 32) (body : M Unit) (s : State) : Out := run (do needFull w; closing true body) s

/-- The command enters the hart's queue; the hart stalls where it is full (R7). A command is accepted in the step in which it enters,
unless it waits in the queue (log entry 15). -/
def enter (e : EngineKind) (body : M Unit) : M Unit := fun s =>
  if s.hart.queueFull e then .ok () (s.await (.queue e)) else body s

/-- The command waits in its queue to be accepted, and the hart with it: it is issued again. -/
def queueUp (e : EngineKind) (w : Wait) : M Unit :=
  update (fun s => (s.await w).modHart (fun h => { h with queued := h.queued ++ [e] }))

/-- A hart that waited for its command's acceptance issues it again. -/
def Hart.reissue (h : Hart) : Hart := { h with status := .ready, queued := [] }

/-- The body of a command that reads objects of its engine: while it waits for those on another device, a command that changes them
makes it read anew (R8, R333). -/
def ofObjects (e : EngineKind) (body : M Unit) : M Unit := fun s =>
  match body s with
  | .error (.remote k n) t => .error (.reading e k n) t
  | r => r

/-- Harts of the partition that wait for something issue again. -/
def wakeAll (w : Wait) (s : State) : State :=
  let p := s.part.cfg.pid
  s.mapHarts (fun h => if h.pid = p ∧ h.status = .waiting w then h.reissue else h)

/-- The command is accepted: its issuer, with its acceptance ordinal (R339). -/
def takeIn (e : EngineKind) : M Issuer := fun s =>
  .ok (s.issuer e (s.hart.ordinal e)) (s.modHart (fun h => { h with accepted := h.accepted ++ [e] }))

/-- A command that is accepted and is complete for the hart at once. -/
def takeAndGo (e : EngineKind) : M Unit := do
  let _ ← takeIn e
  update State.complete

/-- A command that is accepted and answers in a register at once. -/
def takeAndAnswer (e : EngineKind) (r : XReg) (v : Word) : M Unit := do
  let _ ← takeIn e
  update (fun s => s.finish r v)

/-- The translation of an address for an engine at issue, whichever it is; a failure traps with TVAL the address (R362). -/
def engineTranslate (k : Kind) (a : Nat) : M Loc := fun s =>
  match engineXlate s (s.issuer .blk 0) k (word a) with
  | .ok loc => .ok loc s
  | .error (.cause c) => .error (.trap c (word a) 0) s
  | .error (.remote key n) => .error (.remote key n) s
  | .error (.stop f) => .error (.stop f) s

/-- A wait for bytes of another device, where there are any to wait for (R333). -/
def awaitPiece : Option (Nat × Nat) → M Unit
  | some p => throw (.remote p.1 p.2)
  | none => pure ()

/-- Reads the bytes of a range for an engine at issue or acceptance: PAGE or PROT at the failing address, UNCOR at the address that
at_ makes of it. -/
def engineReadSpan (at_ : Nat → Nat) : List (Nat × Nat) → M (List Byte)
  | [] => pure []
  | (a, n) :: rest => do
    let loc ← engineTranslate .load a
    let bs ← fetchBytes loc n (fun i => .trap .uncor (word (at_ (a + i))) 0)
    let more ← engineReadSpan at_ rest
    pure (bs ++ more)

def engineRead (a n : Nat) : M (List Byte) := engineReadSpan id (spanOf a n)

/-- Translates a range for an engine's writes, in ascending order. -/
def engineWriteSpan : List (Nat × Nat) → M (List (Loc × Nat))
  | [] => pure []
  | (a, n) :: rest => do
    let loc ← engineTranslate .store a
    let more ← engineWriteSpan rest
    pure ((loc, n) :: more)

/-- An engine's writes over translated pieces, ascending. -/
def engineWrite (b : Issuer) : List (Loc × Nat) → List Byte → State → State
  | [], _, s => s
  | (loc, n) :: rest, bs, s => engineWrite b rest (bs.drop n) (s.engineStore b none loc (bs.take n))

/-- A record of 64 bytes as one number: ALIGN, then the read (R86, R246, R256). -/
def readRecord (a : Word) : M Nat := do
  check (a.toNat % 64 == 0) .align a
  let bs ← engineRead a.toNat 64
  pure (leNat bs)

/-- A record of n bytes of a block command, aligned to them: every fault is at the record's address (R231). -/
def blockRecord (a : Word) (n : Nat) : M Nat := do
  check (a.toNat % n == 0) .align a
  let bs ← engineReadSpan (fun _ => a.toNat) (spanOf a.toNat n)
  pure (leNat bs)

/-- The doubleword of a record at a byte offset. -/
def dwordAt (rec_ off : Nat) : Word := word (bitsOf rec_ (8 * off) 64)

end Sys2Proof.Machine
end

