-- ==== Sys2Proof/Machine/Pool.lean ====
section
/-! DEFINITION. The key-value pool and its metadata in memory (R222 to R226). -/

namespace Sys2Proof.Machine

def poolLog (p : Partition) : Nat := bitsOf p.bszlog.toNat 0 5
def poolBlocks (p : Partition) : Nat := bitsOf p.bszlog.toNat 32 32

/-- Whether the pool is valid (R223). -/
def poolValid (p : Partition) : Bool :=
  let l := poolLog p
  let n := poolBlocks p
  decide (12 ≤ l ∧ l ≤ 24 ∧ 1 ≤ n ∧ n ≤ 0xFFFFFFFE ∧ p.bpbase.toNat % 2 ^ l = 0 ∧ 1 ≤ p.tpb.toNat ∧ 1 ≤ p.tokb.toNat ∧
    p.tpb.toNat * p.tokb.toNat ≤ 2 ^ l ∧ p.bpbase.toNat + n * (2 ^ l + 16) ≤ 2 ^ 52)

/-- The virtual address of a block, and of its metadata entry (R225). -/
def blockVa (p : Partition) (id : Nat) : Nat := p.bpbase.toNat + id * 2 ^ poolLog p
def metaVa (p : Partition) (id : Nat) : Nat := p.bpbase.toNat + poolBlocks p * 2 ^ poolLog p + 16 * id

/-- The engines reach the pool through the partition's root (R225), for the command of an issuer, whatever the privilege of its hart: as a
supervisor, since the manual names the root alone: DESIGN CHOICE (log entry 14). -/
def poolIssuer (p : Partition) (b : Issuer) : Issuer := { b with root := p.cfg.ptroot, mode := .supervisor }

def Issuer.none : Issuer := ⟨.blk, 0, .supervisor, 0, 0, 0, 0⟩

/-- A metadata entry (R225). -/
structure Meta where
  count : Nat
  st : Nat
  ret : Bool
  stamp : Nat
  deriving DecidableEq, Repr

def Meta.free : Meta := ⟨0, 0, false, 0⟩

def Meta.bytes (m : Meta) : List Byte :=
  leBytes 4 m.count ++ leBytes 1 m.st ++ leBytes 1 (if m.ret then 1 else 0) ++ leBytes 2 0 ++ leBytes 8 m.stamp

def Meta.ofNat (n : Nat) : Meta := ⟨bitsOf n 0 32, bitsOf n 32 8, n.testBit 40, bitsOf n 64 64⟩

/-- The place of a metadata entry. -/
def metaPlace (s : State) (k : Kind) (id : Nat) : Except XErr Loc :=
  engineXlate s (poolIssuer s.part Issuer.none) k (word (metaVa s.part id))

/-- The place of a metadata entry that is mapped (log entry 14). -/
def metaLoc (s : State) (k : Kind) (id : Nat) : Option Loc :=
  match metaPlace s k id with
  | .ok loc => some loc
  | .error _ => none

/-- What a read of a metadata entry gives. -/
inductive MetaRead where
  | entry (m : Meta)
  /-- It cannot be read (R334, R361). -/
  | damaged
  /-- It, or a table that its translation needs, lies on another device and has not come (R333). -/
  | missing (key n : Nat)
  deriving DecidableEq, Repr

/-- The entry of an id; one that the partition's root does not map reads as FREE (log entry 14). -/
def metaRead (s : State) (id : Nat) : MetaRead :=
  match metaPlace s .load id with
  | .error (.remote k n) => .missing k n
  | .error (.cause .uncor) => .damaged
  | .error _ => .entry Meta.free
  | .ok loc =>
    if isRemote loc.key then
      if (s.hart.refusedByte loc.key 16).isSome then .damaged
      else match s.hart.replied loc.key 16 with
        | some bs => .entry (Meta.ofNat (leNat bs))
        | none => .missing loc.key 16
    else if s.damagedAt loc.key 16 then .damaged
    else .entry (Meta.ofNat (s.peekNat loc.key 16))

def metaOf (s : State) (id : Nat) : Meta :=
  match metaRead s id with
  | .entry m => m
  | _ => Meta.free

/-- Whether the entry of an id cannot be read (R334, R361; DEDUCED, log entry 54). -/
def metaDamaged (s : State) (id : Nat) : Bool := metaRead s id == .damaged

/-- What the entry of an id waits for. -/
def metaMissing (s : State) (id : Nat) : Option (Nat × Nat) :=
  match metaRead s id with
  | .missing k n => some (k, n)
  | _ => none

/-- Writes the entry of an id for a command, where it is mapped. -/
def State.setMeta (s : State) (b : Issuer) (id : Nat) (m : Meta) : State :=
  match metaLoc s .store id with
  | some loc => s.engineStore b none loc m.bytes
  | none => s

/-- Writes the state of an id alone: an entry that cannot be read stays so (R361; DEDUCED, log entry 54). -/
def State.setMetaState (s : State) (b : Issuer) (id st : Nat) : State :=
  match metaLoc s .store id with
  | some loc => s.engineStore b none ⟨loc.key + 4, loc.leaf⟩ (leBytes 1 st)
  | none => s

/-- The least number of fuel numbers from i on with a property. -/
def firstFrom (p : Nat → Bool) : Nat → Nat → Option Nat
  | 0, _ => none
  | fuel + 1, i => if p i then some i else firstFrom p fuel (i + 1)

/-- How many of fuel numbers from i on have a property. -/
def countFrom (p : Nat → Bool) : Nat → Nat → Nat → Nat
  | 0, _, acc => acc
  | fuel + 1, i, acc => countFrom p fuel (i + 1) (if p i then acc + 1 else acc)

/-- The lowest FREE id (R232). -/
def lowestFree (s : State) : Option Nat := firstFrom (fun i => decide ((metaOf s i).st = 0)) (poolBlocks s.part) 0

/-- The lowest of the first n ids whose entry cannot be read. -/
def badMeta (s : State) (n : Nat) : Option Nat :=
  if s.dev.damaged.isEmpty && s.hart.refused.isEmpty then none else firstFrom (metaDamaged s) n 0

/-- What the first of the first n entries that has not come waits for; none without windows on other devices (R332). -/
def missingMeta (s : State) (n : Nat) : Option (Nat × Nat) :=
  if s.part.cfg.windows.isEmpty then none else (firstFrom (fun i => (metaMissing s i).isSome) n 0).bind (metaMissing s)

/-- How many entries the search for a FREE id reads. -/
def searched (s : State) : Nat := ((lowestFree s).map (· + 1)).getD (poolBlocks s.part)

def Meta.retiring (m : Meta) : Bool := m.ret && decide (m.count = 0)

/-- Whether the pool registers may be written: every block is FREE and none is retiring (R224). One whose entry cannot be read counts as
neither: DESIGN CHOICE (log entry 54). -/
def poolIdle (s : State) : Bool :=
  (firstFrom (fun i => metaDamaged s i || decide ((metaOf s i).st ≠ 0) || (metaOf s i).retiring) (poolBlocks s.part) 0).isNone

end Sys2Proof.Machine
end

