-- ==== Sys2Proof/Machine/Blocks.lean ====
section
/-! DEFINITION. The block engine (R226 to R240): block translation, block commands, promotion, compaction and reclamation. -/

namespace Sys2Proof.Machine

/-! ## VXLAT and VXLATF (R228, R229) -/

/-- One translated position: a value, or a block fault. -/
inductive Xlat where
  | value (v : Nat)
  | fault (c : Cause)
  deriving DecidableEq, Repr

def Xlat.isFault : Xlat → Bool
  | .fault _ => true
  | .value _ => false

def Xlat.val : Xlat → Nat
  | .fault _ => 0
  | .value v => v

/-- The value of a resident block at a slot of it, under a width (R228). -/
def xlatValue (p : Partition) (w id k : Nat) : Xlat :=
  let o := id * 2 ^ poolLog p + k * p.tokb.toNat
  if w = 32 then (if 2 ^ 32 ≤ o then .fault .page else .value o) else .value ((p.bpbase.toNat + o) % 2 ^ 64)

/-- What a metadata entry makes of a block (R226, R228). -/
def xlatState (p : Partition) (w id k : Nat) (m : Meta) : Xlat :=
  if m.st = 4 then .fault .bdamage else if m.st = 1 then xlatValue p w id k else .fault .page

/-- A checked load of an element: its bytes as a number, or the element fault. -/
def loadElement (b : Nat) (x : Elt) : M (Except EFault Nat) := do
  let r ← loadElems b [x]
  match r.2 with
  | some f => pure (.error f)
  | none => do
    let vs ← readElems b r.1
    pure (.ok (vs.headD 0))

/-- The table address of a position. -/
def tableAt (p : Partition) (base : Word) (pos : Nat) : Word := base + word (4 * (pos / p.tpb.toNat))

/-- One position translated, or its memory element fault (R228, R229). -/
def xlatElement (base : Word) (w e pos : Nat) : M (Except EFault Xlat) := do
  let p ← read (·.part)
  let t ← loadElement 4 ⟨0, e, tableAt p base pos⟩
  match t with
  | .error f => pure (.error f)
  | .ok id =>
    if poolBlocks p ≤ id then pure (.ok (.fault .page))
    else do
      let m ← loadElement 16 ⟨0, e, word (metaVa p id)⟩
      match m with
      | .error f => pure (.error f)
      | .ok n => pure (.ok (xlatState p w id (pos % p.tpb.toNat) (Meta.ofNat n)))

/-- Positions translated in ascending order, up to the first fault that is raised: any memory element fault, and with stop a block
fault too. -/
def xlatElements (base : Word) (w : Nat) (stop : Bool) : List (Nat × Nat) → M (List (Nat × Xlat) × Option EFault)
  | [] => pure ([], none)
  | (e, pos) :: rest => do
    let p ← read (·.part)
    let r ← xlatElement base w e pos
    match r with
    | .error f => pure ([], some f)
    | .ok (.fault c) =>
      if stop then pure ([], some ⟨e, 0, c, tableAt p base pos⟩)
      else do
        let more ← xlatElements base w stop rest
        pure ((e, .fault c) :: more.1, more.2)
    | .ok v => do
      let more ← xlatElements base w stop rest
      pure ((e, v) :: more.1, more.2)

/-- The formats of VXLAT (R227). -/
def xlatAdmits (ew : BitVec 6) : Bool := ew = 0x06 || ew = 0x07

/-- VXLAT and VXLATF: pred is the predicate, and bits the mask that receives the block faults (R228). -/
def vxlatOp (w : BitVec 32) (o : VVX) (pred : MReg) (bits : Option MReg) : M Unit := retry do
  let u : VUse :=
    { word := w, admits := xlatAdmits, oneRow := true, groups := fun p => [(o.a, p.q), (o.b, p.q)], maskDst := bits, pops := [o.b]
      dst := some o.a }
  let p ← vectorChecks u
  roomForAppend p u.dst
  popSources u p
  let s ← get
  check (p.vl == 0 || poolValid s.part) .bpool 0
  let els := ((List.range p.vl).filter (fun e => s.hart.live.active pred e)).map (fun e => (e, getElem s.hart.live p.grp o.b 0 e))
  let r ← xlatElements (s.xr o.c) p.w bits.isNone els
  let ap ← prepareAppend p w (some o.a) r.2
  let at_ := fun e => assocGet r.1 e (.value 0)
  update (fun s => s.modLive (fun st =>
    let st' := writeRows p p.grp pred o.a (fun _ e => (at_ e).val) st
    match bits with
    | some m => writeMask p 0 m (fun e => (at_ e).isFault) st'
    | none => st'))
  doAppend p ap
  finishVector 4

/-- R228. -/
def execVxlat (o : VVX) (s : State) : Out := run (vxlatOp (eVVX 0x33#6 0#5 o) o 0 (some o.m)) s

/-- R228. -/
def execVxlatf (o : VVX) (s : State) : Out := run (vxlatOp (eVVX 0x33#6 1#5 o) o o.m none) s

/-! ## Block commands (R230 to R235) -/

/-- A BLK instruction: BPOOL, its issue-time checks, then its acceptance, behind a reclamation that is not done (R231, R240). -/
def blkOp {α : Type} (w : BitVec 32) (checks : M α) (body : α → M Unit) (s : State) : Out :=
  engineOp w (do
    let ok ← read (fun s => poolValid s.part)
    check ok .bpool 0
    let x ← checks
    enter .blk (ofObjects .blk (do
      let busy ← read (fun s => s.part.reclaim.isSome)
      if busy then queueUp .blk .reclaim else body x))) s

/-- A command of the issuing hart that the block engine accepts now. -/
def State.blkIssuer (s : State) : Issuer := s.issuer .blk (s.hart.ordinal .blk)

/-- UNCOR at the first of the first n entries that cannot be read (R361; DEDUCED, log entry 54), once all that lie on another device have
come. -/
def checkMetas (n : Nat) : M Unit := do
  let s ← get
  awaitPiece (missingMeta s n)
  match badMeta s n with
  | some id => trap .uncor (word (metaVa s.part id))
  | none => pure ()

/-- UNCOR at an entry that cannot be read (R361; DEDUCED, log entry 54). -/
def checkMeta (id : Nat) : M Unit := do
  let s ← get
  if id < poolBlocks s.part then do
    awaitPiece (metaMissing s id)
    check (!metaDamaged s id) .uncor (word (metaVa s.part id))
  else pure ()

/-- The lowest FREE id, or BEMPTY (R232). -/
def takeFree : M Nat := do
  let n ← read searched
  checkMetas n
  let n? ← read lowestFree
  match n? with
  | none => trap .bempty 0
  | some n => pure n

/-- The metadata of an allocated id, or BID (R231). -/
def needBlock (id : Word) : M Meta := do
  checkMeta id.toNat
  let s ← get
  let m := metaOf s id.toNat
  check (decide (id.toNat < poolBlocks s.part) && m.st != 0) .bid id
  pure m

/-- BALLOC: the lowest FREE id with count 1 in a state (R232). -/
def balloc (a : XReg) (st : Nat) : M Unit := do
  let n ← takeFree
  update (fun s => s.setMeta s.blkIssuer n ⟨1, st, false, 0⟩)
  takeAndAnswer .blk a (word n)

/-- R232. -/
def execBalloc (o : R2) (s : State) : Out :=
  blkOp (eR2 0x32#6 0#10 o) (pure ()) (fun _ => balloc o.a (if (s.xr o.b).getLsbD 0 then 2 else 1)) s

/-- R232: with bit 0 of xB set. -/
def execBallocFar (o : R2) (s : State) : Out := blkOp (eR2 0x32#6 0#10 o) (pure ()) (fun _ => balloc o.a 2) s

/-- R233. -/
def execBref (o : Ord2) (s : State) : Out :=
  blkOp (eOrd2 0x32#6 1#8 o) (pure ()) (fun _ => do
    let id := s.xr o.b
    let m ← needBlock id
    check (m.count != 0) .bzero id
    check (m.count != 0xFFFFFFFF) .brefovf id
    update (fun s => s.setMeta s.blkIssuer id.toNat { m with count := m.count + 1 })
    takeAndAnswer .blk o.a (word (m.count + 1))) s

/-- A block with one reference fewer; at 0 it retires with a stamp (R233). -/
def Meta.drop (epoch : Word) (m : Meta) : Meta :=
  if m.count = 1 then { m with count := 0, ret := true, stamp := epoch.toNat } else { m with count := m.count - 1 }

/-- R233. -/
def execBfree (o : Ord2) (s : State) : Out :=
  blkOp (eOrd2 0x32#6 2#8 o) (pure ()) (fun _ => do
    let id := s.xr o.b
    let m ← needBlock id
    check (m.count != 0) .bzero id
    update (fun s => s.setMeta s.blkIssuer id.toNat (m.drop s.part.epoch))
    takeAndAnswer .blk o.a (word (m.count - 1))) s

/-- The lowest announcement among the partition's harts (R235, R240). -/
def lowestAnnounce (s : State) : Option Nat :=
  ((s.allHarts.filter (fun h => decide (h.pid = s.part.cfg.pid) && h.isLive)).filterMap (fun h => h.announce.map BitVec.toNat)).min?

/-- R235. -/
def execBstat (o : R3) (s : State) : Out :=
  blkOp (eR3 0x32#6 8#10 o) (pure ()) (fun _ => do
    let t ← get
    let id := s.xr o.b
    let sel := s.xr o.c
    check (sel != 0 || decide (id.toNat < poolBlocks t.part)) .bid id
    let n := poolBlocks t.part
    if sel = 0 then checkMeta id.toNat else if sel = 1 ∨ sel = 2 then checkMetas n else pure ()
    let v : Word :=
      if sel = 0 then
        let m := metaOf t id.toNat
        word (m.count + m.st * 2 ^ 32 + (if m.ret then 2 ^ 40 else 0))
      else if sel = 1 then word (countFrom (fun i => decide ((metaOf t i).st = 0)) n 0 0)
      else if sel = 2 then word (countFrom (fun i => (metaOf t i).retiring) n 0 0)
      else if sel = 3 then ((lowestAnnounce t).map word).getD minusOne
      else minusOne
    takeAndAnswer .blk o.a v) s

/-! ## The engine's own reads and writes after acceptance -/

/-- How the work of an engine is cut short: by a fault with its cause, and then what is done stays done; by bytes of another
device that have not come, and then the work starts again with them (R333; log entry 16); or by a block whose promotion runs, and then
the command is accepted after it (R8; log entry 39). -/
inductive EStop where
  | status (c : BitVec 8)
  | await (key n : Nat)
  | promoting
  deriving DecidableEq, Repr

/-- The work of an engine after acceptance. What has come from other devices for it lies with the issuing hart. -/
abbrev E := EStateM EStop State

def failWith {α : Type} (c : Cause) : E α := throw (.status c.code)

def enginePlace (by_ : Issuer) (k : Kind) (a : Nat) : E Loc := fun s =>
  match engineXlate s by_ k (word a) with
  | .ok loc => .ok loc s
  | .error (.remote key n) => .error (.await key n) s
  | .error e => .error (.status e.status) s

/-- The bytes of a place for an engine. -/
def engineBytes (loc : Loc) (n : Nat) : E (List Byte) := fun s =>
  match fetchBytes loc n (fun _ => .trap .uncor 0 0) s with
  | .ok bs t => .ok bs t
  | .error (.remote key m) t => .error (.await key m) t
  | .error _ t => .error (.status Cause.uncor.code) t

def engineLoadSpan (by_ : Issuer) : List (Nat × Nat) → E (List Byte)
  | [] => pure []
  | (a, n) :: rest => do
    let loc ← enginePlace by_ .load a
    let bs ← engineBytes loc n
    let more ← engineLoadSpan by_ rest
    pure (bs ++ more)

def engineLoad (by_ : Issuer) (a n : Nat) : E (List Byte) := engineLoadSpan by_ (spanOf a n)

def enginePut (by_ : Issuer) : List (Nat × Nat) → List Byte → E Unit
  | [], _ => pure ()
  | (a, n) :: rest, bs => do
    let loc ← enginePlace by_ .store a
    modify (fun s => s.engineStore by_ none loc (bs.take n))
    enginePut by_ rest (bs.drop n)

def engineSave (by_ : Issuer) (a : Nat) (bs : List Byte) : E Unit := enginePut by_ (spanOf a bs.length) bs

/-- A block's bytes copied to another block through the partition's root, 64 bytes at a time, ascending (R234)
(DEDUCED, log entry 39). -/
def copyBlock (by_ : Issuer) (src dst : Nat) : E Unit := do
  let s ← get
  let b := poolIssuer s.part by_
  (List.range (2 ^ poolLog s.part / 64)).forM (fun i => do
    let bs ← engineLoad b (blockVa s.part src + 64 * i) 64
    engineSave b (blockVa s.part dst + 64 * i) bs)

/-- The end of a command with a word: the word, and the entry of its status (R65, R236, R364). payload: the command that has written the
bytes which the word publishes. -/
def completeCommand (by_ payload : Issuer) (epoch recVa cword cval : Word) (status : BitVec 8) (s : State) : State :=
  finishCommand
    { Completion.of by_ cword (if status = 0 then cval else 0x8000000000000000 ||| status.setWidth 64) recVa status none with
      payload := payload, epoch := some epoch } s

/-! ## BCOW (R234) -/

/-- The work of an engine for a command that is being accepted: its status. What it lacks of another device's bytes the hart waits for
before the acceptance (R333; log entry 16). -/
def statusOf (m : E Unit) : M (BitVec 8) := fun s =>
  match m s with
  | .ok _ t => .ok 0 t
  | .error (.status c) t => .ok c t
  | .error (.await k n) _ => .error (.remote k n) s
  | .error .promoting t => .ok Cause.page.code t

/-- R234: the copy is made at acceptance, so that what it copies depends on the order of acceptance alone (R8), and the hart issues nothing
until it has stopped (log entry 39). -/
def execBcow (o : R2) (s : State) : Out :=
  blkOp (eR2 0x32#6 3#10 o) (pure ()) (fun _ => do
    let id := s.xr o.b
    let m ← needBlock id
    check (m.st != 2) .bid id
    check (m.count != 0) .bzero id
    if m.st = 3 then queueUp .blk .promotion
    else do
      check (m.st != 4) .bdamage id
      if m.count = 1 then takeAndAnswer .blk o.a id
      else do
        let n ← takeFree
        update (fun s => (s.setMeta s.blkIssuer n ⟨1, 1, false, 0⟩).setMeta s.blkIssuer id.toNat { m with count := m.count - 1 })
        let b ← takeIn .blk
        let c ← statusOf (copyBlock b id.toNat n)
        update (fun s => if c = 0 then s else s.setMetaState b n 4)
        update (fun s => (s.finish o.a (word n)).modHart (fun h => { h with hold := some (.cow n b.ordinal s.part.epoch c) }))) s

/-- The end of the issuing hart's BCOW: its bytes are performed, and a fault of the copy is posted (R234). -/
def bcowDone (s : State) : State :=
  match s.hart.hold with
  | some (.cow dst ordinal _ c) =>
    let b := { s.issuer .blk ordinal with mode := .user, root := 0 }
    if owed s b then s
    else (if c = 0 then s else postEngine false 2 c b (word dst) 0 s).modHart (fun h => { h with hold := none })
  | _ => s

/-! ## Promotion (R236) -/

/-- One byte into a CRC-32C, reflected. -/
def crcByte (crc : BitVec 32) (b : Byte) : BitVec 32 :=
  (List.range 8).foldl (fun c _ => if c.getLsbD 0 then (c >>> 1) ^^^ 0x82F63B78 else c >>> 1) (crc ^^^ b.setWidth 32)

def crc32c (bs : List Byte) : BitVec 32 := bs.foldl crcByte (BitVec.allOnes 32) ^^^ BitVec.allOnes 32

/-- A promotion record: its alignment, its bytes, its limits (R231, R236). -/
def promotionRecord (a : Word) : M Nat := do
  let r ← blockRecord a 32
  check (bitsOf r 0 6 == 0 && bitsOf r 96 32 == 0 && bitsOf r 128 3 == 0) .bpool 0
  pure r

/-- R236: a RESIDENT block completes at once, and a PROMOTING one with the promotion that runs (R226). -/
def execBpromo (o : RBC) (s : State) : Out :=
  let va := s.xr o.c
  blkOp (eRBC 0x32#6 4#10 o) (promotionRecord va) (fun r => do
    let id := s.xr o.b
    let m ← needBlock id
    check (m.count != 0) .bzero id
    check (m.st != 4) .bdamage id
    let b ← takeIn .blk
    let pr : Promotion :=
      { id := id.toNat, by_ := b, epoch := s.part.epoch, asked := none, reply := [], refused := []
        recVa := va, far := dwordAt r 0, crc := BitVec.ofNat 32 (bitsOf r 64 32), cword := dwordAt r 16
        cval := dwordAt r 24 }
    update (fun s =>
      let s :=
        if m.st = 1 then completeCommand b b pr.epoch va pr.cword pr.cval 0 s
        else
          (if m.st = 2 then s.setMeta b id.toNat { m with st := 3 } else s).modPart
            (fun p => { p with promotions := p.promotions ++ [pr] })
      s.complete)) s

/-- A wait for a table on another device under which a metadata entry lies (R333). -/
def metaReady (id : Nat) : E Unit := fun s =>
  match metaPlace s .store id with
  | .error (.remote k n) => .error (.await k n) s
  | _ => .ok () s

/-- The contents of a promotion brought into its block; true where the CRC agrees. All is read before anything is written, so a read that
fails part-way leaves the block as it was: the manual leaves open what it then holds: DESIGN CHOICE (log entry 39). -/
def promote (pr : Promotion) : E Bool := do
  metaReady pr.id
  let s ← get
  let bs ← engineLoad pr.by_ pr.far.toNat (2 ^ poolLog s.part)
  engineSave (poolIssuer s.part pr.by_) (blockVa s.part pr.id) bs
  pure (crc32c bs == pr.crc)

/-- Changes the first promotion of a block, the one that runs. -/
def modPromotion (id : Nat) (f : Promotion → Promotion) : List Promotion → List Promotion
  | [] => []
  | p :: ps => if p.id = id then f p :: ps else p :: modPromotion id f ps

/-- A promotion reads another device's memory, one piece at a time (R333). -/
def askPromotion (pr : Promotion) (k n : Nat) (s : State) : State :=
  if pr.asked.isSome then s
  else
    let num := s.dev.nextReq
    (s.request (.promotion pr.id) pr.by_.die k 1 n []).modPart (fun p =>
      { p with promotions := modPromotion pr.id (fun q => { q with asked := some num }) p.promotions })

/-- The commands of a promotion that has ended with a status; it ran for the command of pr. -/
def endPromotion (pr : Promotion) (status : BitVec 8) (s : State) : State :=
  let all := s.part.promotions.filter (fun p => decide (p.id = pr.id))
  let s := s.modPart (fun p => { p with promotions := p.promotions.filter (fun p => decide (p.id ≠ pr.id)) })
  wakeAll .promotion (all.foldl (fun s p => completeCommand p.by_ pr.by_ p.epoch p.recVa p.cword p.cval status s) s)

/-- The end of the promotion of a block, for every command that waits for it (DEDUCED, log entry 39). Only the state byte of its entry is
written: an entry that has become unreadable stays so, and the block commands that read it report it (R361; log entry 54). -/
def promotionDone (id : Nat) (s : State) : State :=
  match s.part.promotions.find? (fun p => decide (p.id = id)) with
  | none => s
  | some pr =>
    let ends := fun (st : Nat) (status : BitVec 8) (t : State) =>
      endPromotion pr status ((t.setMetaState pr.by_ id st).withReply s.hart.reply s.hart.refused)
    match promote pr (s.withReply pr.reply pr.refused) with
    | .ok true t => ends 1 0 t
    | .ok false t => ends 4 Cause.bdamage.code t
    | .error (.await k n) _ => askPromotion pr k n s
    | .error (.status c) t => ends 2 c t
    | .error .promoting t => t

/-! ## Compaction (R237) -/

def compactionRecord (a : Word) : M Nat := do
  let r ← blockRecord a 64
  let d := bitsOf r 128 64
  let strideOk := decide (1 ≤ bitsOf d 0 32 ∧ bitsOf d 0 32 ≤ 65536)
  check (bitsOf r 0 2 == 0 && strideOk && decide (bitsOf d 32 8 < bitsOf d 40 8) && decide (bitsOf d 40 8 ≤ 4) && bitsOf d 48 16 == 0 &&
    decide (bitsOf r 192 32 ≤ bitsOf d 0 32) && bitsOf r 224 32 == 0 && bitsOf r 256 3 == 0 && bitsOf r 384 128 == 0) .bpool 0
  pure r

def Compaction.entryVa (c : Compaction) (j : Nat) : Nat := (c.table + word (4 * j)).toNat

def Compaction.entry (c : Compaction) (j : Nat) : E Nat := do
  let bs ← engineLoad c.by_ (c.entryVa j) 4
  pure (leNat bs)

def Compaction.setEntry (c : Compaction) (j id : Nat) : E Unit := engineSave c.by_ (c.entryVa j) (leBytes 4 id)

/-- The metadata of an id, or UNCOR (R361). -/
def engineMeta (id : Nat) : E Meta := do
  let s ← get
  if poolBlocks s.part ≤ id then pure Meta.free
  else match metaRead s id with
    | .entry m => pure m
    | .damaged => failWith .uncor
    | .missing k n => throw (.await k n)

/-- A resident block of the table, or the cause why not. With own it is to be the sequence's own, and a retiring one fails, as in BCOW;
a retiring block that is only read has its address (R226). One whose promotion runs is waited for, as in BCOW (R8; DEDUCED, log entry
39). -/
def residentBlock (own : Bool) (id : Nat) : E Meta := do
  let s ← get
  let m ← engineMeta id
  if poolBlocks s.part ≤ id ∨ m.st = 0 ∨ m.st = 2 then failWith .page
  else if own && m.count == 0 then failWith .bzero
  else if m.st = 3 then throw .promoting
  else if m.st = 4 then failWith .bdamage
  else pure m

/-- The block at a table index made private, as BCOW does; the entry is rewritten (R237). A fault of the copy is the command's status, and
its entry is the command's alone: the one of R234, with the new block, is not posted beside it: DESIGN CHOICE (log entry 39). -/
def Compaction.makePrivate (c : Compaction) (j : Nat) : E Nat := do
  let id ← c.entry j
  let m ← residentBlock true id
  if m.count = 1 then pure id
  else do
    let s ← get
    match missingMeta s (searched s), badMeta s (searched s), lowestFree s with
    | some p, _, _ => throw (.await p.1 p.2)
    | none, some _, _ => failWith .uncor
    | none, none, none => failWith .bempty
    | none, none, some n => do
      set ((s.setMeta c.by_ n ⟨1, 1, false, 0⟩).setMeta c.by_ id { m with count := m.count - 1 })
      tryCatch (copyBlock c.by_ id n) (fun e => do
        modify (fun s => s.setMetaState c.by_ n 4)
        throw e)
      c.setEntry j n
      pure n

/-- One entry moved into its place (R237). -/
def Compaction.moveOne (c : Compaction) (k : Nat) : E Unit := do
  let s ← get
  let p := s.part
  let at_ := fun (id pos : Nat) => blockVa p id + pos % p.tpb.toNat * p.tokb.toNat
  let dst := c.p0 + k
  let src := c.p0 + c.chain * c.stride + k
  let d ← c.makePrivate (dst / p.tpb.toNat)
  let sid ← c.entry (src / p.tpb.toNat)
  let _ ← residentBlock false sid
  let bs ← engineLoad (poolIssuer p c.by_) (at_ sid src) p.tokb.toNat
  engineSave (poolIssuer p c.by_) (at_ d dst) bs

/-- One index withdrawn (R237). -/
def Compaction.withdraw (c : Compaction) (j : Nat) : E Unit := do
  let id ← c.entry j
  if id = 0xFFFFFFFF then pure ()
  else do
    let s ← get
    let m ← engineMeta id
    if poolBlocks s.part ≤ id ∨ m.st = 0 then failWith .bid
    else if m.count = 0 then failWith .bzero
    else do
      set (s.setMeta c.by_ id (m.drop s.part.epoch))
      c.setEntry j 0xFFFFFFFF

def ceilDiv (a b : Nat) : Nat := (a + b - 1) / b

/-- The work of a compaction, chain by chain (R237; DEDUCED, log entry 39). -/
def Compaction.work (c : Compaction) : E Unit := do
  if c.chain = 0 then pure () else (List.range c.accepted).forM c.moveOne
  let s ← get
  let t := s.part.tpb.toNat
  let from_ := ceilDiv (c.p0 + c.accepted) t
  ((List.range (ceilDiv (c.p0 + c.chains * c.stride) t - from_)).map (· + from_)).forM c.withdraw

/-- A compaction accepted with what its work came to: the completion word follows. -/
def Compaction.accept (c : Compaction) : M Unit := do
  let _ ← takeIn .blk
  update (fun s => (s.modPart (fun p => { p with compactions := p.compactions ++ [c] })).complete)

/-- The work of a compaction, done at its acceptance: what later block commands find depends on the order of acceptance alone (R8). It
is accepted when the bytes of other devices have come (R333), and after a promotion that runs of a block that it needs. -/
def Compaction.run (c : Compaction) : M Unit := fun s =>
  match c.work s with
  | .ok _ t => c.accept t
  | .error (.status e) t => ({ c with status := e } : Compaction).accept t
  | .error (.await k n) _ => .error (.remote k n) s
  | .error .promoting _ => queueUp .blk .promotion s

/-- R237: the completion word follows. -/
def execBcompact (b : XReg) (s : State) : Out :=
  let va := s.xr b
  blkOp (eBx 0x32#6 5#10 b) (compactionRecord va) (fun r => do
    let t ← get
    let d := bitsOf r 128 64
    Compaction.run
      { by_ := t.blkIssuer, epoch := t.part.epoch, recVa := va, table := dwordAt r 0, p0 := bitsOf r 64 64, stride := bitsOf d 0 32
        chain := bitsOf d 32 8, chains := bitsOf d 40 8, accepted := bitsOf r 192 32, cword := dwordAt r 32, cval := dwordAt r 40
        status := 0 }) s

/-- The oldest compaction of the partition completes (R237). -/
def compactionDone (s : State) : State :=
  match s.part.compactions with
  | [] => s
  | c :: rest =>
    completeCommand c.by_ c.by_ c.epoch c.recVa c.cword c.cval c.status (s.modPart (fun p => { p with compactions := rest }))

/-! ## Epochs (R238 to R240) -/

/-- EPRD (R239). -/
def eprd (w : BitVec 32) (a : XReg) (withdraw : Bool) (s : State) : Out :=
  blkOp w (pure ()) (fun _ => do
    let e ← read (fun s => s.part.epoch)
    update (fun s => s.modHart (fun h => { h with announce := if withdraw then none else some e }))
    takeAndAnswer .blk a e) s

/-- R239. -/
def execEprd (o : R2) (s : State) : Out := eprd (eR2 0x32#6 7#10 o) o.a ((s.xr o.b).getLsbD 0) s

/-- R239: with bit 0 of xB set. -/
def execEprdWithdraw (o : R2) (s : State) : Out := eprd (eR2 0x32#6 7#10 o) o.a true s

/-- Whether the engines have completed every command that they accepted while EPOCH was below its present value (R238)
(DEDUCED, log entry 39). -/
def enginesPassed (s : State) : Bool :=
  let later := fun e : Word => e == s.part.epoch
  s.part.copies.all (fun c => c.state != .running || later c.epoch) && s.part.promotions.all (fun p => later p.epoch) &&
    s.part.compactions.all (fun c => later c.epoch) && s.part.completions.all (fun c => c.epoch.all later) &&
    s.allHarts.all (fun h => h.pid != s.part.cfg.pid || (match h.hold with
      | some (.cow _ _ e _) => later e
      | _ => true))

/-- The selected blocks, by the keys of their entries, become FREE, and the commands behind them go on (R240). -/
def reclaimNow (s : State) : State :=
  let s := match s.part.reclaim with
    | some (b, keys) => keys.foldl (fun (s : State) k => s.engineStore b none ⟨k, none⟩ Meta.free.bytes) s
    | none => s
  wakeAll .reclaim (s.modPart (fun p => { p with reclaim := none }))

/-- R240. -/
def execEpadv (a : XReg) (s : State) : Out :=
  blkOp (eAx 0x32#6 6#10 a) (pure ()) (fun _ => do
    let t ← get
    let e := t.part.epoch
    if e = minusOne then takeAndAnswer .blk a minusOne
    else do
      checkMetas (poolBlocks t.part)
      let low := lowestAnnounce t
      let pick := fun id =>
        let m := metaOf t id
        m.ret && m.st != 3 && (match low with
          | some l => decide (m.stamp < l)
          | none => true)
      let r := (List.range (poolBlocks t.part)).filter pick
      let keys := r.filterMap (fun id => (metaLoc t .store id).map (·.key))
      update (fun s =>
        let s := s.modPart (fun p => { p with epoch := e + 1, reclaim := some (t.blkIssuer, keys) })
        if enginesPassed s then reclaimNow s else s)
      takeAndAnswer .blk a (word r.length)) s

end Sys2Proof.Machine
end

