-- ==== Sys2Proof/Machine/LoadStore.lean ====
section
/-! DEFINITION. Scalar loads and stores (R114, R115), branches and jumps (R116). -/

namespace Sys2Proof.Machine

/-- The address of a load or store: xB + sext(offset). -/
def baseOff (s : State) (b : XReg) (off : Word) : Word := s.xr b + off

/-- A load of n bytes into xA, extended (R114). -/
def loadOp (n : Nat) (ext : Nat → Word) (a : XReg) (addr : Word) (len : Nat) (s : State) : Out :=
  run (do
    let v ← loadScalar addr n
    update (fun s => s.put a (ext v) len)) s

def signBytes (n : Nat) (v : Nat) : Word := (BitVec.ofNat (8 * n) v).signExtend 64

/-- A store of the low n bytes of xC (R114). -/
def storeOp (n : Nat) (o : St) (s : State) : Out :=
  run (storeScalar (baseOff s o.b (o.imm.signExtend 64)) (s.xr o.c) n 4) s

/-- A conditional branch (R116). -/
def branchOp (cond : Word → Word → Bool) (o : Br) (s : State) : Out :=
  .next (if cond (s.xr o.b) (s.xr o.c) then s.goto (s.pc + o.off.signExtend 64 * 2) else s.advance 4)

/-- R114. -/
def execLdb (o : I15) (s : State) : Out := loadOp 1 (signBytes 1) o.a (baseOff s o.b (o.imm.signExtend 64)) 4 s

/-- R114. -/
def execLdh (o : I15) (s : State) : Out := loadOp 2 (signBytes 2) o.a (baseOff s o.b (o.imm.signExtend 64)) 4 s

/-- R114. -/
def execLdw (o : I15) (s : State) : Out := loadOp 4 (signBytes 4) o.a (baseOff s o.b (o.imm.signExtend 64)) 4 s

/-- R114. -/
def execLdd (o : I15) (s : State) : Out := loadOp 8 (word) o.a (baseOff s o.b (o.imm.signExtend 64)) 4 s

/-- R114. -/
def execLdbn (o : I15) (s : State) : Out := loadOp 1 (word) o.a (baseOff s o.b (o.imm.signExtend 64)) 4 s

/-- R114. -/
def execLdhn (o : I15) (s : State) : Out := loadOp 2 (word) o.a (baseOff s o.b (o.imm.signExtend 64)) 4 s

/-- R114. -/
def execLdwn (o : I15) (s : State) : Out := loadOp 4 (word) o.a (baseOff s o.b (o.imm.signExtend 64)) 4 s

/-- R114. -/
def execStb (o : St) (s : State) : Out := storeOp 1 o s

/-- R114. -/
def execSth (o : St) (s : State) : Out := storeOp 2 o s

/-- R114. -/
def execStw (o : St) (s : State) : Out := storeOp 4 o s

/-- R114. -/
def execStd (o : St) (s : State) : Out := storeOp 8 o s

/-- R116. -/
def execBeq (o : Br) (s : State) : Out := branchOp (fun b c => b == c) o s

/-- R116. -/
def execBne (o : Br) (s : State) : Out := branchOp (fun b c => b != c) o s

/-- R116. -/
def execBlt (o : Br) (s : State) : Out := branchOp (fun b c => b.slt c) o s

/-- R116. -/
def execBge (o : Br) (s : State) : Out := branchOp (fun b c => !b.slt c) o s

/-- R116. -/
def execBltn (o : Br) (s : State) : Out := branchOp (fun b c => b.ult c) o s

/-- R116. -/
def execBgen (o : Br) (s : State) : Out := branchOp (fun b c => !b.ult c) o s

/-- R116: the link is the address after the jump. -/
def execJal (o : J20) (s : State) : Out := .next ((s.setX o.a (s.pc + 4)).goto (s.pc + o.off.signExtend 64 * 2))

/-- R116: xB is read before xA is written; an odd target traps. -/
def execJalr (o : I15) (s : State) : Out :=
  let t := s.xr o.b + o.imm.signExtend 64
  run (do
    check (!t.getLsbD 0) .align t
    update (fun s => (s.setX o.a (s.pc + 4)).goto t)) s

end Sys2Proof.Machine
end

