-- ==== Sys2Proof/Machine/Vint.lean ====
section
/-! DEFINITION. Vector integer arithmetic (R184), and the shape of an element-wise instruction (R182). -/

namespace Sys2Proof.Machine

/-- An element-wise instruction of len bytes: predicate m, destination a, and the result of element (row, e) read from the strip
(R182). -/
def elementwise (u : VUse) (len : Nat) (m : MReg) (a : VReg) (f : Shp → Strip → Nat → Nat → Nat) (s : State) : Out :=
  run (vectorOp { u with dst := some a } len (onStrip (fun p st => writeRows p p.grp m a (f p st) st))) s

/-- The groups of operands that follow SHAPE. -/
def sameGroups (vs : List VReg) (p : Shp) : List (VReg × Nat) := vs.map (fun v => (v, p.q))

/-- A result from the destination, B and C elements. -/
abbrev ElemOp := Shp → Nat → Nat → Nat → Nat

/-- Three vector operands, of which an accumulating member reads the destination too. -/
def opVVV (admits : BitVec 6 → Bool) (f : ElemOp) (w : BitVec 32) (len : Nat) (m : MReg) (a b c : VReg) (s : State) (acc : Bool := false) : Out :=
  elementwise { word := w, admits := admits, groups := sameGroups [a, b, c], pops := [b, c], reads := if acc then [a] else [] } len m a
    (fun p st r e => f p (getElem st p.grp a r e) (getElem st p.grp b r e) (getElem st p.grp c r e)) s

/-- A scalar C: its low bits in every element (R183). -/
def opVVX (admits : BitVec 6 → Bool) (f : ElemOp) (w : BitVec 32) (o : VVX) (s : State) (acc : Bool := false) : Out :=
  elementwise { word := w, admits := admits, groups := sameGroups [o.a, o.b], pops := [o.b], reads := if acc then [o.a] else [] } 4
    o.m o.a
    (fun p st r e => f p (getElem st p.grp o.a r e) (getElem st p.grp o.b r e) (bitsOf (s.xr o.c).toNat 0 p.w)) s

/-- One vector source. -/
def opVV (admits : BitVec 6 → Bool) (f : Shp → Nat → Nat) (w : BitVec 32) (len : Nat) (m : MReg) (a b : VReg) (s : State) : Out :=
  elementwise { word := w, admits := admits, groups := sameGroups [a, b], pops := [b] } len m a
    (fun p st r e => f p (getElem st p.grp b r e)) s

/-! ## The element results of R184 -/

/-- The format of w-bit integers with a sign or without. -/
def clampW (signed : Bool) (w : Nat) (n : Int) : Nat :=
  if signed then lowBits w (clampInt (-(2 ^ (w - 1) : Nat)) ((2 ^ (w - 1) : Nat) - 1) n)
  else lowBits w (clampInt 0 ((2 ^ w : Nat) - 1) n)

def iAdd : ElemOp := fun p _ b c => (b + c) % 2 ^ p.w
def iSub : ElemOp := fun p _ b c => lowBits p.w ((b : Int) - c)
def iMul : ElemOp := fun p _ b c => (b * c) % 2 ^ p.w
def iMulh : ElemOp := fun p _ b c => lowBits p.w (signedOf p.w b * signedOf p.w c / (2 ^ p.w : Nat))
def iMulhn : ElemOp := fun p _ b c => b * c / 2 ^ p.w % 2 ^ p.w
def iDiv : ElemOp := fun p _ b c =>
  if c = 0 then 2 ^ p.w - 1 else lowBits p.w ((signedOf p.w b).tdiv (signedOf p.w c))
def iDivn : ElemOp := fun p _ b c => if c = 0 then 2 ^ p.w - 1 else b / c
def iRem : ElemOp := fun p _ b c => if c = 0 then b else lowBits p.w ((signedOf p.w b).tmod (signedOf p.w c))
def iRemn : ElemOp := fun _ _ b c => if c = 0 then b else b % c
def iMin : ElemOp := fun p _ b c => if signedOf p.w c < signedOf p.w b then c else b
def iMax : ElemOp := fun p _ b c => if signedOf p.w b < signedOf p.w c then c else b
def iMinn : ElemOp := fun _ _ b c => if c < b then c else b
def iMaxn : ElemOp := fun _ _ b c => if b < c then c else b
def iAnd : ElemOp := fun _ _ b c => b &&& c
def iOr : ElemOp := fun _ _ b c => b ||| c
def iXor : ElemOp := fun _ _ b c => b ^^^ c
def iShl : ElemOp := fun p _ b c => b <<< (c % p.w) % 2 ^ p.w
def iShr : ElemOp := fun p _ b c => b >>> (c % p.w)
def iSra : ElemOp := fun p _ b c => lowBits p.w (signedOf p.w b / (2 ^ (c % p.w) : Nat))
def iSadd : ElemOp := fun p _ b c => clampW true p.w (signedOf p.w b + signedOf p.w c)
def iSaddn : ElemOp := fun p _ b c => clampW false p.w ((b : Int) + c)
def iSsub : ElemOp := fun p _ b c => clampW true p.w (signedOf p.w b - signedOf p.w c)
def iSsubn : ElemOp := fun p _ b c => clampW false p.w ((b : Int) - c)
/-- The difference read by the format (R184). -/
def iAbsd : ElemOp := fun p _ b c =>
  if isSignedInt p.ew then (signedOf p.w b - signedOf p.w c).natAbs % 2 ^ p.w else ((b : Int) - c).natAbs % 2 ^ p.w
def iMacc : ElemOp := fun p a b c => (a + b * c) % 2 ^ p.w

/-! ## The members -/

/-- R184. -/
def execVadd (o : VVV) (s : State) : Out := opVVV isInt iAdd (eVVV 0x24#6 0#5 o) 4 o.m o.a o.b o.c s

/-- R184. -/
def execVsub (o : VVV) (s : State) : Out := opVVV isInt iSub (eVVV 0x24#6 1#5 o) 4 o.m o.a o.b o.c s

/-- R184. -/
def execVmul (o : VVV) (s : State) : Out := opVVV isInt iMul (eVVV 0x24#6 3#5 o) 4 o.m o.a o.b o.c s

/-- R184. -/
def execVmulh (o : VVV) (s : State) : Out := opVVV isInt iMulh (eVVV 0x24#6 4#5 o) 4 o.m o.a o.b o.c s

/-- R184. -/
def execVmulhn (o : VVV) (s : State) : Out := opVVV isInt iMulhn (eVVV 0x24#6 5#5 o) 4 o.m o.a o.b o.c s

/-- R184. -/
def execVdiv (o : VVV) (s : State) : Out := opVVV isInt iDiv (eVVV 0x24#6 6#5 o) 4 o.m o.a o.b o.c s

/-- R184. -/
def execVdivn (o : VVV) (s : State) : Out := opVVV isInt iDivn (eVVV 0x24#6 7#5 o) 4 o.m o.a o.b o.c s

/-- R184. -/
def execVrem (o : VVV) (s : State) : Out := opVVV isInt iRem (eVVV 0x24#6 8#5 o) 4 o.m o.a o.b o.c s

/-- R184. -/
def execVremn (o : VVV) (s : State) : Out := opVVV isInt iRemn (eVVV 0x24#6 9#5 o) 4 o.m o.a o.b o.c s

/-- R184. -/
def execVmin (o : VVV) (s : State) : Out := opVVV isInt iMin (eVVV 0x24#6 10#5 o) 4 o.m o.a o.b o.c s

/-- R184. -/
def execVmax (o : VVV) (s : State) : Out := opVVV isInt iMax (eVVV 0x24#6 11#5 o) 4 o.m o.a o.b o.c s

/-- R184. -/
def execVminn (o : VVV) (s : State) : Out := opVVV isInt iMinn (eVVV 0x24#6 12#5 o) 4 o.m o.a o.b o.c s

/-- R184. -/
def execVmaxn (o : VVV) (s : State) : Out := opVVV isInt iMaxn (eVVV 0x24#6 13#5 o) 4 o.m o.a o.b o.c s

/-- R184. -/
def execVand (o : VVV) (s : State) : Out := opVVV isInt iAnd (eVVV 0x24#6 14#5 o) 4 o.m o.a o.b o.c s

/-- R184. -/
def execVor (o : VVV) (s : State) : Out := opVVV isInt iOr (eVVV 0x24#6 15#5 o) 4 o.m o.a o.b o.c s

/-- R184. -/
def execVxor (o : VVV) (s : State) : Out := opVVV isInt iXor (eVVV 0x24#6 16#5 o) 4 o.m o.a o.b o.c s

/-- R184. -/
def execVshl (o : VVV) (s : State) : Out := opVVV isInt iShl (eVVV 0x24#6 17#5 o) 4 o.m o.a o.b o.c s

/-- R184. -/
def execVshr (o : VVV) (s : State) : Out := opVVV isInt iShr (eVVV 0x24#6 18#5 o) 4 o.m o.a o.b o.c s

/-- R184. -/
def execVsra (o : VVV) (s : State) : Out := opVVV isInt iSra (eVVV 0x24#6 19#5 o) 4 o.m o.a o.b o.c s

/-- R184. -/
def execVsadd (o : VVV) (s : State) : Out := opVVV isInt iSadd (eVVV 0x24#6 20#5 o) 4 o.m o.a o.b o.c s

/-- R184. -/
def execVsaddn (o : VVV) (s : State) : Out := opVVV isInt iSaddn (eVVV 0x24#6 21#5 o) 4 o.m o.a o.b o.c s

/-- R184. -/
def execVssub (o : VVV) (s : State) : Out := opVVV isInt iSsub (eVVV 0x24#6 22#5 o) 4 o.m o.a o.b o.c s

/-- R184. -/
def execVssubn (o : VVV) (s : State) : Out := opVVV isInt iSsubn (eVVV 0x24#6 23#5 o) 4 o.m o.a o.b o.c s

/-- R184. -/
def execVabsd (o : VVV) (s : State) : Out := opVVV isInt iAbsd (eVVV 0x24#6 24#5 o) 4 o.m o.a o.b o.c s

/-- R184. -/
def execVmacc (o : VVV) (s : State) : Out := opVVV isInt iMacc (eVVV 0x24#6 25#5 o) 4 o.m o.a o.b o.c s true

/-- R183, R184. -/
def execVaddX (o : VVX) (s : State) : Out := opVVX isInt iAdd (eVVX 0x25#6 0#5 o) o s

/-- R183, R184. -/
def execVsubX (o : VVX) (s : State) : Out := opVVX isInt iSub (eVVX 0x25#6 1#5 o) o s

/-- R183, R184. -/
def execVmulX (o : VVX) (s : State) : Out := opVVX isInt iMul (eVVX 0x25#6 3#5 o) o s

/-- R183, R184. -/
def execVmulhX (o : VVX) (s : State) : Out := opVVX isInt iMulh (eVVX 0x25#6 4#5 o) o s

/-- R183, R184. -/
def execVmulhnX (o : VVX) (s : State) : Out := opVVX isInt iMulhn (eVVX 0x25#6 5#5 o) o s

/-- R183, R184. -/
def execVdivX (o : VVX) (s : State) : Out := opVVX isInt iDiv (eVVX 0x25#6 6#5 o) o s

/-- R183, R184. -/
def execVdivnX (o : VVX) (s : State) : Out := opVVX isInt iDivn (eVVX 0x25#6 7#5 o) o s

/-- R183, R184. -/
def execVremX (o : VVX) (s : State) : Out := opVVX isInt iRem (eVVX 0x25#6 8#5 o) o s

/-- R183, R184. -/
def execVremnX (o : VVX) (s : State) : Out := opVVX isInt iRemn (eVVX 0x25#6 9#5 o) o s

/-- R183, R184. -/
def execVminX (o : VVX) (s : State) : Out := opVVX isInt iMin (eVVX 0x25#6 10#5 o) o s

/-- R183, R184. -/
def execVmaxX (o : VVX) (s : State) : Out := opVVX isInt iMax (eVVX 0x25#6 11#5 o) o s

/-- R183, R184. -/
def execVminnX (o : VVX) (s : State) : Out := opVVX isInt iMinn (eVVX 0x25#6 12#5 o) o s

/-- R183, R184. -/
def execVmaxnX (o : VVX) (s : State) : Out := opVVX isInt iMaxn (eVVX 0x25#6 13#5 o) o s

/-- R183, R184. -/
def execVandX (o : VVX) (s : State) : Out := opVVX isInt iAnd (eVVX 0x25#6 14#5 o) o s

/-- R183, R184. -/
def execVorX (o : VVX) (s : State) : Out := opVVX isInt iOr (eVVX 0x25#6 15#5 o) o s

/-- R183, R184. -/
def execVxorX (o : VVX) (s : State) : Out := opVVX isInt iXor (eVVX 0x25#6 16#5 o) o s

/-- R183, R184. -/
def execVshlX (o : VVX) (s : State) : Out := opVVX isInt iShl (eVVX 0x25#6 17#5 o) o s

/-- R183, R184. -/
def execVshrX (o : VVX) (s : State) : Out := opVVX isInt iShr (eVVX 0x25#6 18#5 o) o s

/-- R183, R184. -/
def execVsraX (o : VVX) (s : State) : Out := opVVX isInt iSra (eVVX 0x25#6 19#5 o) o s

/-- R183, R184. -/
def execVsaddX (o : VVX) (s : State) : Out := opVVX isInt iSadd (eVVX 0x25#6 20#5 o) o s

/-- R183, R184. -/
def execVsaddnX (o : VVX) (s : State) : Out := opVVX isInt iSaddn (eVVX 0x25#6 21#5 o) o s

/-- R183, R184. -/
def execVssubX (o : VVX) (s : State) : Out := opVVX isInt iSsub (eVVX 0x25#6 22#5 o) o s

/-- R183, R184. -/
def execVssubnX (o : VVX) (s : State) : Out := opVVX isInt iSsubn (eVVX 0x25#6 23#5 o) o s

/-- R183, R184. -/
def execVabsdX (o : VVX) (s : State) : Out := opVVX isInt iAbsd (eVVX 0x25#6 24#5 o) o s

/-- R183, R184. -/
def execVmaccX (o : VVX) (s : State) : Out := opVVX isInt iMacc (eVVX 0x25#6 25#5 o) o s true

end Sys2Proof.Machine
end

