-- ==== Sys2Proof/Machine/Vflt.lean ====
section
/-! DEFINITION. Vector floating point (R185 to R188). Each result is the exact value rounded once. -/

namespace Sys2Proof.Machine

/-- The formats that R181 admits for the members that are not admitted in f64. -/
def isNarrowIeee (ew : BitVec 6) : Bool := isIeee ew && ew != 0x0B

/-- The value of an element. -/
def Shp.val (p : Shp) (x : Nat) : FVal := (fmtOf p.ew).value x

/-- Round in SHAPE.RND (R185). -/
def Shp.round (p : Shp) (v : FVal) : Nat := (fmtOf p.ew).conv p.rnd 0 false v

/-! ## The element results of R186 -/

def fxAdd : ElemOp := fun p _ b c => p.round (fAdd true p.rnd (p.val b) (p.val c))
def fxSub : ElemOp := fun p _ b c => p.round (fAdd true p.rnd (p.val b) (fNeg (p.val c)))
def fxMul : ElemOp := fun p _ b c => p.round (fMul (p.val b) (p.val c))
def fxDiv : ElemOp := fun p _ b c => p.round (fDiv (p.val b) (p.val c))
def fxMin : ElemOp := fun p _ b c => fMinBits (fmtOf p.ew) b c
def fxMax : ElemOp := fun p _ b c => fMaxBits (fmtOf p.ew) b c
/-- A NaN is written unchanged (R186). -/
def fxSgnj : ElemOp := fun p _ b c => if (p.val b).isNan then b else withSign p.w b (c.testBit (p.w - 1))
def fxSgnjn : ElemOp := fun p _ b c => if (p.val b).isNan then b else withSign p.w b (!c.testBit (p.w - 1))
def fxMa : ElemOp := fun p a b c => p.round (fAdd true p.rnd (p.val a) (fMul (p.val b) (p.val c)))
def fxMs : ElemOp := fun p a b c => p.round (fAdd true p.rnd (p.val a) (fNeg (fMul (p.val b) (p.val c))))
def fxNma : ElemOp := fun p a b c => p.round (fAdd true p.rnd (fNeg (p.val a)) (fNeg (fMul (p.val b) (p.val c))))

def fuSqrt : Shp → Nat → Nat := fun p b => p.round (fSqrt (p.val b))
def fuRsqrt : Shp → Nat → Nat := fun p b => p.round (fRsqrt (p.val b))
def fuRcp : Shp → Nat → Nat := fun p b => p.round (fRcp (p.val b))
def fuExp2 : Shp → Nat → Nat := fun p b => p.round (fExp2 (p.val b))
def fuLog2 : Shp → Nat → Nat := fun p b => p.round (fLog2 (p.val b))
def fuAbs : Shp → Nat → Nat := fun p b => withSign p.w b false
def fuNeg : Shp → Nat → Nat := fun p b => withSign p.w b (!b.testBit (p.w - 1))
def fuClass : Shp → Nat → Nat := fun p b => classCode (fmtOf p.ew) b

/-- b × 2^n (R186). The exponent is clamped to a range beyond which every result of every format is the same. -/
def fScale (p : Shp) (b : Nat) (n : Int) : Nat :=
  match p.val b with
  | .fin q s =>
    if q.isZero then b % 2 ^ p.w
    else p.round (.fin (q.scale (clampInt (-8192) 8192 n)) s)
  | v => p.round v

/-! ## The members -/

/-- R186. -/
def execVfadd (o : VVV) (s : State) : Out := opVVV isIeee fxAdd (eVVV 0x26#6 0#5 o) 4 o.m o.a o.b o.c s

/-- R186. -/
def execVfsub (o : VVV) (s : State) : Out := opVVV isIeee fxSub (eVVV 0x26#6 1#5 o) 4 o.m o.a o.b o.c s

/-- R186. -/
def execVfmul (o : VVV) (s : State) : Out := opVVV isIeee fxMul (eVVV 0x26#6 2#5 o) 4 o.m o.a o.b o.c s

/-- R186. -/
def execVfdiv (o : VVV) (s : State) : Out := opVVV isIeee fxDiv (eVVV 0x26#6 3#5 o) 4 o.m o.a o.b o.c s

/-- R186. -/
def execVfmin (o : VVV) (s : State) : Out := opVVV isIeee fxMin (eVVV 0x26#6 4#5 o) 4 o.m o.a o.b o.c s

/-- R186. -/
def execVfmax (o : VVV) (s : State) : Out := opVVV isIeee fxMax (eVVV 0x26#6 5#5 o) 4 o.m o.a o.b o.c s

/-- R186. -/
def execVfsgnj (o : VVV) (s : State) : Out := opVVV isIeee fxSgnj (eVVV 0x26#6 6#5 o) 4 o.m o.a o.b o.c s

/-- R186. -/
def execVfsgnjn (o : VVV) (s : State) : Out := opVVV isIeee fxSgnjn (eVVV 0x26#6 7#5 o) 4 o.m o.a o.b o.c s

/-- R186. -/
def execVfma (o : VVV) (s : State) : Out := opVVV isIeee fxMa (eVVV 0x26#6 16#5 o) 4 o.m o.a o.b o.c s true

/-- R186. -/
def execVfms (o : VVV) (s : State) : Out := opVVV isIeee fxMs (eVVV 0x26#6 17#5 o) 4 o.m o.a o.b o.c s true

/-- R186. -/
def execVfnma (o : VVV) (s : State) : Out := opVVV isIeee fxNma (eVVV 0x26#6 18#5 o) 4 o.m o.a o.b o.c s true

/-- R186, R187. -/
def execVfsqrt (o : VV) (s : State) : Out := opVV isIeee fuSqrt (eVV 0x26#6 8#5 o) 4 o.m o.a o.b s

/-- R186, R187. -/
def execVfrsqrt (o : VV) (s : State) : Out := opVV isNarrowIeee fuRsqrt (eVV 0x26#6 9#5 o) 4 o.m o.a o.b s

/-- R186, R187. -/
def execVfrcp (o : VV) (s : State) : Out := opVV isIeee fuRcp (eVV 0x26#6 10#5 o) 4 o.m o.a o.b s

/-- R186, R187. -/
def execVfexp2 (o : VV) (s : State) : Out := opVV isNarrowIeee fuExp2 (eVV 0x26#6 11#5 o) 4 o.m o.a o.b s

/-- R186, R187. -/
def execVflog2 (o : VV) (s : State) : Out := opVV isNarrowIeee fuLog2 (eVV 0x26#6 12#5 o) 4 o.m o.a o.b s

/-- R186, R187. -/
def execVfabs (o : VV) (s : State) : Out := opVV isIeee fuAbs (eVV 0x26#6 13#5 o) 4 o.m o.a o.b s

/-- R186, R187. -/
def execVfneg (o : VV) (s : State) : Out := opVV isIeee fuNeg (eVV 0x26#6 14#5 o) 4 o.m o.a o.b s

/-- R186, R187. -/
def execVfclass (o : VV) (s : State) : Out := opVV isIeee fuClass (eVV 0x26#6 15#5 o) 4 o.m o.a o.b s

/-- R183, R186. -/
def execVfaddX (o : VVX) (s : State) : Out := opVVX isIeee fxAdd (eVVX 0x27#6 0#5 o) o s

/-- R183, R186. -/
def execVfsubX (o : VVX) (s : State) : Out := opVVX isIeee fxSub (eVVX 0x27#6 1#5 o) o s

/-- R183, R186. -/
def execVfmulX (o : VVX) (s : State) : Out := opVVX isIeee fxMul (eVVX 0x27#6 2#5 o) o s

/-- R183, R186. -/
def execVfdivX (o : VVX) (s : State) : Out := opVVX isIeee fxDiv (eVVX 0x27#6 3#5 o) o s

/-- R183, R186. -/
def execVfminX (o : VVX) (s : State) : Out := opVVX isIeee fxMin (eVVX 0x27#6 4#5 o) o s

/-- R183, R186. -/
def execVfmaxX (o : VVX) (s : State) : Out := opVVX isIeee fxMax (eVVX 0x27#6 5#5 o) o s

/-- R183, R186. -/
def execVfsgnjX (o : VVX) (s : State) : Out := opVVX isIeee fxSgnj (eVVX 0x27#6 6#5 o) o s

/-- R183, R186. -/
def execVfsgnjnX (o : VVX) (s : State) : Out := opVVX isIeee fxSgnjn (eVVX 0x27#6 7#5 o) o s

/-- R183, R186. -/
def execVfmaX (o : VVX) (s : State) : Out := opVVX isIeee fxMa (eVVX 0x27#6 16#5 o) o s true

/-- R183, R186. -/
def execVfmsX (o : VVX) (s : State) : Out := opVVX isIeee fxMs (eVVX 0x27#6 17#5 o) o s true

/-- R183, R186. -/
def execVfnmaX (o : VVX) (s : State) : Out := opVVX isIeee fxNma (eVVX 0x27#6 18#5 o) o s true

/-- R186: c is read as a signed integer of width w. -/
def execVfscale (o : VVV) (s : State) : Out :=
  opVVV isIeee (fun p _ b c => fScale p b (signedOf p.w c)) (eVVV 0x26#6 19#5 o) 4 o.m o.a o.b o.c s

/-- R183, R186: xC is read as a signed 64-bit integer. -/
def execVfscaleX (o : VVX) (s : State) : Out :=
  opVVX isIeee (fun p _ b _ => fScale p b (s.xr o.c).toInt) (eVVX 0x27#6 19#5 o) o s

/-! ## Widening (R188) -/

/-- The wide format: f32, or f64 from f32. -/
def wideOf (ew : BitVec 6) : BitVec 6 := if ew = 0x0A then 0x0B else 0x0A

/-- A result from the wide destination and the narrow B and C elements, in values. -/
abbrev WideOp := Shp → FVal → FVal → FVal → FVal

def wxAdd : WideOp := fun p _ b c => fAdd true p.rnd b c
def wxMul : WideOp := fun _ _ b c => fMul b c
def wxMa : WideOp := fun p a b c => fAdd true p.rnd a (fMul b c)

/-- A widening member: the wide group has 2 × GRP registers per row, and its tail runs to its own capacity. -/
def opWide (f : WideOp) (w : BitVec 32) (m : MReg) (a b : VReg) (cs : List VReg) (c : Shp → Strip → Nat → Nat → Nat) (s : State)
    (acc : Bool := false) : Out :=
  run (vectorOp
    { word := w, admits := isNarrowIeee, groups := fun p => (a, 2 * p.q) :: sameGroups (b :: cs) p, pops := b :: cs,
      reads := if acc then [a] else [], dst := some a } 4
    (onStrip (fun p st =>
      let g : Grp := ⟨2 * p.w, 2 * p.q, p.m⟩
      let fm := fmtOf (wideOf p.ew)
      writeRows p g m a (fun r e =>
        fm.conv p.rnd 0 false (f p (fm.value (getElem st g a r e)) (p.val (getElem st p.grp b r e)) (p.val (c p st r e)))) st))) s

def opWideV (f : WideOp) (w : BitVec 32) (o : VVV) (s : State) (acc : Bool := false) : Out :=
  opWide f w o.m o.a o.b [o.c] (fun p st r e => getElem st p.grp o.c r e) s acc

def opWideX (f : WideOp) (w : BitVec 32) (o : VVX) (s : State) (acc : Bool := false) : Out :=
  opWide f w o.m o.a o.b [] (fun p _ _ _ => bitsOf (s.xr o.c).toNat 0 p.w) s acc

/-- R188. -/
def execVfwadd (o : VVV) (s : State) : Out := opWideV wxAdd (eVVV 0x26#6 20#5 o) o s

/-- R183, R188. -/
def execVfwaddX (o : VVX) (s : State) : Out := opWideX wxAdd (eVVX 0x27#6 20#5 o) o s

/-- R188. -/
def execVfwmul (o : VVV) (s : State) : Out := opWideV wxMul (eVVV 0x26#6 21#5 o) o s

/-- R183, R188. -/
def execVfwmulX (o : VVX) (s : State) : Out := opWideX wxMul (eVVX 0x27#6 21#5 o) o s

/-- R188. -/
def execVfwma (o : VVV) (s : State) : Out := opWideV wxMa (eVVV 0x26#6 22#5 o) o s true

/-- R183, R188. -/
def execVfwmaX (o : VVX) (s : State) : Out := opWideX wxMa (eVVX 0x27#6 22#5 o) o s true

end Sys2Proof.Machine
end

