-- ==== Sys2Proof/Machine/Vprm.lean ====
section
/-! DEFINITION. Permutes (R197 to R200). -/

namespace Sys2Proof.Machine

/-- The block of bricks, one for each die, that holds element e (R197). -/
def blockOf (h : Hart) (p : Shp) (e : Nat) : Nat :=
  if h.dies ≤ 1 then 0 else (e * p.w / 32 % p.m) / (p.m / h.bricks) / (h.bricks / h.dies)

/-- XDIE at the least linear index whose source lies in another block (R199). from_ gives the source of an active element. -/
def checkDies (m : MReg) (from_ : Shp → Strip → Nat → Nat → Option Nat) (p : Shp) : M Unit := do
  let h ← read (·.hart)
  let bad := (positions p.rows p.vl).find? (fun re =>
    h.live.active m re.2 && (match from_ p h.live re.1 re.2 with
      | some e => blockOf h p e != blockOf h p re.2
      | none => false))
  match bad with
  | some re => trap .xdie (word (re.1 * p.vl + re.2))
  | none => pure ()

/-- A permute: the source of each element within its row, and the value where there is none; without one the element is left. -/
def permute (u : VUse) (m : MReg) (a b : VReg) (from_ : Shp → Strip → Nat → Nat → Option Nat) (other : Shp → Option Nat) (s : State) :
    Out :=
  run (vectorOpIf { u with dst := some a } 4 (checkDies m from_) (onStrip (fun p st =>
    writeSome p p.grp m a (fun r e => match from_ p st r e with
      | some x => some (getElem st p.grp b r x)
      | none => other p) st))) s

def giveZero (_ : Shp) : Option Nat := some 0

/-- What MSKP makes of an element that is not active. -/
def byPolicy (p : Shp) : Option Nat := if p.mz then some 0 else none

/-- R198, R199. -/
def execVrgath (o : VVV) (s : State) : Out :=
  permute
    { word := eVVV 0x2C#6 0#5 o
      groups := fun p => (o.c, (p.grpOfWidth 32).q) :: sameGroups [o.a, o.b] p
      pops := [o.b, o.c] } o.m o.a o.b
    (fun p st r e => let x := getElem st (p.grpOfWidth 32) o.c r e; if x < p.vl then some x else none) giveZero s

/-- R198: every element below k is unchanged, an inactive one too. -/
def execVslup (o : VVX) (s : State) : Out :=
  let k := (s.xr o.c).toNat
  run (vectorOpIf { word := eVVX 0x2C#6 1#5 o, groups := sameGroups [o.a, o.b], pops := [o.b], dst := some o.a } 4
    (checkDies o.m (fun _ _ _ e => if k ≤ e then some (e - k) else none)) (onStrip (fun p st =>
      writeSome p p.grp 0 o.a (fun r e =>
        if e < k then none
        else if st.active o.m e then some (getElem st p.grp o.b r (e - k))
        else byPolicy p) st))) s

/-- R198. -/
def execVsldn (o : VVX) (s : State) : Out :=
  let k := (s.xr o.c).toNat
  permute { word := eVVX 0x2C#6 2#5 o, groups := sameGroups [o.a, o.b], pops := [o.b] } o.m o.a o.b
    (fun p _ _ e => if e + k < p.vl then some (e + k) else none) giveZero s

/-- R198: M is the selector, and there is no predicate. -/
def execVcmpr (o : VV) (s : State) : Out :=
  let chosen := fun (p : Shp) (st : Strip) => (List.range p.vl).filter (fun e => st.bit o.m.toNat e)
  permute { word := eVV 0x2C#6 3#5 o, groups := sameGroups [o.a, o.b], pops := [o.b] } 0 o.a o.b
    (fun p st _ e => (chosen p st)[e]?) byPolicy s

/-- R198: M is the selector, and every element below VL is written. -/
def execVmerge (o : VVV) (s : State) : Out :=
  elementwise { word := eVVV 0x2C#6 4#5 o, groups := sameGroups [o.a, o.b, o.c], pops := [o.b, o.c] } 4 0 o.a
    (fun p st r e => if st.bit o.m.toNat e then getElem st p.grp o.c r e else getElem st p.grp o.b r e) s

/-- R198: element 0 of row 0; the others below VL are unchanged. -/
def execVmvs (o : VM2) (s : State) : Out :=
  run (vectorOp { word := eVM2 0x2C#6 5#5 o, groups := sameGroups [o.a], dst := some o.a } 4 (onStrip (fun p st =>
    writeSome p p.grp 0 o.a (fun r e =>
      if r = 0 ∧ e = 0 then
        if st.active o.m 0 then some (bitsOf (s.xr o.b).toNat 0 p.w) else byPolicy p
      else none) st))) s

/-- R198: sign-extended for i formats, zero-extended otherwise. -/
def execVmvx (o : VV) (s : State) : Out :=
  run (vectorOp
    { word := eVV 0x2C#6 6#5 o, groups := sameGroups [o.b], pops := [o.b]
      slots := some (fun p st u => u.1 == o.b.toNat && decide (32 * u.2 < p.w ∧ p.vl ≠ 0) && st.active o.m 0) } 4
    (fun p => update (fun s =>
      let st := s.hart.live
      let x := getElem st p.grp o.b 0 0
      let v : Word := if p.vl = 0 ∨ st.active o.m 0 = false then 0
        else if isSignedInt p.ew then BitVec.ofInt 64 (signedOf p.w x) else word x
      s.setX o.a v))) s

/-- R198. -/
def execVbcst (o : VM2) (s : State) : Out :=
  elementwise { word := eVM2 0x2C#6 7#5 o, groups := sameGroups [o.a] } 4 o.m o.a
    (fun p _ _ _ => bitsOf (s.xr o.b).toNat 0 p.w) s

/-- R198. -/
def execVmov (o : VV) (s : State) : Out :=
  opVV (fun _ => true) (fun _ b => b) (eVV 0x2C#6 8#5 o) 4 o.m o.a o.b s

/-- The element that XCHG moves to element e: the same register and sub-position, k blocks away (R200). -/
def xchgFrom (h : Hart) (k : Nat) (p : Shp) (e : Nat) : Nat :=
  let g := e * p.w / 32
  let shift := k * (p.m / h.dies)
  ((g / p.m * p.m + (g % p.m + p.m - shift) % p.m) * 32 + e * p.w % 32) / p.w

/-- The source element of XCHG: within one block it is the element itself (R200). -/
def xchgSource (h : Hart) (k : Nat) (p : Shp) (e : Nat) : Nat := if h.dies ≤ 1 then e else xchgFrom h k p e

/-- The slots that an XCHG reads: those of the elements that it moves to elements below VL, which may lie above VL (R200, R361). -/
def xchgReads (h : Hart) (k : Nat) (b : VReg) (p : Shp) (u : Nat × Nat) : Bool :=
  (positions p.rows p.vl).any (fun re =>
    let at_ := fun i => p.grp.place b re.1 (xchgSource h k p re.2 * p.w / 32 + i)
    at_ 0 == u || (p.w == 64 && at_ 1 == u))

/-- R200. -/
def execXchg (o : VVX) (s : State) : Out :=
  let k := (s.xr o.c).toNat % s.hart.dies
  elementwise
    { word := eVVX 0x2C#6 9#5 o, groups := sameGroups [o.a, o.b], pops := [o.b]
      slots := some (fun p _ u => xchgReads s.hart k o.b p u) } 4 o.m o.a
    (fun p st r e => getElem st p.grp o.b r (xchgSource s.hart k p e)) s

end Sys2Proof.Machine
end

