-- ==== Sys2Proof/Machine/Compact.lean ====
section
/-! DEFINITION. The compact instructions (R60, R61): each has the effect, the faults and their order of its 32-bit counterpart, and is
two bytes long. -/

namespace Sys2Proof.Machine

/-- A compact instruction as TVAL holds it (R64). -/
def parcelWord (o : C2) (op : BitVec 5) : BitVec 32 := (formC o.s o.d op).setWidth 32

/-- Whether the latch names a register of the file that the operation reads (R61). -/
def latchOk (vector : Bool) (l : BitVec 7) : Bool := ldlValid l && ldlIsVector l == vector

/-- A compact operation that reads L: ILL first where the latch does not serve it (R61). -/
def withLatch (vector : Bool) (o : C2) (op : BitVec 5) (body : BitVec 5 → State → Out) (s : State) : Out :=
  if latchOk vector s.hart.live.ldl then body (ldlReg s.hart.live.ldl) s else run (trapWord .ill (parcelWord o op)) s

/-- A scalar compact operation on L and xS. -/
def compact3 (f : Word → Word → Word) (o : C2) (op : BitVec 5) (s : State) : Out :=
  withLatch false o op (fun l => op3 f o.d l o.s 2) s

/-- A vector compact operation on L and vS, with every element active. -/
def compactV (admits : BitVec 6 → Bool) (f : ElemOp) (o : C2) (op : BitVec 5) (s : State) (acc : Bool := false) : Out :=
  withLatch true o op (fun l s => opVVV admits f (parcelWord o op) 2 0 o.d l o.s s acc) s

/-- R60: c.mov reads no latch. -/
def execCMov (o : C2) (s : State) : Out := op3 (fun b c => b + c) o.d 0 o.s 2 s

/-- R60. -/
def execCAdd (o : C2) (s : State) : Out := compact3 (fun l x => l + x) o 1 s

/-- R60. -/
def execCSub (o : C2) (s : State) : Out := compact3 (fun l x => l - x) o 2 s

/-- R60. -/
def execCAnd (o : C2) (s : State) : Out := compact3 (fun l x => l &&& x) o 3 s

/-- R60. -/
def execCOr (o : C2) (s : State) : Out := compact3 (fun l x => l ||| x) o 4 s

/-- R60. -/
def execCXor (o : C2) (s : State) : Out := compact3 (fun l x => l ^^^ x) o 5 s

/-- R60. -/
def execCShl (o : C2) (s : State) : Out := compact3 (fun l x => l <<< amount x) o 6 s

/-- R60: S is a signed immediate. -/
def execCAddi (o : C2) (s : State) : Out :=
  withLatch false o 7 (fun l s => .next (s.put o.d (s.xr l + o.s.signExtend 64) 2)) s

/-- R60: the doubleword at L + 8 × S. -/
def execCLdd (o : C2) (s : State) : Out :=
  withLatch false o 8 (fun l s => loadOp 8 word o.d (s.xr l + word (8 * o.s.toNat)) 2 s) s

/-- R60. -/
def execCMul (o : C2) (s : State) : Out := compact3 (fun l x => l * x) o 9 s

/-- R60. -/
def execCSlt (o : C2) (s : State) : Out := compact3 (fun l x => flag (l.slt x)) o 10 s

/-- R60: c.vmov reads no latch. -/
def execCVmov (o : C2) (s : State) : Out := opVV (fun _ => true) (fun _ b => b) (parcelWord o 16) 2 0 o.d o.s s

/-- R60. -/
def execCVadd (o : C2) (s : State) : Out := compactV isInt iAdd o 17 s

/-- R60. -/
def execCVsub (o : C2) (s : State) : Out := compactV isInt iSub o 18 s

/-- R60. -/
def execCVmul (o : C2) (s : State) : Out := compactV isInt iMul o 19 s

/-- R60. -/
def execCVfadd (o : C2) (s : State) : Out := compactV isIeee fxAdd o 20 s

/-- R60. -/
def execCVfsub (o : C2) (s : State) : Out := compactV isIeee fxSub o 21 s

/-- R60. -/
def execCVfmul (o : C2) (s : State) : Out := compactV isIeee fxMul o 22 s

/-- R60. -/
def execCVfma (o : C2) (s : State) : Out := compactV isIeee fxMa o 23 s true

/-- R60. -/
def execCVfmax (o : C2) (s : State) : Out := compactV isIeee fxMax o 24 s

/-- R60. -/
def execCVfmin (o : C2) (s : State) : Out := compactV isIeee fxMin o 25 s

/-- R60. -/
def execCVand (o : C2) (s : State) : Out := compactV isInt iAnd o 26 s

/-- R60. -/
def execCVxor (o : C2) (s : State) : Out := compactV isInt iXor o 27 s

end Sys2Proof.Machine
end

