-- ==== Sys2Proof/Machine/Copy.lean ====
section
/-! DEFINITION. The copy engine (R246 to R255). -/

namespace Sys2Proof.Machine

def Copy.rowCount (c : Copy) : Nat := Nat.max 1 c.rows
def Copy.total (c : Copy) : Nat := c.rowCount * c.bytes
def Copy.chunkSize (c : Copy) : Nat := 2 ^ c.chunkLog
def Copy.chunks (c : Copy) : Nat := (c.total + c.chunkSize - 1) / c.chunkSize

/-- The bytes of one chunk: the last one is cut at T (R247). -/
def Copy.chunkLen (c : Copy) (e : Nat) : Nat := Nat.min (c.total - e * c.chunkSize) c.chunkSize

/-- The addresses of a flat offset (R247). -/
def Copy.strided (c : Copy) (base f : Nat) : Nat := base + f / c.bytes * c.stride + f % c.bytes
def Copy.srcAt (c : Copy) (f : Nat) : Nat := if c.strDst then c.src.toNat + f else c.strided c.src.toNat f
def Copy.dstAt (c : Copy) (f : Nat) : Nat := if c.strDst then c.strided c.dst.toNat f else c.dst.toNat + f

/-- The bytes from the lowest to the highest address of the strided side, and of the other (R248). -/
def Copy.stridedLen (c : Copy) : Nat := if c.total = 0 then 0 else (c.rowCount - 1) * c.stride + c.bytes
def Copy.srcLen (c : Copy) : Nat := if c.strDst then c.total else c.stridedLen
def Copy.dstLen (c : Copy) : Nat := if c.strDst then c.stridedLen else c.total

def rangesMeet (a n b m : Nat) : Bool := decide (0 < n ∧ 0 < m ∧ a < b + m ∧ b < a + n)

/-- R248. -/
def Copy.refused (c : Copy) : Bool :=
  rangesMeet c.src.toNat c.srcLen c.dst.toNat c.dstLen || rangesMeet c.cword.toNat 8 c.src.toNat c.srcLen ||
    rangesMeet c.cword.toNat 8 c.dst.toNat c.dstLen

/-- The copy that a record describes, before it has a slot (R246). -/
def copyFrom (by_ : Issuer) (epoch : Word) (r : Nat) : Copy :=
  let d := bitsOf r 192 64
  { handle := 0, by_ := by_, epoch := epoch, src := dwordAt r 0, dst := dwordAt r 8, bytes := bitsOf r 128 64, rows := bitsOf r 384 32
    stride := bitsOf r 416 32, strDst := d.testBit 16, chunkLog := bitsOf d 0 8, mask := BitVec.ofNat 3 (bitsOf d 8 8)
    intr := d.testBit 17, cword := dwordAt r 32, cval := dwordAt r 40, state := .running, status := 0, srcMap := [], dstMap := []
    done := [], failed := [] }

/-- Whether the fields of a record keep the limits of R246 and R247, the mask register apart. -/
def copyFieldsOk (c : Copy) (r : Nat) : Bool :=
  let d := bitsOf r 192 64
  decide (c.bytes ≤ 2 ^ 40 ∧ 8 ≤ c.chunkLog ∧ c.chunkLog ≤ 16 ∧ bitsOf d 18 46 = 0 ∧ c.cword ≠ 0 ∧ c.cword.toNat % 8 = 0 ∧
    bitsOf c.cval.toNat 62 2 = 0 ∧ (c.rows ≤ 1 ∨ c.bytes ≤ c.stride) ∧ bitsOf r 448 64 = 0 ∧ c.total ≤ 2 ^ 40) &&
  (bitsOf d 8 8 == 0 || decide (c.chunks ≤ 1024))

/-- The rows of one side as ranges of bytes. -/
def Copy.ranges (c : Copy) (base : Nat) (strided : Bool) : List (Nat × Nat) :=
  if c.total = 0 then [] else if strided then (List.range c.rowCount).map (fun i => (base + i * c.stride, c.bytes)) else [(base, c.total)]

/-- The translations of the pages of ranges in ascending order, up to the first that fails; a remote page fails with PROT
(R332). -/
def mapPages (s : State) (by_ : Issuer) (k : Kind) : List (Nat × Nat) → Except XErr (List (Nat × Nat))
  | [] => .ok []
  | (a, _) :: rest =>
    match engineXlate s by_ k (word a) with
    | .error e => .error e
    | .ok loc =>
      if isRemote loc.key then .error (.cause .prot)
      else match mapPages s by_ k rest with
        | .error e => .error e
        | .ok l => .ok ((a / 2 ^ 16, loc.key - a % 2 ^ 16) :: l)

/-- The copy with its translations, or with the status of the first that fails (R252) (DEDUCED, log entry 38); or the piece of a table on
another device that has not come (R333). -/
def Copy.translated (s : State) (c : Copy) : Except (Nat × Nat) Copy :=
  let src := (c.ranges c.src.toNat (!c.strDst)).flatMap (fun p => spanOf p.1 p.2)
  let dst := (c.ranges c.dst.toNat c.strDst).flatMap (fun p => spanOf p.1 p.2)
  match mapPages s c.by_ .load src, mapPages s c.by_ .store dst with
  | .error (.remote k n), _ => .error (k, n)
  | .error e, _ => .ok { c with status := e.status }
  | .ok _, .error (.remote k n) => .error (k, n)
  | .ok _, .error e => .ok { c with status := e.status }
  | .ok l, .ok m => .ok { c with srcMap := l, dstMap := m }

/-- The key of an address under translations made before. -/
def keyIn (m : List (Nat × Nat)) (a : Nat) : Nat := assocGet m (a / 2 ^ 16) 0 + a % 2 ^ 16

def copyHandle (id slot : Nat) : Slot := BitVec.ofNat 32 (2 ^ 31 + id * 2 ^ 8 + slot)

/-- The lowest slot that no live copy of this id holds (R250, R251). -/
def freeCopySlot (s : State) : Option Nat :=
  (List.range 256).find? (fun i => s.part.copies.all (fun c => c.handle != copyHandle s.hart.id i))

/-- R251. -/
def execCpystart (o : R2) (s : State) : Out :=
  engineOp (eR2 0x31#6 0#10 o) (do
    let a := s.xr o.b
    let r ← readRecord a
    let t ← get
    let mask := bitsOf r 200 8
    let c := copyFrom (t.issuer .copy (t.hart.ordinal .copy)) t.part.epoch r
    check (copyFieldsOk c r) .crec a
    check (mask == 0 || (decide (4 ≤ mask) && decide (mask ≤ 7))) .cmaskreg (word mask)
    check (mask == 0 || !t.hart.isBound mask) .cmaskreg (word mask)
    check (!c.refused) .crec a
    enter .copy (
      match freeCopySlot t with
      | none => takeAndAnswer .copy o.a minusOne
      | some i =>
        let h := copyHandle t.hart.id i
        match Copy.translated t { c with handle := h } with
        | .error p => throw (.remote p.1 p.2)
        | .ok c => do
          update (fun s =>
            let s := s.modPart (fun p => { p with copies := p.copies ++ [c] })
            if mask = 0 then s
            else s.modHart (fun g => { g with live := g.live.setMask c.mask [], bound := g.bound ++ [(c.mask, h)] }))
          takeAndAnswer .copy o.a (h.setWidth 64))) s

/-- The live copy that a handle names. -/
def copyOf (s : State) (h : Word) : Option Copy := s.part.copies.find? (fun c => decide (c.handle.setWidth 64 = h))

/-- The copy of a handle, or CHAN (R250). -/
def needCopy (h : Word) : M Copy := do
  let c? ← read (fun s => copyOf s h)
  match c? with
  | some c => pure c
  | none => trap .chan h

def State.setCopy (s : State) (c : Copy) : State :=
  s.modPart (fun p => { p with copies := p.copies.map (fun d => if d.handle = c.handle then c else d) })

/-- The completion of a copy: its word, its status entry, its interrupt, and the slot of a hart that has ended (R252, R255, R364). -/
def Copy.completion (c : Copy) (st : CopyState) (status : BitVec 8) (value : Word) : Completion :=
  let h := c.handle.setWidth 64
  { Completion.of c.by_ c.cword value h status (if c.intr then some (4, 0, h) else none) with copy := some (c.handle, st) }

/-- The end of a copy. -/
def finishCopy (c : Copy) (st : CopyState) (status : BitVec 8) (value : Word) (s : State) : State :=
  finishCommand (c.completion st status value) s

/-- Whether a copy has ended but for its completion, which waits. -/
def copyEnding (s : State) (c : Copy) : Bool := s.part.completions.any (fun d => d.copy.any (·.1 == c.handle))

/-- Bytes with their keys as runs of consecutive keys. -/
def runsOf : List (Nat × Byte) → List (Nat × List Byte)
  | [] => []
  | (k, b) :: rest =>
    match runsOf rest with
    | (k', bs) :: more => if k' = k + 1 then (k, b :: bs) :: more else (k, [b]) :: (k', bs) :: more
    | [] => [(k, [b])]

/-- Writes bytes at their keys. -/
def State.pokeAll (s : State) (l : List (Nat × Byte)) : State := (runsOf l).foldl (fun s r => s.poke r.1 r.2) s

/-- The flat offsets of a chunk. -/
def Copy.offsets (c : Copy) (e : Nat) : List Nat := (List.range (c.chunkLen e)).map (fun i => e * c.chunkSize + i)

def Copy.dstKeys (c : Copy) (e : Nat) : List Nat := (c.offsets e).map (fun f => keyIn c.dstMap (c.dstAt f))
def Copy.srcKeys (c : Copy) (e : Nat) : List Nat := (c.offsets e).map (fun f => keyIn c.srcMap (c.srcAt f))

/-- The bytes of a chunk whose contents are unspecified: free values (log entry 6). -/
def scrambleChunk (c : Copy) (e : Nat) (s : State) : State :=
  let bytes := (List.range (c.chunkLen e)).map (fun i => Config.staleByte (s.dev.freeIdx + i))
  (s.pokeAll ((c.dstKeys e).zip bytes)).modDev (fun d => { d with freeIdx := d.freeIdx + c.chunkLen e })

/-- R254: a copy whose word is written is left alone, and one whose word still waits is cancelled. The engine has begun no chunk that is not finished. -/
def cancelCopy (c : Copy) (s : State) : State :=
  if c.state = .running then
    let s := if c.status = 0 then
        ((List.range c.chunks).filter (fun e => !c.done.contains e && !c.failed.contains e)).foldl (fun s e => scrambleChunk c e s) s
      else s
    let s := s.modPart (fun p => { p with completions := p.completions.filter (fun d => d.copy.all (·.1 != c.handle)) })
    finishCopy c .cancelled 0 (0x4000000000000000 ||| word c.done.length) s
  else s

/-- R254. -/
def execCpycan (b : XReg) (s : State) : Out :=
  engineOp (eBx 0x31#6 1#10 b) (do
    let c ← needCopy (s.xr b)
    enter .copy (do
      let _ ← takeIn .copy
      update (fun s => (cancelCopy c s).complete))) s

def CopyState.code : CopyState → Nat
  | .running => 0
  | .complete => 1
  | .faulted => 2
  | .cancelled => 3

/-- The mask of a copy unbound and its slot freed (R255). -/
def releaseCopy (c : Copy) (s : State) : State :=
  (s.modPart (fun p => { p with copies := p.copies.filter (fun d => d.handle != c.handle) })).modHart
    (fun h => { h with bound := h.bound.filter (fun b => b.2 != c.handle) })

/-- CPYSTAT with a selector (R255). -/
def cpystat (w : BitVec 32) (o : R3) (sel : Word) (s : State) : Out :=
  engineOp w (do
    let h := s.xr o.b
    let c ← needCopy h
    let t ← get
    check (sel != 2 || decide (c.by_.serial = t.hart.serial)) .chan h
    enter .copy (do
      let _ ← takeIn .copy
      update (fun s =>
        if sel = 0 then s.finish o.a (word c.state.code)
        else if sel = 1 then s.finish o.a (word ((c.done.map c.chunkLen).foldl (· + ·) 0))
        else if sel = 2 ∧ c.state ≠ .running then (releaseCopy c s).finish o.a 0
        else s.finish o.a minusOne))) s

/-- R255. -/
def execCpystat (o : R3) (s : State) : Out := cpystat (eR3 0x31#6 2#10 o) o (s.xr o.c) s

/-- R255: CPYSTAT with selector 2. -/
def execCpystatRelease (o : R3) (s : State) : Out := cpystat (eR3 0x31#6 2#10 o) o 2 s

/-! ## The engine's work (R252) -/

/-- One chunk copied, or failed where a source word is uncorrectable. -/
def runChunk (c : Copy) (e : Nat) (s : State) : State × Copy :=
  if (c.srcKeys e).any (fun k => s.damagedAt k 1) then (scrambleChunk c e s.noteUncor, { c with failed := c.failed ++ [e] })
  else (s.pokeAll ((c.dstKeys e).zip ((c.srcKeys e).map s.mem.get)), { c with done := c.done ++ [e] })

/-- The bit of a finished chunk set in the mask bound to the copy. -/
def setChunkBit (c : Copy) (e : Nat) (s : State) : State :=
  s.modHartOf s.part.cfg.pid c.by_.hart (fun h =>
    if h.bound.contains (c.mask, c.handle) then
      { h with live := h.live.setMask c.mask (listSet false (h.live.m.toList.getD c.mask.toNat []) e true) }
    else h)

/-- A chunk finishes or fails; the last one ends the copy. -/
def chunkDone (c : Copy) (e : Nat) (s : State) : State :=
  let r := runChunk c e s
  let s := if r.2.done.contains e then setChunkBit c e r.1 else r.1
  let s := s.setCopy r.2
  if r.2.done.length + r.2.failed.length < c.chunks then s
  else if r.2.failed = [] then finishCopy r.2 .complete 0 c.cval s
  else finishCopy r.2 .faulted Cause.uncor.code (0x8000000000000000 ||| Cause.uncor.code.setWidth 64) s

/-- Whether a copy ends before any chunk: a translation failed, or there are no chunks. -/
def Copy.endsAtOnce (c : Copy) : Bool := c.state == .running && (c.status != 0 || c.chunks == 0)

/-- The end of such a copy. -/
def endAtOnce (c : Copy) (s : State) : State :=
  if c.status = 0 then finishCopy c .complete 0 c.cval s
  else finishCopy c .faulted c.status (0x8000000000000000 ||| c.status.setWidth 64) s

end Sys2Proof.Machine
end

