-- ==== Sys2Proof/Machine/Creg.lean ====
section
/-! DEFINITION. Control registers (R62, R63, R128) with their field maps. -/

namespace Sys2Proof.Machine

/-- How a register may be accessed (R62): read-only, writable by both, writable by the supervisor alone. -/
inductive Access where
  | ro
  | rw
  | rwSup
  deriving DecidableEq, Repr

/-- The access of a listed register; none for a number the table does not list (R62). Numbers with bit 11 set are for the
supervisor alone. -/
def crAccess (n : BitVec 12) : Option Access :=
  match n.toNat with
  | 0x001 | 0x002 | 0x003 | 0x005 | 0x006 => some .ro
  | 0x007 | 0x008 | 0x009 | 0x00A => some .rw
  | 0x00B => some .ro
  | 0x00C | 0x00D | 0x00E => some .rw
  | 0x010 | 0x011 | 0x012 | 0x013 | 0x014 | 0x015 | 0x016 | 0x020 | 0x021 => some .ro
  | 0x030 | 0x031 | 0x032 | 0x033 => some .rwSup
  | 0x034 => some .ro
  | 0x800 | 0x801 | 0x802 | 0x803 | 0x804 | 0x805 | 0x806 | 0x807 | 0x808 | 0x809 | 0x80A | 0x80B | 0x80C => some .rw
  | 0x80D | 0x80E => some .ro
  | _ => none

/-- GBAR (R93). -/
def gbar (s : State) : Word :=
  match s.gang with
  | some g => g.phase ++ 0#24 ++ BitVec.ofNat 4 g.arrived.length ++ 0#4
  | none => 0

/-- The value of a control register. -/
def crRead (n : BitVec 12) (s : State) : Word :=
  let h := s.hart
  match n.toNat with
  | 0x001 => h.live.vl.setWidth 64
  | 0x002 => h.vlgrant.setWidth 64
  | 0x003 => h.live.shape.setWidth 64
  | 0x005 => word h.lmod
  | 0x006 => word h.nreg
  | 0x007 => h.live.sbase
  | 0x008 => h.srseed
  | 0x009 => h.srstream
  | 0x00A => h.live.efc
  | 0x00B => h.live.ldl.setWidth 64
  | 0x00C => h.rad.setWidth 64
  | 0x00D => h.frnd.setWidth 64
  | 0x00E => h.wtime
  | 0x010 => word h.id
  | 0x011 => word h.gang
  | 0x012 => word (s.gang.elim 1 (·.size))
  | 0x013 => gbar s
  | 0x014 => word h.bricks
  | 0x015 => word h.dies
  | 0x016 => h.domain.setWidth 64
  | 0x020 => s.dev.cycle
  | 0x021 => h.instret
  | 0x030 => s.part.bpbase
  | 0x031 => s.part.bszlog
  | 0x032 => s.part.tpb
  | 0x033 => s.part.tokb
  | 0x034 => s.part.epoch
  | 0x800 => h.tstat
  | 0x801 => h.tcause.setWidth 64
  | 0x802 => h.tepc
  | 0x803 => h.tval
  | 0x804 => h.tvalx
  | 0x805 => h.tvec
  | 0x806 => h.tscr
  | 0x807 => h.tldl.setWidth 64
  | 0x808 => h.wdog.setWidth 64
  | 0x809 => h.cybud
  | 0x80A => h.ptroot
  | 0x80B => h.domain.setWidth 64
  | 0x80C => h.prio.setWidth 64
  | 0x80D => h.vowner
  | 0x80E => h.pid.setWidth 64
  | _ => 0

/-- A write of PRIO: a value with bits 63:2 set leaves it; one below the lease's priority lowers that; an arbitration event
(R97, R363). -/
def writePrio (v : Word) (s : State) : State :=
  if v.toNat < 4 then
    let s := s.modHart (fun h => { h with prio := v.setWidth 2 })
    let s := s.modGang s.hart.gkey (fun g => { g with prio := Nat.min g.prio v.toNat })
    arbitrateGang s.hart.pid s.hart.gkey s
  else s

/-- A write of a pool register, which takes effect only while the pool is idle (R224). -/
def writePool (f : Partition → Partition) (s : State) : State := if poolIdle s then s.modPart f else s

def mask (v : Word) (bits : Nat) : Word := word (v.toNat % 2 ^ bits)
def evenAddr (v : Word) : Word := v &&& ~~~1#64

/-- A write of a writable control register, with the fields of its map. -/
def crWrite (n : BitVec 12) (v : Word) (s : State) : State :=
  match n.toNat with
  | 0x007 => s.modLive (fun st => { st with sbase := v })
  | 0x008 => s.modHart (fun h => { h with srseed := v })
  | 0x009 => s.modHart (fun h => { h with srstream := v })
  | 0x00A => s.modLive (fun st => { st with efc := v })
  | 0x00C => s.modHart (fun h => { h with rad := v.setWidth 4 })
  | 0x00D => if v.setWidth 3 = 7#3 then s else s.modHart (fun h => { h with frnd := v.setWidth 3 })
  | 0x00E => s.modHart (fun h => { h with wtime := v })
  | 0x030 => writePool (fun p => { p with bpbase := mask v 52 }) s
  | 0x031 => writePool (fun p => { p with bszlog := v &&& 0xFFFFFFFF0000001F }) s
  | 0x032 => writePool (fun p => { p with tpb := mask v 17 }) s
  | 0x033 => writePool (fun p => { p with tokb := mask v 20 }) s
  | 0x800 => s.modHart (fun h => { h with tstat := mkTstat (tstatTrim v) (tstatSk v) (tstatTk v) (tstatPm v) })
  | 0x801 => s.modHart (fun h => { h with tcause := v.setWidth 8 })
  | 0x802 => s.modHart (fun h => { h with tepc := evenAddr v })
  | 0x803 => s.modHart (fun h => { h with tval := v })
  | 0x804 => s.modHart (fun h => { h with tvalx := v })
  | 0x805 => s.modHart (fun h => { h with tvec := evenAddr v })
  | 0x806 => s.modHart (fun h => { h with tscr := v })
  | 0x807 => s.modHart (fun h => { h with tldl := v.setWidth 7 })
  | 0x808 => s.modHart (fun h => { h with wdog := v.setWidth 32 })
  | 0x809 => s.modHart (fun h => { h with cybud := v })
  | 0x80A => s.modHart (fun h => { h with ptroot := v &&& 0x0000FFFFFFFF8000 })
  | 0x80B => s.modHart (fun h => { h with domain := v.setWidth 32 })
  | 0x80C => writePrio v s
  | _ => s

/-- The checks of RDCR (R63). -/
def readAllowed (n : BitVec 12) (m : Mode) : Option Cause :=
  match crAccess n with
  | none => some .ill
  | some _ => if n.getLsbD 11 ∧ m = .user then some .priv else none

/-- The checks of WRCR, in their order (R63). -/
def writeAllowed (n : BitVec 12) (m : Mode) : Option Cause :=
  match crAccess n with
  | none => some .ill
  | some a =>
    if n.getLsbD 11 ∧ m = .user then some .priv
    else match a with
      | .ro => some .ill
      | .rwSup => if m = .user then some .priv else none
      | .rw => none

/-- RDCR (R128). -/
def readOp (n : BitVec 12) (a : XReg) (w : BitVec 32) (s : State) : Out :=
  match readAllowed n s.hart.mode with
  | some c => run (trapWord c w) s
  | none => .next (s.put a (crRead n s) 4)

/-- WRCR (R128): the old value goes to xA. A pool register waits for metadata on another device (R224, R333). -/
def writeOp (n : BitVec 12) (b a : XReg) (w : BitVec 32) (s : State) : Out :=
  match writeAllowed n s.hart.mode with
  | some c => run (trapWord c w) s
  | none =>
    match if 0x030 ≤ n.toNat ∧ n.toNat ≤ 0x033 then missingMeta s (poolBlocks s.part) else none with
    | some p => run (throw (.reading .blk p.1 p.2)) s
    | none => .next ((crWrite n (s.xr b) s).put a (crRead n s) 4)

def wrcrWord (n : BitVec 12) (b a : XReg) : BitVec 32 := eCrW 0x1D#6 ⟨n, b, a⟩

/-- R128. -/
def execRdcr (o : CrR) (s : State) : Out := readOp o.n o.a (eCrR 0x1C#6 o) s
/-- R128. -/
def execWrcr (o : CrW) (s : State) : Out := writeOp o.n o.b o.a (wrcrWord o.n o.b o.a) s
/-- R363. -/
def execPrioWrite (o : R2) (s : State) : Out := writeOp 0x80C o.b o.a (wrcrWord 0x80C o.b o.a) s
/-- R121. -/
def execFrndWrite (o : R2) (s : State) : Out := writeOp 0x00D o.b o.a (wrcrWord 0x00D o.b o.a) s
/-- R224. -/
def execPoolRegisterWrite (o : PoolW) (s : State) : Out :=
  let n : BitVec 12 := 0x030 + o.which.setWidth 12
  writeOp n o.b o.a (wrcrWord n o.b o.a) s
/-- R268. -/
def execDomainwWrite (o : R2) (s : State) : Out := writeOp 0x80B o.b o.a (wrcrWord 0x80B o.b o.a) s
/-- R159. -/
def execPtrootWrite (o : R2) (s : State) : Out := writeOp 0x80A o.b o.a (wrcrWord 0x80A o.b o.a) s

end Sys2Proof.Machine
end

