-- ==== Sys2Proof/Machine/Harts.lean ====
section
/-! DEFINITION. The HART instructions: spawning, ending and joining harts, leases, and the gang barrier (R86 to R95). -/

namespace Sys2Proof.Machine

/-- A lease in the layout of spawn-record bits 39:0 (R92). -/
structure Lease where
  min : Nat
  pref : Nat
  prio : Nat
  deriving DecidableEq, Repr

def Lease.ofNat (n : Nat) : Lease := ⟨bitsOf n 0 16, bitsOf n 16 16, bitsOf n 32 8⟩
def Lease.word (l : Lease) : Word := Sys2Proof.word (l.min + l.pref * 2 ^ 16 + l.prio * 2 ^ 32)

/-- The limits of R86 for a hart with a given PRIO. -/
def Lease.ok (l : Lease) (ceiling : Nat) : Bool := decide (1 ≤ l.min ∧ l.min ≤ l.pref ∧ l.pref ≤ 12 ∧ l.prio ≤ ceiling)

def Gang.lease (g : Gang) : Lease := ⟨g.min, g.pref, g.prio⟩

/-- The fields of a spawn record (R86). -/
structure SpawnRec where
  pc : Word
  arg0 : Word
  arg1 : Word
  stack : Word
  lease : Lease
  size : Nat
  spread : Bool
  detached : Bool
  super : Bool
  gang : Nat
  hallIdx : Nat
  budget : Word
  exitVa : Word
  reserved : Bool
  deriving DecidableEq, Repr

def SpawnRec.ofNat (r : Nat) : SpawnRec :=
  let d := bitsOf r 256 64
  let e := bitsOf r 320 64
  { pc := dwordAt r 0, arg0 := dwordAt r 8, arg1 := dwordAt r 16, stack := dwordAt r 24, lease := Lease.ofNat d
    size := bitsOf d 40 8, spread := d.testBit 48, detached := d.testBit 49, super := d.testBit 50
    gang := bitsOf e 0 32, hallIdx := bitsOf e 32 16, budget := dwordAt r 48, exitVa := dwordAt r 56
    reserved := bitsOf d 51 13 != 0 || bitsOf e 48 16 != 0 }

/-- The hall that a hall index chooses. -/
def hallOf (s : State) (i : Nat) : Option Nat := if i = 0xFFFF then some s.hart.hall else s.part.cfg.halls[i]?

/-- The harts of the partition that are live, or ended and not joined. -/
def hartsOf (s : State) : List Hart := s.allHarts.filter (fun h => h.pid == s.hart.pid && h.status != .absent)

/-- The lowest free hart id in 1 to 4095. -/
def freeHartId (s : State) : Option Nat :=
  ((List.range (Config.maxHarts - 1)).map (· + 1)).find? (fun i => (hartsOf s).all (fun h => h.id != i))

/-- A hart added to the machine, in the slot of a hart that is no more if it had its id. -/
def State.addHart (s : State) (h : Hart) : State :=
  { s with harts := s.harts.filter (fun g => g.status != .absent) ++ [h] }

/-- The gang that a gang id names: of several whose first members have had it, the one formed last (DESIGN CHOICE, log entry 52). -/
def State.gangNamed (s : State) (id : Nat) : Option Gang := s.part.gangs.reverse.find? (fun g => decide (g.id = id))

/-- The status of a spawn record: −4, −2, −3 or −1 in the order of R89, else none. Reduced service offers leases of at most 4 and
no spread (R356). -/
def spawnRefusal (s : State) (r : SpawnRec) : Option Int :=
  let new : Bool := decide (r.gang = 0)
  let g := s.gangNamed r.gang
  if r.reserved ∨ r.pc.getLsbD 0 ∨ r.exitVa.toNat % 8 ≠ 0 ∨ (r.super ∧ s.hart.mode = .user) ∨
      (new && r.spread && decide (1 < r.size)) then some (-4)
  else if new ∧ (r.lease.ok s.hart.prio.toNat = false ∨ hallOf s r.hallIdx = none ∨
      (isReduced s && (decide (4 < r.lease.min) || r.spread))) then some (-2)
  else if new = false ∧ g.all (fun g => decide (g.declared ≤ g.joined) || decide (hallOf s r.hallIdx ≠ some g.hall)) then some (-3)
  else if new ∧ ¬(1 ≤ r.size ∧ r.size ≤ 8) then some (-3)
  else if Config.maxHarts ≤ (hartsOf s).length ∨ freeHartId s = none then some (-1)
  else none

/-- The hart that a spawn creates (R87). -/
def spawned (s : State) (id hall : Nat) (r : SpawnRec) : Hart :=
  let p := s.hart
  let g := if r.gang = 0 then none else s.gangNamed r.gang
  let x := (((Vector.replicate 32 (0 : Word)).set 1 r.arg0).set 2 r.stack).set 3 r.arg1
  let st : Strip := { Strip.zero with pc := r.pc, x := x }
  let slot := freeSlot s hall
  { Hart.absent with
    pid := p.pid, id := id, serial := s.part.nextSerial
    status := if slot.isSome then .ready else .off .slot
    mode := if r.super then .supervisor else .user
    live := st, ckpt := st
    ptroot := p.ptroot, domain := p.domain, tvec := p.tvec, tscr := p.tscr, wdog := p.wdog, frnd := p.frnd, wtime := p.wtime
    rad := p.rad
    prio := BitVec.ofNat 2 (g.elim r.lease.prio (·.prio)), gkey := g.elim s.part.nextAge (·.age)
    cybud := r.budget, gang := if r.gang = 0 then id else r.gang, hall := hall, slot := slot
    spread := decide (r.gang = 0) && r.spread, detached := r.detached, exitVa := r.exitVa }

/-- The gang of a record for a new gang, with its first member (R85). -/
def newGang (id hall age : Nat) (r : SpawnRec) : Gang :=
  { id := id, declared := r.size, joined := 1, size := r.size, hall := hall, min := r.lease.min, pref := r.lease.pref
    prio := r.lease.prio, age := age, phase := 0, arrived := [], phaseGrant := none }

/-- The gang that a new hart forms or joins (R85, R96) (DEDUCED, log entry 35). -/
def joinGang (id hall : Nat) (r : SpawnRec) (s : State) : State :=
  if r.gang = 0 then
    s.modPart (fun p =>
      { p with
        gangs := p.gangs ++ [newGang id hall p.nextAge r]
        nextAge := p.nextAge + 1 })
  else match s.gangNamed r.gang with
    | some g => s.modGang g.age (fun g => { g with joined := g.joined + 1 })
    | none => s

/-- Creates a hart and places it (R87, R89, R97). -/
def spawn (id hall : Nat) (r : SpawnRec) (s : State) : State :=
  let h := spawned s id hall r
  let s := (joinGang id hall r s).addHart h
  arbitrateGang h.pid h.gkey (s.modPart (fun p => { p with nextSerial := p.nextSerial + 1 }))

/-- R89. -/
def execHspawn (o : R2) (s : State) : Out :=
  run (closing false (do
    let a := s.xr o.b
    check (a.toNat % 64 == 0) .align a
    let loc ← translate .load a
    let bs ← fetchBytes loc 64 (fun i => .trap .uncor (a + word i) 0)
    let r := SpawnRec.ofNat (leNat bs)
    update (fun s =>
      match spawnRefusal s r with
      | some n => s.finish o.a (BitVec.ofInt 64 n)
      | none =>
        match freeHartId s, hallOf s r.hallIdx with
        | some id, some hall => (spawn id hall r s).finish o.a (word id)
        | _, _ => s.finish o.a minusOne))) s

/-- R90: a release. -/
def execHexit (b : XReg) (s : State) : Out :=
  run (closing true (update (fun t => endAfterStores (t.xr b) t))) s

/-- R92, R356. -/
def execLease (o : R2) (s : State) : Out :=
  run (closing false (update (fun s =>
    let v := s.xr o.b
    let l := Lease.ofNat v.toNat
    match s.gang with
    | none => s.finish o.a minusOne
    | some g =>
      if bitsOf v.toNat 40 24 = 0 ∧ l.ok s.hart.prio.toNat ∧ ¬(isReduced s ∧ 4 < l.min) then
        (arbitrateGang s.hart.pid g.age (s.modGang g.age (fun g => { g with min := l.min, pref := l.pref, prio := l.prio }))).finish
          o.a g.lease.word
      else s.finish o.a minusOne))) s

/-- This member arrives (R94). -/
def Gang.arrive (id : Nat) (g : Gang) : Gang := { g with arrived := g.arrived ++ [id] }

/-- R94: a gang-scope release. -/
def execGarrive (a : XReg) (s : State) : Out :=
  run (closing true (update (fun s =>
    match s.gang with
    | none => s.finish a 0
    | some g =>
      if g.arrived.contains s.hart.id then s.await .arrive
      else (settlePhase g.age (s.modGang g.age (Gang.arrive s.hart.id))).finish a (g.phase.setWidth 64)))) s

/-- Whether a phase that a hart waits for is complete (R94). -/
def phasePassed (phase : BitVec 32) (v : Word) : Bool :=
  let d := phase - v.setWidth 32
  !(d == 0 || decide (2 ^ 31 < d.toNat))

/-- R94: a gang-scope acquire. -/
def execGwait (o : R2) (s : State) : Out :=
  run (closing false (update (fun s =>
    match s.gang with
    | none => s.finish o.a 0
    | some g => if phasePassed g.phase (s.xr o.b) then s.finish o.a (g.phase.setWidth 64) else s.await .phase))) s

/-- Whether HJOIN of a hart is refused (R91). -/
def joinRefused (s : State) (h : Hart) : Bool :=
  h.detached || h.id == 0 || h.id == s.hart.id || (match h.claim with
    | some c => c != s.hart.id
    | none => false)

/-- R91. -/
def execHjoin (o : R2) (s : State) : Out :=
  run (closing false (update (fun s =>
    let v := s.xr o.b
    match s.findHart s.hart.pid v.toNat with
    | none => s.finish o.a minusOne
    | some h =>
      if joinRefused s h then s.finish o.a minusOne
      else if h.status = .ended then (s.modHartOf h.pid h.id (fun h => { h with status := .absent, claim := none })).finish o.a 0
      else (s.modHartOf h.pid h.id (fun g => { g with claim := some s.hart.id })).await (.join h.id)))) s

end Sys2Proof.Machine
end

