-- ==== Sys2Proof/Machine/Sha.lean ====
section
/-! DEFINITION. SHA-256, which the measurement registers, the reports and the boot ROM use (R357 to R359). The manual names the function
and does not give it: PRESUMED, as FIPS 180-4 defines it (log entry 7). -/

namespace Sys2Proof.Machine

/-- A big-endian number from bytes. -/
def beNat (bs : List Byte) : Nat := bs.foldl (fun v b => v * 256 + b.toNat) 0

/-- The n big-endian bytes of a number. -/
def beBytes : Nat → Nat → List Byte
  | 0, _ => []
  | n + 1, v => BitVec.ofNat 8 (v / 256 ^ n) :: beBytes n v

/-! ## Constants: the fractional parts of roots of the first primes -/

/-- The greatest r with r ^ k at most n, among r₀ and what n bits below can add to it. -/
def rootBits (k target : Nat) : Nat → Nat → Nat
  | 0, r => r
  | n + 1, r => rootBits k target n (if (r + 2 ^ n) ^ k ≤ target then r + 2 ^ n else r)

/-- The first 32 bits of the fractional part of the k-th root of a number. -/
def rootFraction (k n : Nat) : BitVec 32 := BitVec.ofNat 32 (rootBits k (n * 2 ^ (32 * k)) 38 0)

/-- The 64 primes up to 311. -/
def shaPrimes : List Nat :=
  (List.range 312).filter (fun n => decide (2 ≤ n) && [2, 3, 5, 7, 11, 13, 17].all (fun d => n == d || n % d != 0))

/-! ## One block -/

/-- The working variables: (a, b, c, d) and (e, f, g, h). -/
structure ShaVars where
  a : BitVec 32
  b : BitVec 32
  c : BitVec 32
  d : BitVec 32
  e : BitVec 32
  f : BitVec 32
  g : BitVec 32
  h : BitVec 32
  deriving DecidableEq, Repr

def ShaVars.words (v : ShaVars) : List (BitVec 32) := [v.a, v.b, v.c, v.d, v.e, v.f, v.g, v.h]

def ShaVars.ofWords (l : List (BitVec 32)) : ShaVars :=
  let at_ := fun i => l.getD i 0
  ⟨at_ 0, at_ 1, at_ 2, at_ 3, at_ 4, at_ 5, at_ 6, at_ 7⟩

/-- The exclusive or of three rotations. -/
def turns (x : BitVec 32) (i j k : Nat) : BitVec 32 := [i, j, k].foldl (fun v n => v ^^^ x.rotateRight n) 0

/-- The exclusive or of two rotations and a shift. -/
def turnsShift (x : BitVec 32) (i j k : Nat) : BitVec 32 := x.rotateRight i ^^^ x.rotateRight j ^^^ (x >>> k)

/-- Where x is 1 the bits of y, else those of z. -/
def choose (x y z : BitVec 32) : BitVec 32 := z ^^^ (x &&& (y ^^^ z))

/-- The bit that two of three have. -/
def majority (x y z : BitVec 32) : BitVec 32 := (x &&& y) ||| (z &&& (x ||| y))

/-- One round, with the sum of its constant and its message word. -/
def ShaVars.round (v : ShaVars) (kw : BitVec 32) : ShaVars :=
  let t := kw + v.h + turns v.e 6 11 25 + choose v.e v.f v.g
  { a := t + turns v.a 2 13 22 + majority v.a v.b v.c, b := v.a, c := v.b, d := v.c, e := v.d + t, f := v.e, g := v.f, h := v.g }

/-- The window of 16 message words moved on by one. -/
def slide (w : List (BitVec 32)) : List (BitVec 32) :=
  w.drop 1 ++ [turnsShift (w.getD 14 0) 17 19 10 + w.getD 9 0 + turnsShift (w.getD 1 0) 7 18 3 + w.getD 0 0]

/-- The rounds, a constant each, over the window. -/
def shaRounds : List Nat → List (BitVec 32) → ShaVars → ShaVars
  | [], _, v => v
  | p :: ps, w, v => shaRounds ps (slide w) (v.round (rootFraction 3 p + w.getD 0 0))

/-- The digest so far with one block of 64 bytes taken in. -/
def shaAbsorb (digest : List (BitVec 32)) (block : List Byte) : List (BitVec 32) :=
  let w := (List.range 16).map (fun i => BitVec.ofNat 32 (beNat ((block.drop (4 * i)).take 4)))
  List.zipWith (· + ·) digest (shaRounds shaPrimes w (ShaVars.ofWords digest)).words

/-! ## The whole message -/

/-- A message with a 1 bit, zeros up to 56 bytes of a block, and its length in bits. -/
def shaPadded (bs : List Byte) : List Byte :=
  let n := bs.length
  bs ++ (0x80 :: List.replicate (63 - (n + 8) % 64) 0) ++ beBytes 8 (8 * n)

/-- SHA-256 of a message. -/
def sha256 (bs : List Byte) : List Byte :=
  let m := shaPadded bs
  let blocks := (List.range (m.length / 64)).map (fun i => (m.drop (64 * i)).take 64)
  (blocks.foldl shaAbsorb ((shaPrimes.take 8).map (rootFraction 2))).flatMap (fun w => beBytes 4 w.toNat)

/-- A measurement register extended: MR := SHA-256(MR ‖ d) (R358). -/
def extendMr (mr : BitVec 256) (d : List Byte) : BitVec 256 := BitVec.ofNat 256 (beNat (sha256 (beBytes 32 mr.toNat ++ d)))

end Sys2Proof.Machine
end

