-- ==== Sys2Proof/Machine/Start.lean ====
section
/-! DEFINITION. Start messages and the control hart (R14 to R16), and the measurement registers they extend (R358). -/

namespace Sys2Proof.Machine

/-- The partition of a job on this device; a configuration gives each its own job (R334; log entry 45). -/
def jobPart (s : State) (tag : BitVec 16) : Option Partition :=
  s.allParts.find? (fun p => p.configured && p.cfg.job == tag)

/-- A measurement register extended with a digest (R358). -/
def extend (i : Fin 4) (d : List Byte) (s : State) : State :=
  s.modDev (fun dev => { dev with mr := dev.mr.set i (extendMr dev.mr[i] d) })

/-! ## The payload (R14) -/

/-- The fields of a start payload. -/
structure Start where
  pc : Word
  arg : Word
  stack : Word
  budget : Word
  exitVa : Word
  lease : Lease
  flags : Nat
  reserved : Bool
  deriving DecidableEq, Repr

def Start.ofBytes (bs : List Byte) : Start :=
  let r := leNat bs
  let d := bitsOf r 320 64
  { pc := dwordAt r 0, arg := dwordAt r 8, stack := dwordAt r 16, budget := dwordAt r 24, exitVa := dwordAt r 32
    lease := Lease.ofNat d, flags := bitsOf d 40 8, reserved := bitsOf d 48 16 != 0 || bitsOf r 384 128 != 0 }

/-! ## The reply (R15) -/

/-- The status byte that a start message receives (R15). -/
def startStatus (s : State) (m : Start) : Byte :=
  if s.dev.jobState s.part.cfg.job ≠ .running then 0x02
  else if s.allHarts.any (fun h => h.pid == s.part.cfg.pid && h.id == 0 && h.isLive) then 0x03
  else if m.reserved ∨ 2 ≤ m.flags ∨ m.lease.ok 3 = false ∨ m.pc.getLsbD 0 ∨ m.exitVa.toNat % 8 ≠ 0 then 0x04
  else if isReduced s ∧ (4 < m.lease.min ∨ m.flags = 1) then 0x05
  else 0x00

def reply (job : BitVec 16) (status : Byte) (s : State) : State :=
  s.modDev (fun d => { d with outbox := d.outbox ++ [.startReply job status] })

/-! ## The control hart (R16) -/

/-- The control hart of a start message (R16). -/
def controlHart (s : State) (hall : Nat) (m : Start) : Hart :=
  let st : Strip := { Strip.zero with pc := m.pc, x := ((Vector.replicate 32 (0 : Word)).set 1 m.arg).set 2 m.stack }
  let slot := freeSlot s hall
  { Hart.absent with
    pid := s.part.cfg.pid, serial := s.part.nextSerial, status := if slot.isSome then .ready else .off .slot, mode := .supervisor
    live := st, ckpt := st, ptroot := s.part.cfg.ptroot, prio := BitVec.ofNat 2 m.lease.prio, cybud := m.budget, hall := hall
    slot := slot, spread := m.flags == 1, exitVa := m.exitVa, gkey := s.part.nextAge }

/-- The gang of the control hart (R16, R85). -/
def controlGang (s : State) (hall : Nat) (m : Start) : Gang :=
  { id := 0, declared := 1, joined := 1, size := 1, hall := hall, min := m.lease.min, pref := m.lease.pref, prio := m.lease.prio
    age := s.part.nextAge, phase := 0, arrived := [], phaseGrant := none }

/-- Starts the control hart; one that ended leaves its id. -/
def startHart (m : Start) (s : State) : State :=
  let hall := s.part.cfg.halls.headD 0
  let h := controlHart s hall m
  let s := s.mapHarts (fun g => if g.pid = h.pid ∧ g.id = 0 then { g with status := .absent } else g)
  let s := s.modPart (fun p =>
    { p with gangs := p.gangs ++ [controlGang s hall m], nextAge := p.nextAge + 1, nextSerial := p.nextSerial + 1 })
  arbitrateGang h.pid h.gkey (s.addHart h)

/-- A start message to the partition of a job: its status, and where that is 0 the start, with its payload measured
(R15, R16, R358). -/
def startMessage (job : BitVec 16) (payload : List Byte) (s : State) : State :=
  match jobPart s job with
  | none => reply job 0x01 s
  | some q => s.inPart q.cfg.pid (fun s =>
      let bs := padTo 0 64 payload
      let m := Start.ofBytes bs
      let status := startStatus s m
      reply job status (if status = 0 then startHart m (extend 3 (sha256 bs) s) else s))

end Sys2Proof.Machine
end

