-- ==== Sys2Proof/Machine/Packet.lean ====
section
/-! DEFINITION. The delivery of packets (R328, R330, R333, R334) and the host's writes (R82). A refusal is a response or an
acknowledgement of length 0 (log entry 13). -/

namespace Sys2Proof.Machine

/-- Whether the destination admits a packet: its job has a partition here, and its bytes lie within that partition's memory
(R334). -/
def admitted (s : State) (p : Packet) : Option Partition :=
  (jobPart s p.job).bind (fun q => if p.addr.toNat + p.len ≤ q.cfg.memSize then some q else none)

/-- A response to the source of a packet; it leaves from die 0 (DESIGN CHOICE, log entry 50). -/
def respond (p : Packet) (kind len : Nat) (payload : List Byte) (s : State) : State :=
  s.sendAs p.job s.dev.node 0 p.src kind 1 p.addr len payload

/-! ## At the destination (R334) -/

def performRead (p : Packet) (s : State) : State :=
  match admitted s p with
  | none => respond p 2 0 [] s
  | some q =>
    let k := physKey q.cfg.pid p.addr.toNat
    if s.damagedAt k p.len then respond p 2 0 [] s.noteUncor else respond p 2 p.len (s.peek k p.len) s

/-- A write is performed and acknowledged; one to the configuration page is refused like one outside the memory (R334, R336)
(DEDUCED, log entry 43). -/
def performWrite (p : Packet) (s : State) : State :=
  match admitted s p with
  | none => respond p 4 0 [] s
  | some q =>
    if p.addr.toNat < 2 ^ 16 then respond p 4 0 [] s
    else respond p 4 p.len [] (s.poke (physKey q.cfg.pid p.addr.toNat) (padTo 0 p.len p.payload))

def performAtomic (p : Packet) (s : State) : State :=
  let d := leNat p.payload
  let op := bitsOf d 0 8
  let n := bitsOf d 8 8
  match admitted s p with
  | none => respond p 6 0 [] s
  | some q =>
    let k := physKey q.cfg.pid p.addr.toNat
    if p.addr.toNat < 2 ^ 16 then respond p 6 0 [] s
    else if s.damagedAt k n then respond p 6 0 [] s.noteUncor
    else
      let old := s.peekNat k n
      let s := match atomicNew op n old (bitsOf d 16 (8 * n)) (bitsOf d (16 + 8 * n) (8 * n)) with
        | some v => s.pokeNat k n v
        | none => s
      respond p 6 n (leBytes n old) s

/-! ## At the source (R333) -/

/-- Whether a packet answers a request of a kind: responses of one device come in the order in which it performs the requests
(R330). -/
def answers (kind : Byte) (p : Packet) (r : Request) : Bool :=
  r.job == p.job && r.node == p.src && r.kind == kind && r.addr == p.addr

/-- The oldest request that a packet answers, taken from those that await an answer. -/
def takeRequest (kind : Byte) (p : Packet) (s : State) : Option (Request × State) :=
  (s.dev.outstanding.find? (answers kind p)).map (fun r =>
    (r, s.modDev (fun d => { d with outstanding := d.outstanding.erase r })))

/-- The bytes of a response, or its refusal, put by for the one who asked. -/
def gather (r : Request) (p : Packet) (got : List (Nat × List Byte)) (no : List Nat) : List (Nat × List Byte) × List Nat :=
  if p.len = 0 then (got, no ++ [r.key]) else ((r.key, p.payload) :: got, no)

/-- A hart receives the response that it asked for: a waiting access is issued again with it, and an atomic is complete. A response
that the hart no longer awaits is discarded (R333, R334, R351). -/
def Hart.receive (r : Request) (p : Packet) (h : Hart) : Hart :=
  if h.asked ≠ some r.num then h
  else
    let g := gather r p h.reply h.refused
    let h := { h with asked := none, reply := g.1, refused := g.2 }
    match h.status with
    | .waiting (.remote _ _) => { h with status := .ready }
    | .waiting (.atomic _ n rd) => if p.len = 0 then { h with status := .ready } else h.answer rd (atomicResult n (leNat p.payload))
    | _ => h

/-- The running promotion of a block receives what it asked for (R236). -/
def Promotion.receive (r : Request) (p : Packet) (pr : Promotion) : Promotion :=
  if pr.asked ≠ some r.num then pr
  else
    let g := gather r p pr.reply pr.refused
    { pr with asked := none, reply := g.1, refused := g.2 }

/-- The end of a command receives a table entry that it asked for (R157, R333). -/
def Completion.receive (r : Request) (p : Packet) (c : Completion) : Completion :=
  if c.asked ≠ some r.num then c
  else
    let g := gather r p c.reply c.refused
    { c with asked := none, reply := g.1, refused := g.2 }

/-- A host write receives a table entry that it asked for (R157, R333). -/
def HostWork.receive (r : Request) (p : Packet) (w : HostWork) : HostWork :=
  if w.asked ≠ some r.num then w
  else
    let g := gather r p w.reply w.refused
    { w with asked := none, reply := g.1, refused := g.2 }

/-- The ends of commands that wait go on where they may, and with them the slots of their launches (R78, R306, R333). -/
def settleCompletions (s : State) : State :=
  let s := s.part.completions.foldl (fun s c => settleCompletion c s) s
  (s.part.launches.map (·.handle)).foldl (fun s h => tryFree h s) s

/-- What the issuing hart waits for behind its stores goes on where it may (DEDUCED, log entry 28). -/
def settleStores (s : State) : State :=
  match s.hart.status with
  | .waiting .acks => s.modHart (fun h => { h with status := .ready })
  | .waiting (.ending v) => endAfterStores v s
  | _ => s

/-- An acknowledgement retires a store of the issuing hart, or the marking of a leaf (R161); a refused one posts UNCOR (R333, R334). Which
address the entry gives R338 does not say: the packet's, at the destination (DESIGN CHOICE, log entry 13). -/
def ackHart (r : Request) (refused : Bool) (s : State) : State :=
  if s.hart.acks.contains (r.node, r.num) then
    let s := s.modHart (fun h => { h with acks := h.acks.erase (r.node, r.num) })
    let s := if refused then postHart false 2 Cause.uncor.code r.addr 0 0 s else s
    settleStores s.drain
  else s

/-- The response to a read or an atomic comes to the issuing hart: the acknowledgement of a marked leaf, or what the hart asked for; a
hart that ends goes on with it (R161, R333). -/
def answerHart (r : Request) (p : Packet) (s : State) : State :=
  if s.hart.acks.contains (r.node, r.num) then ackHart r (decide (p.len = 0)) s
  else
    let s := s.modHart (Hart.receive r p)
    match s.hart.status with
    | .waiting (.ending v) => endAfterStores v s
    | _ => s

/-- A refused write of an engine: a completion word is as one that is not written (R364), and its copy as faulted; else UNCOR at the
address (R334). -/
def engineRefused (b : Issuer) (word : Option (Word × Word)) (addr : Word) (s : State) : State :=
  match word with
  | none => postEngine false 2 Cause.uncor.code b addr 0 s
  | some (v1, va) =>
    (postEngine false 2 Cause.uncor.code b v1 va s).modPart (fun q =>
      { q with copies := q.copies.map (fun c => if c.by_ = b ∧ c.handle.setWidth 64 = v1 then { c with state := .faulted } else c) })

/-- The acknowledgement of an engine's payload: the end of its command goes on, and the releases of its hart (R78, R333). -/
def ackPayload (pid : PartId) (b : Issuer) (refused : Bool) (addr : Word) (s : State) : State :=
  (s.inPart pid (fun s => settleCompletions (if refused then engineRefused b none addr s else s))).asHart pid b.hart
    (fun s => if s.hart.serial = b.serial then settleStores s else s)

/-- An acknowledgement, by the writer it goes to (R334). Of a refused exit word the entry is one of kind 10 with the cause UNCOR: R90 has
the entry, and R338 does not give UNCOR with it (DESIGN CHOICE, log entry 13). -/
def performAck (p : Packet) (s : State) : State :=
  let refused := decide (p.len = 0)
  match takeRequest 3 p s with
  | none => s
  | some (r, s) =>
    match r.from_ with
    | .hart id _ => s.asHart r.pid id (ackHart r refused)
    | .engine b none => ackPayload r.pid b refused p.addr s
    | .engine b word => if refused then s.inPart r.pid (engineRefused b word p.addr) else s
    | .exit id seq va v => if refused then s.inPart r.pid (post false ⟨10, Cause.uncor.code, id, seq, va, v, 0⟩) else s
    | _ => s

/-! ## The host (R82) -/

/-- Where a byte of a host write goes: through the root that the configuration table gives (log entry 19), with the tables of another
device that have come for it. -/
def HostWork.place (w : HostWork) (a : Nat) (s : State) : Except XErr Loc :=
  engineXlate (s.withReply w.reply w.refused) { Issuer.none with root := s.part.cfg.ptroot } .store (word a)

/-- Performs host writes in the order in which they came, piece by piece in ascending order, up to a piece whose translation needs a
table on another device; at most n turns. A write reaches the host-shared pages of the partition here (log entry 19). -/
def hostTurns : Nat → State → State
  | 0, s => s
  | n + 1, s =>
    match s.part.hostWork with
    | [] => s
    | w :: ws =>
      match w.pieces with
      | [] => hostTurns n (s.modPart (fun q => { q with hostWork := ws }))
      | (a, m) :: rest =>
        let go := fun (s : State) =>
          s.modPart (fun q => { q with hostWork := { w with pieces := rest, bytes := w.bytes.drop m } :: ws })
        match w.place a s with
        | .ok loc => hostTurns n (go (if loc.hs && !isRemote loc.key then s.poke loc.key (w.bytes.take m) else s))
        | .error (.remote k l) =>
          if w.asked.isSome then s
          else
            let num := s.dev.nextReq
            (s.request .host 0 k 1 l []).modPart (fun q => { q with hostWork := { w with asked := some num } :: ws })
        | .error _ => hostTurns n (go s)

/-- The host's writes go on where they may. -/
def settleHost (s : State) : State := hostTurns ((s.part.hostWork.map (fun w => w.pieces.length + 1)).sum) s

/-- A host write to the partition of its job. -/
def performHostWrite (p : Packet) (s : State) : State :=
  match jobPart s p.job with
  | some q => s.inPart q.cfg.pid (fun s => settleHost (s.modPart (fun q =>
      { q with hostWork := q.hostWork ++ [⟨spanOf p.addr.toNat p.payload.length, p.payload, none, [], []⟩] })))
  | none => s

/-- The response to a read or an atomic goes to the one who asked (R333). -/
def performResponse (kind : Byte) (p : Packet) (s : State) : State :=
  match takeRequest kind p s with
  | none => s
  | some (r, s) =>
    match r.from_ with
    | .hart id _ => s.asHart r.pid id (answerHart r p)
    | .promotion _ => s.inPart r.pid (fun s => s.modPart (fun q => { q with promotions := q.promotions.map (Promotion.receive r p) }))
    | .completion _ => s.inPart r.pid (fun s => settleCompletions (s.modPart (fun q =>
        { q with completions := q.completions.map (Completion.receive r p) })))
    | .host => s.inPart r.pid (fun s => settleHost (s.modPart (fun q => { q with hostWork := q.hostWork.map (HostWork.receive r p) })))
    | _ => s

/-! ## Delivery -/

/-- What a packet does where it is delivered. One for the management endpoint is left with it. -/
def perform (p : Packet) (s : State) : State :=
  match p.kind.toNat with
  | 1 => performRead p s
  | 2 => performResponse 1 p s
  | 3 => performWrite p s
  | 4 => performAck p s
  | 5 => performAtomic p s
  | 6 => performResponse 5 p s
  | 7 => performHostWrite p s
  | 8 => startMessage p.job p.payload s
  | 11 => s.modDev (fun d => { d with mgmt := d.mgmt ++ [p] })
  | _ => s

def streamOf (p : Packet) : BitVec 16 × BitVec 16 × BitVec 2 := (p.job, p.src, p.vc)

/-- Performs the packet that is next in its stream (R330). -/
def performNext (p : Packet) (s : State) : State :=
  perform p (s.modDev (fun d => { d with rxSeq := assocSet d.rxSeq (streamOf p) (p.seq + 1) }))

/-- Held packets whose turn has come, at most n of them. -/
def deliverHeld : Nat → State → State
  | 0, s => s
  | n + 1, s =>
    match s.dev.rxHeld.find? (fun p => p.seq == assocGet s.dev.rxSeq (streamOf p) 0) with
    | none => s
    | some p => deliverHeld n (performNext p (s.modDev (fun d => { d with rxHeld := d.rxHeld.erase p })))

/-- A packet arrives: it is performed in its sequence, and held back where it is early (R330). -/
def deliver (p : Packet) (s : State) : State :=
  let next := assocGet s.dev.rxSeq (streamOf p) 0
  if p.seq = next then
    let s := performNext p s
    deliverHeld s.dev.rxHeld.length s
  else if next.ult p.seq then s.modDev (fun d => { d with rxHeld := d.rxHeld ++ [p] })
  else s

end Sys2Proof.Machine
end

