-- ==== Sys2Proof/Machine/Fabric.lean ====
section
/-! DEFINITION. The gang switch (R344 to R353): what this device does for a job, the management packets by which the devices of a job
agree, and the FAB instructions. -/

namespace Sys2Proof.Machine

/-! ## Jobs -/

def State.jobOf (s : State) (tag : BitVec 16) : Option Job := s.dev.jobs.find? (fun j => j.tag == tag)

def Job.fresh (tag : BitVec 16) : Job :=
  { tag := tag, state := .running, ctrl := 0, by_ := Issuer.none, recVa := 0, intr := false, cword := 0, cval := 0, home := 0
    offNodes := [], reports := [], back := [], stopped := false, marked := [], swept := [], late := [], full := false
    overflow := false }

/-- A job as the device knows it; one that was never switched is RUNNING (R347). -/
def State.job (s : State) (tag : BitVec 16) : Job := (s.jobOf tag).getD (Job.fresh tag)

def State.setJob (s : State) (j : Job) : State :=
  s.modDev (fun d => { d with jobs := d.jobs.filter (fun k => k.tag != j.tag) ++ [j] })

/-- The other devices of a job and their save areas, as the configuration gives them (R344, R346). -/
def jobDevices (s : State) (tag : BitVec 16) : List JobDevice :=
  ((s.allParts.flatMap (·.cfg.jobNodes)).find? (fun n => n.1 == tag)).elim [] (·.2)

/-- The devices of a job (R344). -/
def jobNodes (s : State) (tag : BitVec 16) : List (BitVec 16) :=
  ((jobDevices s tag).map (·.node) ++ (if (jobPart s tag).isSome then [s.dev.node] else [])).eraseDups

/-- The links that are up and have another device of a job at their other end: the inputs that stay open for its sweep (R348). -/
def openLinks (s : State) (tag : BitVec 16) : List PortRef :=
  ((s.dev.ports.filter (fun p => p.up && decide (p.ref.k.toNat < 10))).map (·.ref)).filter (fun ref =>
    s.dev.peers.any (fun r => r.1 == ref && r.2 != s.dev.node && (jobNodes s tag).contains r.2))

/-- Whether the markers of all three VCs have arrived on every open input. -/
def sweepDone (s : State) (j : Job) : Bool :=
  (openLinks s j.tag).all (fun ref => j.marked.contains (ref, 0) && j.marked.contains (ref, 1) && j.marked.contains (ref, 2))

/-! ## The sweep (R349) -/

def portCode (r : PortRef) : Nat := 16 * r.die.toNat + r.k.toNat

def sweptKey (r : Swept) : Nat := 4 * portCode r.port + r.packet.vc.toNat

/-- A record put into its place: ascending port code, then ascending VC, then arrival order. -/
def insertSwept (r : Swept) : List Swept → List Swept
  | [] => [r]
  | q :: qs => if sweptKey r < sweptKey q then r :: q :: qs else q :: insertSwept r qs

/-- What is left of a start message that is refused on its way: a packet that does nothing and keeps the place in its sequence
(R330, R353) (DESIGN CHOICE, log entry 42). -/
def husk (p : Packet) : Packet := if p.kind = 8 then { p with kind := 0 } else p

/-- Whether a packet of a job is removed by its sweep: all but start messages, which are refused (R349, R353). -/
def isSwept (tag : BitVec 16) (p : Packet) : Bool := p.job == tag && p.kind != 8 && p.kind != 0

/-- The packets of a job in the routers: the input buffers, link and gallery, what is on its way into them, and the local egress
queues. -/
def routerPackets (s : State) (tag : BitVec 16) : List Swept :=
  s.dev.ports.flatMap (fun p => (p.buffer.filter (isSwept tag)).map (fun q => ⟨p.ref, q⟩)) ++
    s.dev.entering.filter (fun r => isSwept tag r.packet) ++
    (s.dev.egress.filter (fun e => isSwept tag e.2)).map (fun e => ⟨⟨e.1, 10⟩, e.2⟩)

/-- The start messages of a job in the routers. -/
def startsHeld (s : State) (tag : BitVec 16) : List Packet :=
  (s.dev.ports.flatMap (·.buffer) ++ s.dev.entering.map (·.packet)).filter (fun p => p.job == tag && p.kind == 8)

/-- The routers without the packets that a sweep removes; of a start message of the job only its place is left. -/
def dropPackets (tag : BitVec 16) (d : Device) : Device :=
  let left := fun (p : Packet) => if p.job = tag then husk p else p
  { d with
    egress := d.egress.filter (fun e => !isSwept tag e.2)
    entering := (d.entering.filter (fun r => !isSwept tag r.packet)).map (fun r => { r with packet := left r.packet })
    ports := d.ports.map (fun p => { p with buffer := (p.buffer.filter (fun q => !isSwept tag q)).map left }) }

/-- The markers sent on every VC of the links to devices of the job (R328, R348). A marker crosses one hop and is in no stream: the
destination and the sequence number in its header, of which the manual says nothing, are 0 (DESIGN CHOICE, log entry 42). -/
def markersTo (s : State) (tag : BitVec 16) : List (PortRef × Packet) :=
  (openLinks s tag).flatMap (fun ref => [(0 : BitVec 2), 1, 2].map (fun vc => (ref, ⟨tag, s.dev.node, 0, 10, vc, 0, 0, 0, []⟩)))

/-- The injection of a job stops here: its packets leave the routers, start messages are refused, and its markers go out
(R348, R349, R353). -/
def stopJob (j : Job) (s : State) : State :=
  let swept := (routerPackets s j.tag).foldl (fun l r => insertSwept r l) j.swept
  let starts := startsHeld s j.tag
  let s := s.modDev (fun d => { dropPackets j.tag d with sent := d.sent ++ markersTo s j.tag })
  starts.foldl (fun s p => reply p.job 0x02 s) (s.setJob { j with stopped := true, swept := swept })

/-! ## The save area (R349) -/

/-- The payload flits of a packet, 60 content bytes each (R328). -/
def payloadFlits (p : Packet) : Nat := (p.payload.length - 28 + 59) / 60

/-- A flit: 60 bytes of content and their CRC (R327). -/
def flit (bs : List Byte) : List Byte := padTo 0 60 bs ++ leBytes 4 (crc32c (padTo 0 60 bs)).toNat

def headerBytes (p : Packet) : List Byte :=
  leBytes 2 p.job.toNat ++ leBytes 2 p.src.toNat ++ leBytes 2 p.dst.toNat ++ [p.kind] ++
    leBytes 1 (p.vc.toNat + 4 * payloadFlits p) ++ leBytes 8 p.seq.toNat ++ leBytes 8 p.addr.toNat ++ leBytes 4 p.len ++
    leBytes 4 0 ++ p.payload.take 28

/-- The flits of a packet as sent, header flit first. -/
def packetFlits (p : Packet) : List Byte :=
  flit (headerBytes p) ++ (List.range (payloadFlits p)).flatMap (fun i => flit ((p.payload.drop (28 + 60 * i)).take 60))

def sweptBytes (r : Swept) : List Byte :=
  padTo 0 64 (leBytes 1 (portCode r.port) ++ leBytes 1 r.packet.vc.toNat ++ leBytes 1 (1 + payloadFlits r.packet)) ++
    padTo 0 320 (packetFlits r.packet)

def JobState.code : JobState → Nat
  | .running => 0
  | .switching => 1
  | .out => 2
  | .resuming => 3
  | .dead => 4

/-- The egress queue and the gallery input of each die. -/
def innerPorts : List PortRef := [0, 1, 2, 3].flatMap (fun d => [⟨d, 10⟩, ⟨d, 11⟩])

/-- The inputs swept, as the bits of +24: the open links, and the egress queues and gallery inputs. -/
def sweptInputs (s : State) (tag : BitVec 16) : Nat :=
  ((openLinks s tag ++ innerPorts).map portCode).eraseDups.foldl (fun v c => v ||| 2 ^ c) 0

/-- Writes the save area of a job into the memory of its partition here (DEDUCED, log entry 24). -/
def writeJobArea (j : Job) (s : State) : State :=
  match jobPart s j.tag with
  | none => s
  | some q =>
    let base := physKey q.cfg.pid q.cfg.saveBase
    let head := leBytes 4 1 ++ leBytes 1 j.state.code ++ leBytes 1 0 ++ leBytes 2 s.dev.node.toNat ++ leBytes 2 j.tag.toNat ++
      leBytes 2 0 ++ leBytes 4 j.swept.length ++ leBytes 4 j.late.length ++ leBytes 4 q.cfg.lateCap ++
      leBytes 8 (sweptInputs s j.tag) ++ List.replicate 32 0
    let s := s.poke base head
    let s := (j.swept.zipIdx).foldl (fun s r => s.poke (base + 64 + 384 * r.2) (sweptBytes r.1)) s
    (j.late.zipIdx).foldl (fun s r => s.poke (base + 64 + 384 * (1024 + r.2)) (sweptBytes r.1)) s

/-- Whether a save area of some size holds what a switch may need with a late capacity (R346). -/
def areaHolds (cap size : Nat) : Bool := decide (64 + 384 * (1024 + cap) ≤ size)

/-- The base of the first save area of a job's devices that is too small (R346). -/
def smallArea (s : State) (tag : BitVec 16) : Option Nat :=
  match jobPart s tag with
  | some q =>
    if areaHolds q.cfg.lateCap q.cfg.saveSize then
      ((jobDevices s tag).find? (fun d => !areaHolds d.lateCap d.saveSize)).map (·.saveBase)
    else some q.cfg.saveBase
  | none => ((jobDevices s tag).find? (fun d => !areaHolds d.lateCap d.saveSize)).map (·.saveBase)

/-! ## Management packets between the devices of a job (R348, R350, R351; log entry 20)

The device on which the command is issued is the job's home. Each packet carries an operation, the job's tag, and what the operation
needs. -/

/-- The operations of the packets. -/
inductive JobOp where
  /-- From the home: switch out. -/
  | switchOut
  /-- From the home: resume. -/
  | resume
  /-- To the home: the harts of the job are off here. -/
  | hartsOff
  /-- The counts of a device: to the home when its sweep is done or its late list grows, and on to the others. -/
  | counts
  /-- To the home: the re-injection is finished here. -/
  | back
  /-- From the home: all harts are off; injection stops. -/
  | stop
  /-- From the home: the job is OUT, or DEAD. -/
  | isOut
  /-- From the home: the job is RUNNING. -/
  | isRunning
  /-- To the home: the partition of the job, which was DEAD, is reconfigured here. -/
  | reconfigured
  deriving DecidableEq, Repr

def JobOp.code : JobOp → Nat
  | .switchOut => 0
  | .resume => 1
  | .hartsOff => 2
  | .counts => 3
  | .back => 4
  | .stop => 6
  | .isOut => 7
  | .isRunning => 8
  | .reconfigured => 9

/-- Sends an operation to a device. -/
def sendJob (op : JobOp) (tag : BitVec 16) (more : List Byte) (dst : BitVec 16) (s : State) : State :=
  s.sendAs 0 s.dev.node 0 dst 11 2 0 (3 + more.length) (leBytes 1 op.code ++ leBytes 2 tag.toNat ++ more)

/-- Sends an operation to every other device of a job. -/
def tellJob (op : JobOp) (tag : BitVec 16) (more : List Byte) (s : State) : State :=
  ((jobNodes s tag).filter (· != s.dev.node)).foldl (fun s n => sendJob op tag more n s) s

def flagByte (b : Bool) : List Byte := leBytes 1 (if b then 1 else 0)

def Counts.bytes (c : Counts) : List Byte := leBytes 2 c.node.toNat ++ leBytes 2 c.swept ++ leBytes 2 c.late ++ flagByte c.full

def Counts.ofBytes (bs : List Byte) : Counts :=
  let n := leNat bs
  ⟨BitVec.ofNat 16 n, bitsOf n 16 16, bitsOf n 32 16, n.testBit 48⟩

/-- The counts of this device (R348). -/
def ownCounts (s : State) (j : Job) : Counts := ⟨s.dev.node, j.swept.length, j.late.length, j.full⟩

/-! ## What this device does for a job -/

/-- Whether every hart of a job's partition here is off its hall (R348). -/
def jobHartsOff (s : State) (tag : BitVec 16) : Bool :=
  match jobPart s tag with
  | none => true
  | some q => s.allHarts.all (fun h => h.pid != q.cfg.pid || !h.isLive || (match h.status with
      | .off .job => true
      | .off (.launch _) => true
      | _ => false))

/-- Whether a pre-emption of a partition by the management plane is in progress: a hart of it has still to leave (R9). -/
def leaving (s : State) (p : PartId) : Bool := s.allHarts.any (fun h => h.pid == p && h.isLive && h.preempt == some .managed)

/-- The same of a job's partition here: a switch of the job waits for its end (R10). -/
def jobLeaves (s : State) (tag : BitVec 16) : Bool := (jobPart s tag).elim false (fun q => leaving s q.cfg.pid)

/-- Harts that wait for a change of a job's state issue again. -/
def wakeJob (s : State) : State := s.mapHarts (fun h => if h.status = .waiting .job then h.reissue else h)

/-- The harts of a job's partition here are asked to leave. Tasks of a launch that is saved or parked stay with their launch
(R348, R353). -/
def jobLeave (tag : BitVec 16) (s : State) : State :=
  match jobPart s tag with
  | none => s
  | some q => yieldHalls q.cfg.halls
      ((s.allHarts.filter (fun h => h.pid == q.cfg.pid && h.isLive)).foldl (fun s h => requestOff .job h s) s)

/-- The job is SWITCHING on this device. One that a marker has stopped before keeps what it has swept. -/
def beginSwitch (j : Job) (s : State) : State :=
  let j := if j.stopped then j else { j with marked := [], swept := [], late := [], full := false }
  jobLeave j.tag (s.setJob { j with state := .switching, offNodes := [], reports := [], back := [], overflow := false })

/-- Injection stops on a device of the job, unless it has stopped before (R348). -/
def stopNow (tag : BitVec 16) (s : State) : State :=
  let j := s.job tag
  if j.stopped ∨ (jobPart s tag).isNone then s else stopJob j s

/-- At the home: a device has reported its harts off; once all have, injection stops everywhere (R348). -/
def noteOff (tag node : BitVec 16) (s : State) : State :=
  let j := s.job tag
  let j := { j with offNodes := j.offNodes.filter (· != node) ++ [node] }
  let s := s.setJob j
  if (jobNodes s tag).all (fun n => j.offNodes.contains n) then stopNow tag (tellJob .stop tag [] s) else s

/-- The completion of a switch command: its word, and its entry in the interrupt queue of the partition that issued it (R348, R351).
Where the word cannot be written, v1 is the address of the command's record (R364). -/
def completeJob (j : Job) (kind : Nat) (s : State) : State :=
  let val := if j.overflow then 0x8000000000000000 ||| Cause.lateovf.code.setWidth 64 else j.cval
  let cause := if j.overflow then Cause.lateovf.code else 0
  s.inPart j.ctrl (finishCommand
    (Completion.of j.by_ j.cword val j.recVa 0 (if j.intr then some (kind, cause, j.tag.setWidth 64) else none)))

/-- The job is OUT on this device, or DEAD where a late list has overflowed; its save area is written. -/
def jobOut (tag : BitVec 16) (dead : Bool) (s : State) : State :=
  let j := { s.job tag with state := if dead then .dead else .out, overflow := dead }
  wakeJob (writeJobArea j (s.setJob j))

/-- At the home: where every device has reported its sweep, the job is OUT, or DEAD, and the command completes (R348). -/
def trySwitched (tag : BitVec 16) (s : State) : State :=
  let j := s.job tag
  if (jobNodes s tag).all (fun n => j.reports.any (fun c => c.node == n)) then
    let s := jobOut tag j.overflow (tellJob .isOut tag (flagByte j.overflow) s)
    completeJob (s.job tag) 6 s
  else s

def Job.note (c : Counts) (j : Job) : Job := { j with reports := j.reports.filter (fun d => d.node != c.node) ++ [c] }

/-- At the home: the counts of a device, which the other devices are told. A late list that has overflowed posts to the controlling
partition, once for a device, and a job that is OUT is then DEAD (R350). -/
def noteCounts (tag : BitVec 16) (c : Counts) (s : State) : State :=
  let j := s.job tag
  let new := c.full && !j.reports.any (fun d => d.node == c.node && d.full)
  let s := tellJob .counts tag c.bytes (s.setJob { j.note c with overflow := j.overflow || c.full })
  let s := if new then s.inPart j.ctrl (postLate tag) else s
  if j.state = .switching then trySwitched tag s
  else if new then jobOut tag true (tellJob .isOut tag (flagByte true) s)
  else s

/-- This device reports its counts: its sweep is done, or its late list has grown since (R348, R350). -/
def reportCounts (tag : BitVec 16) (s : State) : State :=
  let j := s.job tag
  let c := ownCounts s j
  if j.home = s.dev.node then noteCounts tag c s
  else sendJob .counts tag c.bytes j.home (s.setJob (j.note c))

/-- Whether this device has reported. -/
def Job.reported (j : Job) (node : BitVec 16) : Bool := j.reports.any (fun c => c.node == node)

/-- Whether a stopped job still sweeps its inputs. -/
def Job.sweeping (j : Job) : Bool := j.state == .running || j.state == .switching

/-- A packet that comes too late: appended, or dropped where the list is full; the first that is dropped posts to the job's partition
(R350). -/
def appendLate (r : Swept) (s : State) : State :=
  let tag := r.packet.job
  let j := s.job tag
  let cap := (jobPart s tag).elim 0 (·.cfg.lateCap)
  if j.full then s
  else
    let s := if j.late.length < cap then s.setJob { j with late := j.late ++ [r] }
      else
        let s := s.setJob { j with full := true, overflow := true, state := if j.sweeping then j.state else .dead }
        match jobPart s tag with
        | some q => s.inPart q.cfg.pid (postLate tag)
        | none => s
    let s := if j.sweeping then s else writeJobArea (s.job tag) s
    if j.reported s.dev.node then reportCounts tag s else s

/-- A packet of a job that has been stopped here: swept where its input is open and its marker has not come, else late
(R349, R350) (DEDUCED, log entry 42). -/
def stoppedPacket (port : PortRef) (p : Packet) (s : State) : State :=
  let j := s.job p.job
  if j.sweeping ∧ (openLinks s j.tag).contains port ∧ j.marked.contains (port, p.vc) = false then
    s.setJob { j with swept := insertSwept ⟨port, p⟩ j.swept }
  else appendLate ⟨port, p⟩ s

/-- A packet in the buffer of an input. -/
def toBuffer (port : PortRef) (p : Packet) (s : State) : State :=
  s.modDev (fun d => { d with ports := d.ports.map (fun q => if q.ref = port then { q with buffer := q.buffer ++ [p] } else q) })

def State.portOf (s : State) (r : PortRef) : Option Port := s.dev.ports.find? (fun p => p.ref == r)

/-- The packets that an input holds at most on a VC: 6 of a link, 8 of a gallery (R329). -/
def inputDepth (r : PortRef) : Nat := if r.k = 11 then Config.galleryDepth else 6

/-- The packets of a VC in the buffer of an input. -/
def Port.count (p : Port) (vc : BitVec 2) : Nat := (p.buffer.filter (fun q => q.vc == vc)).length

/-- A packet as if it had just arrived on its input (R351): one for this device is performed, one for another stays in the buffer
of the input, and one of the egress queue goes back there. -/
def reinject (r : Swept) (s : State) : State :=
  if r.port.k = 10 then s.modDev (fun d => { d with egress := d.egress ++ [(r.port.die, r.packet)] })
  else if r.packet.dst = s.dev.node then deliver r.packet s
  else toBuffer r.port r.packet s

/-- Whether there is room for a packet on the VC of its input or egress queue (R329). -/
def hasRoom (s : State) (r : Swept) : Bool :=
  if r.port.k = 10 then decide (s.dev.egressCount r.port.die r.packet.vc < Config.egressDepth)
  else r.packet.dst == s.dev.node ||
    (s.portOf r.port).elim true (fun q => decide (q.count r.packet.vc < inputDepth r.port))

/-- Whether a packet waits for another: of its job at the same router, or on its input and VC (R351) (DEDUCED, log entry 42). -/
def waitsBehind (q r : Swept) : Bool :=
  q.port.die == r.port.die && (q.packet.job == r.packet.job || (q.port == r.port && q.packet.vc == r.packet.vc))

/-- The packets of a list, in order, that may enter their routers do; the others are left. -/
def enterAll : List Swept → List Swept → State → State × List Swept
  | left, [], s => (s, left)
  | left, r :: rest, s =>
    if hasRoom s r ∧ left.all (fun q => !waitsBehind q r) then enterAll left rest (reinject r s)
    else enterAll (left ++ [r]) rest s

/-- The halls of a job's partition here are arbitrated. -/
def arbitrateJob (tag : BitVec 16) (s : State) : State :=
  match jobPart s tag with
  | none => s
  | some q => q.cfg.halls.foldl (fun s hall => arbitrate hall s) s

/-- The harts of a job's partition wait for their slots again. -/
def restoreHarts (tag : BitVec 16) (s : State) : State :=
  match jobPart s tag with
  | none => s
  | some q => arbitrateJob tag (s.mapHarts (fun h =>
      if h.pid = q.cfg.pid ∧ h.status = .off .job then { h with status := .off .slot } else h))

/-- The injection of a job that resumes is admitted, and its harts return, once its packets have entered the routers again (R351). -/
def readmit (tag : BitVec 16) (s : State) : State :=
  let j := s.job tag
  if j.state = .resuming ∧ j.stopped ∧ s.dev.entering.all (fun r => r.packet.job != tag) then
    restoreHarts tag ((s.setJob { j with stopped := false, marked := [] }).modDev Device.refill)
  else s

/-- What waits to enter a router does so where it may, and jobs whose packets all have are readmitted (R329, R351). -/
def settleEntering (s : State) : State :=
  let r := enterAll [] s.dev.entering (s.modDev (fun d => { d with entering := [] }))
  let s := r.1.modDev (fun d => { d with entering := r.2 })
  (s.dev.jobs.map (·.tag)).foldl (fun s t => readmit t s) s

/-- The job is RESUMING on this device: its packets are re-injected, swept before late, as there is room for them; then its injection is
admitted and its harts return (R351). -/
def beginResume (j : Job) (s : State) : State :=
  let s := s.setJob { j with state := .resuming, back := [] }
  if (jobPart s j.tag).isNone then s
  else settleEntering ((s.modDev (fun d => { d with entering := d.entering ++ j.swept ++ j.late })).setJob
    { j with state := .resuming, back := [], stopped := true })

/-- The job is RUNNING on this device. -/
def jobRuns (tag : BitVec 16) (s : State) : State :=
  arbitrateJob tag (wakeJob (s.setJob { s.job tag with state := .running }))

/-- At the home: where every device has finished its re-injection, the job is RUNNING, and the command completes (R351). -/
def tryResumed (tag : BitVec 16) (s : State) : State :=
  let j := s.job tag
  if (jobNodes s tag).all (fun n => j.back.contains n) then completeJob j 7 (jobRuns tag (tellJob .isRunning tag [] s)) else s

/-- At the home: a device has finished its re-injection. -/
def noteBack (tag node : BitVec 16) (s : State) : State :=
  let j := s.job tag
  tryResumed tag (s.setJob { j with back := j.back.filter (· != node) ++ [node] })

/-! ## The command as it is accepted, and as it reaches another device -/

/-- GSWITCH is accepted: the job is SWITCHING, and every other device of it is told (R348). -/
def switchOut (j : Job) (s : State) : State := tellJob .switchOut j.tag [] (beginSwitch j s)

/-- GRESUME is accepted: the job is RESUMING, and every other device of it is told (R351). -/
def resumeJob (j : Job) (s : State) : State := beginResume j (tellJob .resume j.tag [] s)

/-- At the home: a device has reconfigured its partition of a DEAD job. Once all have, the job is DEAD no longer (R347). -/
def noteReconfigured (tag node : BitVec 16) (s : State) : State :=
  let j := s.job tag
  let back := j.back.filter (· != node) ++ [node]
  if (jobNodes s tag).all back.contains then s.modDev (fun d => { d with jobs := d.jobs.filter (fun k => k.tag != tag) })
  else s.setJob { j with back := back }

/-- An operation of a job arrives from a device; one that the job's state does not admit is dropped. -/
def doJobOp (op : Nat) (tag src : BitVec 16) (more : List Byte) (s : State) : State :=
  let j := s.job tag
  let here := (jobPart s tag).isSome
  match op with
  | 0 => if here ∧ j.state = .running then beginSwitch { j with home := src } s else s
  | 1 => if here ∧ j.state = .out then beginResume { j with home := src } s else s
  | 2 => if j.home = s.dev.node ∧ j.state = .switching then noteOff tag src s else s
  | 3 =>
    let c := Counts.ofBytes more
    if j.home = s.dev.node then noteCounts tag c s else if c.node = s.dev.node then s else s.setJob (j.note c)
  | 4 => if j.home = s.dev.node ∧ j.state = .resuming then noteBack tag src s else s
  | 6 => if here ∧ j.state = .switching then stopNow tag s else s
  | 7 => if here ∧ (j.state = .switching ∨ j.state = .out) then jobOut tag (more.headD 0 != 0) s else s
  | 8 => if here ∧ j.state = .resuming then jobRuns tag s else s
  | 9 => if j.home = s.dev.node ∧ j.state = .dead then noteReconfigured tag src s else s
  | _ => s

/-- Whether a packet for the management endpoint carries an operation of a job. -/
def isJobOp (p : Packet) : Bool := p.job == 0 && decide (3 ≤ p.payload.length ∧ leNat (p.payload.take 1) ≤ 9)

/-- Whether an operation is a command that waits: a pre-emption of the job's partition here is in progress (R10). -/
def opWaits (s : State) (p : Packet) : Bool :=
  decide (leNat (p.payload.take 1) < 2) && jobLeaves s (BitVec.ofNat 16 (leNat ((p.payload.drop 1).take 2)))

/-- What has reached the management endpoint: operations of jobs are done, and the rest is left with it (R328). -/
def settleMgmt (s : State) : State :=
  s.dev.mgmt.foldl (fun s p =>
    if isJobOp p ∧ opWaits s p = false then
      doJobOp (leNat (p.payload.take 1)) (BitVec.ofNat 16 (leNat ((p.payload.drop 1).take 2))) p.src (p.payload.drop 3) s
    else s.modDev (fun d => { d with mgmt := d.mgmt ++ [p] })) (s.modDev (fun d => { d with mgmt := [] }))

/-! ## The instructions (R344 to R347) -/

/-- A switch record: its address, its tag, INTR, its completion word and value (R345). -/
structure SwitchRec where
  va : Word
  tag : BitVec 16
  intr : Bool
  cword : Word
  cval : Word
  deriving DecidableEq, Repr

/-- The completion word of a record, translated for store (R346) (DEDUCED, log entry 42). -/
def checkCword (a : Word) : M Unit := do
  check (a.toNat % 8 == 0) .align a
  check (a != 0) .page a
  let _ ← engineTranslate .store a.toNat

/-- The checks on a record, in the order of R346. -/
def switchRecord (a : Word) : M SwitchRec := do
  check (a.toNat % 32 == 0) .align a
  let bs ← engineRead a.toNat 32
  let r := leNat bs
  let cword := dwordAt r 8
  checkCword cword
  let tag := BitVec.ofNat 16 r
  let s ← get
  check (tag != 0 && s.part.cfg.ctrlTags.contains tag && bitsOf r 17 47 == 0 && bitsOf r 190 2 == 0 && bitsOf r 192 64 == 0)
    .jobhandle (tag.setWidth 64)
  match smallArea s tag with
  | some base => trap .savearea (word base)
  | none => pure ()
  pure ⟨a, tag, r.testBit 16, cword, dwordAt r 16⟩

/-- The job of an accepted command: this device is its home. -/
def takeJob (r : SwitchRec) (s : State) (b : Issuer) : Job :=
  { s.job r.tag with
    ctrl := s.part.cfg.pid, by_ := b, recVa := r.va, intr := r.intr, cword := r.cword, cval := r.cval, home := s.dev.node }

/-- A switch command: JSTATE, or a wait for the state that admits it and for the end of a pre-emption of the job's partition, or its
acceptance (R10, R346, R347). -/
def switchOp (w : BitVec 32) (a : Word) (fails waits : JobState → Bool) (accept : Job → State → State) (s : State) : Out :=
  engineOp w (do
    needSupervisor w
    let r ← switchRecord a
    let st ← read (fun s => (s.job r.tag).state)
    let busy ← read (fun s => jobLeaves s r.tag)
    check (!fails st) .jstate (r.tag.setWidth 64)
    enter .fab (
      if waits st then queueUp .fab .job
      else if busy then queueUp .fab (.leaving r.tag)
      else do
        let b ← takeIn .fab
        update (fun s => (accept (takeJob r s b) s).complete))) s

/-- R347, R348. -/
def execGswitch (b : XReg) (s : State) : Out :=
  switchOp (eBx 0x36#6 0#10 b) (s.xr b) (fun st => st = .switching || st = .out || st = .dead) (fun st => st = .resuming) switchOut s

/-- R347, R351. -/
def execGresume (b : XReg) (s : State) : Out :=
  switchOp (eBx 0x36#6 1#10 b) (s.xr b) (fun st => st = .running || st = .resuming || st = .dead) (fun st => st = .switching)
    resumeJob s

/-- A count summed over a job's devices: this device's own as it stands, the others' as they have reported them (R352; log
entry 18). -/
def overDevices (s : State) (j : Job) (own : Nat) (f : Counts → Nat) : Nat :=
  ((jobNodes s j.tag).map (fun n =>
    if n = s.dev.node then own else ((j.reports.find? (fun c => c.node == n)).map f).getD 0)).sum

/-- The value that FBSTAT returns (R352). -/
def jobField (s : State) (tag : BitVec 16) (sel : Word) : Word :=
  let j := s.job tag
  match sel.toNat with
  | 0 => word j.state.code
  | 1 => word (jobNodes s tag).length
  | 2 => if j.state = .running ∨ j.state = .switching then 0 else word (overDevices s j j.swept.length (·.swept))
  | 3 => word (overDevices s j j.late.length (·.late))
  | 4 => s.part.cfg.node.setWidth 64
  | _ => minusOne

/-- R352: the issuing partition's own job is admitted too (R346). -/
def execFbstat (o : R3) (s : State) : Out :=
  engineOp (eR3 0x36#6 2#10 o) (do
    let v := s.xr o.b
    let tag : BitVec 16 := v.setWidth 16
    let t ← get
    check (tag.setWidth 64 == v && tag != 0 && (t.part.cfg.ctrlTags.contains tag || t.part.cfg.job == tag)) .jobhandle v
    enter .fab (do
      let t ← get
      takeAndAnswer .fab o.a (jobField t tag (s.xr o.c)))) s

end Sys2Proof.Machine
end

