-- ==== Sys2Proof/Machine/EvFabric.lean ====
section
/-! DEFINITION. The events of the fabric: packets that arrive, ports and links, and the course of a gang switch. An event that cannot
be in the present state changes nothing (log entry 3). -/

namespace Sys2Proof.Machine

/-! ## Ports -/

def State.modPort (s : State) (r : PortRef) (f : Port → Port) : State :=
  s.modDev (fun d => { d with ports := d.ports.map (fun p => if p.ref = r then f p else p) })

def Port.credit (p : Port) (vc : BitVec 2) : Nat := p.credits.toList.getD vc.toNat 0

def Port.setCredit (p : Port) (vc : BitVec 2) (n : Nat) : Port := { p with credits := p.credits.setIfInBounds vc.toNat n }

/-- Whether a packet may be sent through a port: a link needs a credit of its neighbour, and a gallery input a free place (R329). -/
def Port.admits (p : Port) (vc : BitVec 2) : Bool :=
  p.up && (if p.ref.k = 11 then decide (p.count vc < Config.galleryDepth) else decide (0 < p.credit vc))

/-! ## Routes (R331) -/

/-- The link through which packets for a device leave: a destination has one route. -/
def routeOf (s : State) (dst : BitVec 16) : Option PortRef := (s.dev.routes.find? (fun x => x.1 == dst)).map (·.2)

/-- The die after one on the way to another over the ring of galleries: a neighbour at once, the opposite die in ascending order. -/
def nextDie (a b : BitVec 2) : BitVec 2 := if b = a - 1 then a - 1 else a + 1

/-- Where a packet at a die goes next: through its link on that die, or into the gallery input of the next die. -/
def nextHop (s : State) (die : BitVec 2) (p : Packet) : Option PortRef :=
  (routeOf s p.dst).map (fun r => if r.die = die then r else ⟨nextDie die r.die, 11⟩)

/-! ## Injection limits (R341) -/

/-- Whether the bucket of a packet's partition for a port ever holds its flits: a rate of 0 blocks the port, and so does a burst below
the packet. How fast a bucket fills is timing (log entry 4). -/
def bucketHolds (s : State) (r : PortRef) (p : Packet) : Bool :=
  (jobPart s p.job).all (fun q =>
    let l := q.cfg.limits.toNat
    let i := if r.k = 11 then 0 else 16
    decide (bitsOf l i 16 ≠ 0 ∧ 1 + payloadFlits p ≤ bitsOf l (32 + i) 16))

/-- Whether a packet at a die may enter a port now. -/
def maySend (s : State) (r : PortRef) (die : BitVec 2) (p : Packet) : Bool :=
  nextHop s die p == some r && !s.dev.halted p.job && bucketHolds s r p && (s.portOf r).elim false (fun q => q.admits p.vc)

/-! ## Packets on the move (R329) -/

/-- A packet enters a port: a link takes it away with a credit, and a gallery input holds it. -/
def sendOut (r : PortRef) (p : Packet) (s : State) : State :=
  if r.k = 11 then toBuffer r p s
  else (s.modPort r (fun q => q.setCredit p.vc (q.credit p.vc - 1))).modDev (fun d => { d with sent := d.sent ++ [(r, p)] })

/-- The packets of a device with the die they lie at: the inputs' first, then the egress queues'. -/
def waitingPackets (s : State) : List (BitVec 2 × Packet) :=
  s.dev.ports.flatMap (fun p => p.buffer.map (fun q => (p.ref.die, q))) ++ s.dev.egress

/-- A packet taken out of the input or the egress queue of a die where it waits. -/
def takePacket (die : BitVec 2) (p : Packet) (d : Device) : Device :=
  if d.ports.any (fun q => q.ref.die == die && q.buffer.contains p) then
    { d with ports := d.ports.map (fun q => if q.ref.die = die then { q with buffer := q.buffer.erase p } else q) }
  else { d with egress := d.egress.erase (die, p) }

/-- The first packet of some that may enter a port does; what waits for its place moves up, and its sources' packets (R329, R351). -/
def moveOn (r : PortRef) (ok : Packet → Bool) (s : State) : State :=
  match (waitingPackets s).find? (fun e => ok e.2 && maySend s r e.1 e.2) with
  | none => s
  | some e => (settleEntering (sendOut r e.2 (s.modDev (takePacket e.1 e.2)))).modDev Device.refill

/-- R327: a replay changes only timing. -/
def execFlitReplay (_port : PortRef) (s : State) : Out := .next s

/-- R329: a credit comes back; the first packet that waits for it goes on. -/
def execCredit (r : PortRef) (vc : BitVec 2) (s : State) : Out :=
  .next (moveOn r (fun p => p.vc == vc)
    (if r.k = 11 then s else s.modPort r (fun p => p.setCredit vc (Nat.min (inputDepth r) (p.credit vc + 1)))))

/-- R341: the first packet for a port enters it. -/
def execInjectionAdmit (r : PortRef) (s : State) : Out := .next (moveOn r (fun _ => true) s)

/-- R326: a link trains at four lanes, or it is down. -/
def execLinkTraining (r : PortRef) (lanes : BitVec 4) (s : State) : Out :=
  let up : Bool := lanes == 0xF
  .next (
    if 10 ≤ r.k.toNat then s
    else if (s.portOf r).isSome then
      s.modPort r (fun p => if up ∧ p.up = false then { p with up := true, credits := Vector.replicate 3 6 } else { p with up := up })
    else s.modDev (fun d => { d with ports := d.ports ++ [⟨r, up, Vector.replicate 3 (if up then 6 else 0), []⟩] }))

/-- R353: a link goes down, and with it its input. -/
def execLinkDown (r : PortRef) (s : State) : Out :=
  .next (if 10 ≤ r.k.toNat then s else s.modPort r (fun p => { p with up := false }))

/-! ## Packets that arrive -/

/-- A packet for another device lies in the buffer of its input; where there is no room it is still on its way (R329). -/
def transit (port : PortRef) (p : Packet) (s : State) : State :=
  settleEntering (s.modDev (fun d => { d with entering := d.entering ++ [⟨port, p⟩] }))

/-- A packet goes on: to this device, or to another. -/
def passOn (port : PortRef) (p : Packet) (s : State) : State := if p.dst = s.dev.node then deliver p s else transit port p s

/-- A packet comes in at a port. While its job is not RUNNING a start message is refused at once, and what is left of it keeps the
place in its sequence (R353); while the job's injection is stopped any other packet is swept or late, or comes after those that are
re-injected (R349, R350, R351). -/
def comeIn (port : PortRef) (p : Packet) (s : State) : State :=
  let j := s.job p.job
  if p.kind = 8 ∧ (jobPart s p.job).isSome ∧ j.state ≠ .running then passOn port (husk p) (reply p.job 0x02 s)
  else if p.kind = 0 ∨ j.stopped = false then passOn port p s
  else if j.state = .resuming then transit port p s
  else stoppedPacket port p s

/-- A packet of a kind arrives on its VC. -/
def arrive (kind : Byte) (vc : BitVec 2) (port : PortRef) (p : Packet) (s : State) : Out :=
  .next (if p.kind = kind ∧ p.vc = vc then settleMgmt (comeIn port p s) else s)

/-- R334. -/
def execRead (a : Arrival) (s : State) : Out := arrive 1 0 a.port a.packet s
/-- R333. -/
def execReadResponse (a : Arrival) (s : State) : Out := arrive 2 1 a.port a.packet s
/-- R334. -/
def execWrite (a : Arrival) (s : State) : Out := arrive 3 0 a.port a.packet s
/-- R333. -/
def execWriteAcknowledgement (a : Arrival) (s : State) : Out := arrive 4 1 a.port a.packet s
/-- R334. -/
def execAtomic (a : Arrival) (s : State) : Out := arrive 5 0 a.port a.packet s
/-- R333. -/
def execAtomicResponse (a : Arrival) (s : State) : Out := arrive 6 1 a.port a.packet s
/-- R82, R353. -/
def execHostWrite (a : Arrival) (va : Word) (data : List Byte) (s : State) : Out := arrive 7 2 a.port (a.packet.carrying va data) s
/-- R15. -/
def execStartMessage (port : PortRef) (p : Packet) (s : State) : Out := arrive 8 2 port p s
/-- R328: a packet for the endpoint, or an operation of a gang switch (log entry 20). -/
def execManagement (a : Arrival) (s : State) : Out := arrive 11 2 a.port a.packet s

/-! ## The gang switch -/

/-- What an event does to a job that this device knows. -/
def onJob (tag : BitVec 16) (f : Job → State → State) (s : State) : Out :=
  .next (match s.jobOf tag with
    | some j => f j s
    | none => s)

/-- R348: a marker ends the sweep of its input on its VC; one that comes before the command stops the injection. -/
def execMarker (tag : BitVec 16) (port : PortRef) (vc : BitVec 2) (s : State) : Out :=
  let j := s.job tag
  .next (
    if (jobPart s tag).isSome = false ∨ j.sweeping = false ∨ (openLinks s tag).contains port = false then s
    else
      let s := if j.stopped then s
        else stopJob (if j.state = .running then { j with marked := [], swept := [], late := [], full := false, overflow := false } else j) s
      let j := s.job tag
      s.setJob { j with marked := j.marked ++ [(port, vc)] })

/-- R348: this device reports the job's harts off; once all devices have, injection stops. A command of another device that had to
wait for a partition's pre-emption here is done first (R10). -/
def execHartsOff (tag node : BitVec 16) (s : State) : Out :=
  onJob tag (fun j s =>
    if j.state = .switching ∧ node = s.dev.node ∧ (jobNodes s tag).contains node ∧
        j.offNodes.contains node = false ∧ jobHartsOff s tag then
      if j.home = node then noteOff tag node s
      else sendJob .hartsOff tag [] j.home (s.setJob { j with offNodes := j.offNodes ++ [node] })
    else s) (settleMgmt s)

/-- R348: this device's sweep is done, and it reports; at the home, the job is OUT once all devices have. -/
def execJobSwitchedOut (tag : BitVec 16) (s : State) : Out :=
  onJob tag (fun j s =>
    if j.state ≠ .switching then s
    else if (jobPart s tag).isSome then
      if j.stopped ∧ jobHartsOff s tag ∧ sweepDone s j ∧ j.reported s.dev.node = false then reportCounts tag s else s
    else if j.home = s.dev.node then trySwitched tag s
    else s) s

/-- R350. -/
def execLatePacket (port : PortRef) (p : Packet) (s : State) : Out :=
  onJob p.job (fun j s => if j.stopped ∧ p.kind ≠ 8 then stoppedPacket port p s else s) s

/-- R351: this device has finished its re-injection; at the home, the job is RUNNING once all devices have. -/
def execJobResumed (tag : BitVec 16) (s : State) : Out :=
  onJob tag (fun j s =>
    if j.state ≠ .resuming ∨ j.stopped then s
    else if j.home = s.dev.node then
      if (jobPart s tag).isSome then noteBack tag s.dev.node s else tryResumed tag s
    else if j.back.contains s.dev.node then s
    else sendJob .back tag [] j.home (s.setJob { j with back := j.back ++ [s.dev.node] })) s

end Sys2Proof.Machine
end

