-- ==== Sys2Proof/Machine/Frontier.lean ====
section
/-! DEFINITION. The frontier engine (R297 to R319). -/

namespace Sys2Proof.Machine

/-! ## The launch record (R297, R298) -/

/-- The fields of a launch record. -/
structure LaunchRec where
  dims : Nat
  ndeps : Nat
  prio : Nat
  flags : Nat
  lease : Lease
  ext : Nat × Nat × Nat
  deps : List (Int × Int × Int)
  pc : Word
  arg : Word
  saveVa : Word
  cwordVa : Word
  cval : Word
  budget : Word
  reserved : Bool
  deriving DecidableEq, Repr

def LaunchRec.ofNat (r : Nat) : LaunchRec :=
  let d := bitsOf r 0 64
  let dep := fun j =>
    (signedOf 8 (bitsOf r (256 + 24 * j) 8), signedOf 8 (bitsOf r (264 + 24 * j) 8), signedOf 8 (bitsOf r (272 + 24 * j) 8))
  { dims := bitsOf d 0 8, ndeps := bitsOf d 8 8, prio := bitsOf d 16 8, flags := bitsOf d 24 8
    lease := ⟨bitsOf d 32 16, bitsOf d 48 16, bitsOf d 16 8⟩
    ext := (bitsOf r 64 64, bitsOf r 128 64, bitsOf r 192 64), deps := (List.range 4).map dep
    pc := dwordAt r 48, arg := dwordAt r 56, saveVa := dwordAt r 64, cwordVa := dwordAt r 72, cval := dwordAt r 80
    budget := dwordAt r 88, reserved := bitsOf r 352 32 != 0 || bitsOf r 768 256 != 0 }

def LaunchRec.rows (r : LaunchRec) : Nat :=
  if r.dims ≤ 1 then 1 else if r.dims = 2 then r.ext.2.1 else r.ext.2.1 * r.ext.2.2

def LaunchRec.areaSize (r : LaunchRec) : Nat := 320 + 16 * r.rows
def LaunchRec.taskCount (r : LaunchRec) : Nat := r.flags % 16 + 1

def extentOk (dims k e : Nat) : Bool := if k < dims then decide (1 ≤ e ∧ e < 2 ^ 21) else e == 0

/-- R297. -/
def LaunchRec.fieldsOk (r : LaunchRec) (ceiling : Nat) : Bool :=
  decide (1 ≤ r.dims ∧ r.dims ≤ 3 ∧ r.ndeps ≤ 4 ∧ r.prio ≤ 3 ∧ r.flags < 32) && r.lease.ok ceiling &&
  extentOk r.dims 0 r.ext.1 && extentOk r.dims 1 r.ext.2.1 && extentOk r.dims 2 r.ext.2.2 &&
  decide (r.rows ≤ 4096) && !r.reserved && !r.pc.getLsbD 0 && bitsOf r.saveVa.toNat 0 6 == 0 && r.cwordVa != 0 &&
  bitsOf r.cwordVa.toNat 0 3 == 0 && bitsOf r.cval.toNat 62 2 == 0 &&
  !decide (r.saveVa.toNat < r.cwordVa.toNat + 8 ∧ r.cwordVa.toNat < r.saveVa.toNat + r.areaSize)

def componentOk (d : Int) : Bool := decide (-8 ≤ d ∧ d ≤ 8)

/-- The first component that is not zero, from dimension 2 down, is positive. -/
def lexPositive (d : Int × Int × Int) : Bool :=
  if d.2.2 ≠ 0 then decide (0 < d.2.2) else if d.2.1 ≠ 0 then decide (0 < d.2.1) else decide (0 < d.1)

/-- R298. -/
def LaunchRec.depsOk (r : LaunchRec) : Bool :=
  (r.deps.take r.ndeps).all (fun d =>
    componentOk d.1 && componentOk d.2.1 && componentOk d.2.2 && (decide (2 ≤ r.dims) || d.2.1 == 0) &&
      (decide (3 ≤ r.dims) || d.2.2 == 0) && lexPositive d) &&
  (r.deps.drop r.ndeps).all (fun d => d == (0, 0, 0))

/-- Translates a range for store; a device page fails with PROT (R309). -/
def launchPages : List (Nat × Nat) → M (List (Nat × Nat))
  | [] => pure []
  | (a, n) :: rest => do
    let loc ← engineTranslate .store a
    check (!loc.dev) .prot (word a)
    let more ← launchPages rest
    pure ((loc.key, n) :: more)

/-! ## FLAUNCH (R304, R310) -/

def launchHandle (gen slot : Nat) : Slot := BitVec.ofNat 32 (3 * 2 ^ 30 + gen % 2 ^ 22 * 2 ^ 8 + slot)

/-- The lowest free launch slot (R306). -/
def freeLaunchSlot (p : Partition) : Option Nat :=
  (List.range 256).find? (fun i => p.launches.all (fun l => bitsOf l.handle.toNat 0 8 != i))

/-- The T lowest free hart ids (R304); none where there are fewer. -/
def freeTaskIds (s : State) (n : Nat) : Option (List Nat) :=
  let ids := (((List.range (Config.maxHarts - 1)).map (· + 1)).filter (fun i => (hartsOf s).all (fun h => h.id != i))).take n
  if ids.length = n ∧ (hartsOf s).length + n ≤ Config.maxHarts then some ids else none

/-- The spawn of a task hart (R304). -/
def LaunchRec.spawnRec (r : LaunchRec) (handle : Slot) : SpawnRec :=
  { pc := r.pc, arg0 := r.arg, arg1 := handle.setWidth 64, stack := 0, lease := r.lease, size := 1, spread := false
    detached := true, super := false, gang := 0, hallIdx := 0xFFFF, budget := r.budget, exitVa := 0, reserved := false }

/-- A launch with an empty stair table and its tasks. -/
def newLaunch (handle : Slot) (b : Issuer) (r : LaunchRec) (pages : List (Nat × Nat)) (cword : Loc) (ids : List Nat) : Launch :=
  { handle := handle, by_ := b, dims := r.dims, deps := r.deps.take r.ndeps, ext := r.ext, prio := r.prio
    intr := r.flags.testBit 4, saveVa := r.saveVa, savePages := pages, cwordKey := cword.key, cwordHs := cword.hs
    cwordVa := r.cwordVa, cval := r.cval, state := .running, rows := List.replicate r.rows (0, 0)
    tasks := ids.map (fun i => ⟨i, none, false⟩), waiting := [], saveBy := 0, failed := false, wordWritten := false }

/-- The acceptance of a FLAUNCH (R310). -/
def launch (rd : XReg) (b : Issuer) (r : LaunchRec) (pages : List (Nat × Nat)) (cword : Loc) (s : State) : State :=
  match freeLaunchSlot s.part with
  | none => s.finish rd minusOne
  | some slot =>
    match freeTaskIds s r.taskCount with
    | none => s.finish rd (BitVec.ofInt 64 (-2))
    | some ids =>
      let h := launchHandle (assocGet s.part.launchGens slot 0) slot
      let s := s.modPart (fun p => { p with launches := p.launches ++ [newLaunch h b r pages cword ids] })
      (ids.foldl (fun s id => spawn id s.hart.hall (r.spawnRec h) s) s).finish rd (h.setWidth 64)

/-- R310. -/
def execFlaunch (o : R2) (s : State) : Out :=
  engineOp (eR2 0x35#6 0#10 o) (do
    let a := s.xr o.b
    check (a.toNat % 128 == 0) .align a
    let bs ← engineRead a.toNat 128
    let r := LaunchRec.ofNat (leNat bs)
    let t ← get
    check (r.fieldsOk t.hart.prio.toNat) .frec a
    check r.depsOk .baddep a
    let pages ← launchPages (spanOf r.saveVa.toNat r.areaSize)
    let cword ← engineTranslate .store r.cwordVa.toNat
    check (!cword.dev) .prot r.cwordVa
    enter .front (do
      let b ← takeIn .front
      update (launch o.a b r pages cword))) s

/-! ## Commands on a launch -/

/-- The launch of a handle, or FHANDLE (R306, R309). -/
def needLaunch (h : Word) : M Launch := do
  let s ← get
  match s.part.launches.find? (fun l => decide (l.handle.setWidth 64 = h)) with
  | some l => pure l
  | none => trap .fhandle h

/-- The task of the issuing hart, or FNOTASK (R309). -/
def needTask (l : Launch) : M Task := do
  let s ← get
  match l.tasks.find? (fun t => decide (t.hart = s.hart.id) && !t.ended) with
  | some t => pure t
  | none => trap .fnotask (l.handle.setWidth 64)

/-- Whether a launch is being saved, or is saved or parked. -/
def Launch.isCut (l : Launch) : Bool := l.state == .saving || l.state == .saved || l.state == .parked

/-- A command of a task: not accepted while its launch is cut, where the task is pre-empted (R307). -/
def taskCommand (l : Launch) (body : M Unit) : M Unit :=
  enter .front (if l.isCut then update (fun s => takeAway (.launch l.handle) s.hart s) else body)

/-- Another command: it waits while the launch is SAVING (R307); then FSTATE in a state that is not admitted. -/
def launchCommand (l : Launch) (admitted : List LaunchState) (body : M Unit) : M Unit := do
  check (l.state == .saving || admitted.contains l.state) .fstate (l.handle.setWidth 64)
  enter .front (if l.state = .saving then queueUp .front (.saving l.handle) else body)

def anyState : List LaunchState := [.running, .saved, .parked, .cancelling, .done]

/-- A point handed to the task of a hart (R311). -/
def Launch.give (l : Launch) (id : Nat) (p : Point) : Launch :=
  { l with
    tasks := l.tasks.map (fun t => if t.hart = id then { t with held := some p.pack } else t)
    waiting := l.waiting.filter (· ≠ id) }

/-- Whether a hart waits in a FNEXT of a launch. -/
def waitsNext (s : State) (l : Launch) (id : Nat) : Bool :=
  s.allHarts.any (fun h => h.pid == s.part.cfg.pid && h.id == id && (match h.status with
    | .waiting (.fnext k _) => k == l.handle
    | _ => false))

/-- The waiting FNEXT of a launch, in the order of their acceptance. -/
def waitingNext (s : State) (l : Launch) : List Nat := l.waiting.filter (waitsNext s l)

/-- Whether no more points are handed out (R311). -/
def Launch.over (l : Launch) : Bool := l.state == .cancelling || l.state == .done || l.exhausted

/-- The acceptance of a FNEXT (R311). -/
def fnext (rd : XReg) (l : Launch) (t : Task) (s : State) : State :=
  if t.held.isSome then s.finish rd (BitVec.ofInt 64 (-2))
  else if l.over then s.finish rd minusOne
  else
    match (waitingNext s l).filter (· ≠ s.hart.id), l.firstReady with
    | [], some p => (s.setLaunch (l.give s.hart.id p)).finish rd p.pack
    | _, _ => (s.setLaunch { l with waiting := l.waiting.filter (· ≠ s.hart.id) ++ [s.hart.id] }).await (.fnext l.handle rd)

/-- R311. -/
def execFnext (o : R2) (s : State) : Out :=
  engineOp (eR2 0x35#6 3#10 o) (do
    let l ← needLaunch (s.xr o.b)
    let t ← needTask l
    taskCommand l (do
      let _ ← takeIn .front
      update (fnext o.a l t))) s

/-- The held point is done, and the task holds none (R312). -/
def Launch.finishPoint (l : Launch) (id : Nat) (p : Point) : Launch :=
  { l.mark p with tasks := l.tasks.map (fun t => if t.hart = id then { t with held := none } else t) }

/-- R312: a device-scope release. -/
def execFdone (o : RBC) (s : State) : Out :=
  engineOp (eRBC 0x35#6 2#10 o) (do
    let l ← needLaunch (s.xr o.b)
    let t ← needTask l
    let v := s.xr o.c
    match l.unpack v with
    | some p =>
      check (t.held == some v) .fpointbad v
      taskCommand l (do
        let _ ← takeIn .front
        update (fun s => (settleLaunch l.handle (s.setLaunch (l.finishPoint s.hart.id p))).complete))
    | none => trap .fpointbad v) s

/-- R313. -/
def execFpoint (o : R3) (s : State) : Out :=
  engineOp (eR3 0x35#6 1#10 o) (do
    let l ← needLaunch (s.xr o.b)
    let v := s.xr o.c
    match l.unpack v with
    | some p => launchCommand l anyState (takeAndAnswer .front o.a (if l.isDone p then 2 else if l.handedOut p then 1 else 0))
    | none => trap .fpointbad v) s

def LaunchState.code : LaunchState → Nat
  | .running => 0
  | .saving => 1
  | .saved => 2
  | .parked => 3
  | .cancelling => 4
  | .done => 5

/-- The fields of a launch (R313). -/
def Launch.field (l : Launch) (sel : Word) : Word :=
  match sel.toNat with
  | 0 => word l.state.code
  | 1 => word l.doneCount
  | 2 => word l.holders.length
  | 3 => word (l.tasks.filter (fun t => !t.ended)).length
  | 4 => word l.points
  | 5 => word l.rows.length
  | _ => minusOne

/-- R313. -/
def execFquery (o : R3) (s : State) : Out :=
  engineOp (eR3 0x35#6 6#10 o) (do
    let l ← needLaunch (s.xr o.b)
    launchCommand l anyState (takeAndAnswer .front o.a (l.field (s.xr o.c)))) s

/-- The tasks of a launch re-enter the arbiters of their halls with their ages (R314, R318). -/
def reenter (l : Launch) (s : State) : State :=
  let halls := ((taskHarts s s.part.cfg.pid l).map (·.hall)).eraseDups
  halls.foldl (fun s h => arbitrate h s) (releaseTasks s.part.cfg.pid l.handle s)

/-- R314. -/
def execFcancel (b : XReg) (s : State) : Out :=
  engineOp (eBx 0x35#6 7#10 b) (do
    let l ← needLaunch (s.xr b)
    launchCommand l [.running, .parked] (do
      let _ ← takeIn .front
      update (fun s => (settleLaunch l.handle (reenter l (s.setLaunch { l with state := .cancelling }))).complete))) s

/-! ## Save and resume (R316 to R318) -/

def Task.bytes (t : Task) : List Byte :=
  leBytes 2 t.hart ++ leBytes 2 ((if t.held.isSome then 1 else 0) + (if t.ended then 2 else 0)) ++ leBytes 4 0 ++
    leBytes 8 ((t.held.getD 0).toNat)

def taskBytes (l : Launch) : List Byte := padTo 0 256 (l.tasks.flatMap Task.bytes)

def rowBytes (r : Nat × Word) : List Byte := leBytes 4 r.1 ++ leBytes 4 0 ++ leBytes 8 r.2.toNat

/-- The save area of a launch (R316). -/
def Launch.area (l : Launch) : List Byte :=
  leBytes 4 1 ++ leBytes 1 l.tasks.length ++ leBytes 1 l.holders.length ++ leBytes 1 l.saveBy ++ leBytes 1 0 ++
  leBytes 8 l.handle.toNat ++ leBytes 4 l.rows.length ++ leBytes 1 l.dims ++ leBytes 3 0 ++ leBytes 8 l.doneCount ++
  List.replicate 32 0 ++ taskBytes l ++ l.rows.flatMap rowBytes

/-- Writes bytes over the pages of a save area, from an offset on. -/
def writePages (b : Issuer) : List (Nat × Nat) → List Byte → State → State
  | [], _, s => s
  | (k, n) :: rest, bs, s => writePages b rest (bs.drop n) (s.engineStore b none ⟨k, none⟩ (bs.take n))

/-- Starts the save of a launch: its live tasks are asked to leave (R317). -/
def startSave (by_ : Nat) (l : Launch) (s : State) : State :=
  let s := s.setLaunch { l with state := .saving, saveBy := by_ }
  let tasks := taskHarts s s.part.cfg.pid l
  let s := tasks.foldl (fun s h => requestOff (.launch l.handle) h s) s
  (tasks.map (·.hall)).eraseDups.foldl (fun s hall => yieldHall hall s) s

/-- The saved-by byte of a parked launch rewritten (R317). -/
def parkedToSaved (l : Launch) (s : State) : State :=
  (match l.savePages with
    | (k, _) :: _ => s.engineStore l.by_ none ⟨k + 6, none⟩ [1]
    | [] => s).setLaunch { l with state := .saved, saveBy := 1 }

/-- R317: the hart issues nothing until the area is written. -/
def execFsave (b : XReg) (s : State) : Out :=
  engineOp (eBx 0x35#6 4#10 b) (do
    needSupervisor (eBx 0x35#6 4#10 b)
    let l ← needLaunch (s.xr b)
    launchCommand l [.running, .parked] (do
      let _ ← takeIn .front
      update (fun s =>
        if l.state = .parked then
          (parkedToSaved l s).complete.modHart (fun h =>
            { h with hold := if owed (parkedToSaved l s) l.by_ then some (.save l.handle) else h.hold })
        else ((startSave 1 l s).complete).modHart (fun h => { h with hold := some (.save l.handle) })))) s

/-- Whether every live task of a launch is off its hall. -/
def tasksOff (s : State) (l : Launch) : Bool :=
  (taskHarts s s.part.cfg.pid l).all (fun h => match h.status with
    | .off .slot => false
    | .off .bricks => false
    | .off _ => true
    | _ => false)

/-- Those who wait for a save area go on, once its bytes are performed (R307, R317, R333). -/
def saveReleased (l : Launch) (s : State) : State :=
  let p := s.part.cfg.pid
  if owed s l.by_ then s
  else s.mapHarts (fun h =>
    let h := if h.pid = p ∧ h.hold = some (.save l.handle) then { h with hold := none } else h
    if h.pid = p ∧ h.status = .waiting (.saving l.handle) then h.reissue else h)

/-- The save area is written (R317). -/
def saveWritten (l : Launch) (s : State) : State :=
  saveReleased l
    ((writePages l.by_ l.savePages l.area s).setLaunch { l with state := if l.saveBy = 1 then .saved else .parked })

/-- The stair-table entries of a save area. -/
def areaRows (n : Nat) (bs : List Byte) : List (Nat × Word) :=
  (List.range n).map (fun i =>
    let e := leNat ((bs.drop (320 + 16 * i)).take 16)
    (bitsOf e 0 32, word (bitsOf e 64 64)))

/-- An entry in normal form, with no bit for a column at or beyond the extent (R301, R318). -/
def rowOk (e0 : Nat) (r : Nat × Word) : Bool :=
  decide (r.1 ≤ e0) && (r.1 == e0 || !r.2.getLsbD 0) &&
    (List.range 64).all (fun i => decide (r.1 + i < e0) || !r.2.getLsbD i)

/-- The launch with the table of a save area, where the area passes the checks of R318 (DEDUCED, log entry 34). -/
def loadArea (l : Launch) (bs : List Byte) : Option Launch :=
  let n := leNat (bs.take 320)
  let rows := areaRows l.rows.length bs
  let k := { l with rows := rows }
  let zeros := bitsOf n 56 8 == 0 && bitsOf n 96 32 == 0 && bitsOf n 168 24 == 0 && bitsOf n 256 256 == 0 &&
    (List.range rows.length).all (fun i => leNat ((bs.drop (324 + 16 * i)).take 4) == 0)
  let ids := bitsOf n 0 32 == 1 && bitsOf n 32 8 == l.tasks.length && bitsOf n 64 32 == l.handle.toNat &&
    bitsOf n 128 32 == l.rows.length && bitsOf n 160 8 == l.dims
  let tasks := (bs.drop 64).take 256 == taskBytes l
  let held := l.tasks.all (fun t => (t.held.bind l.unpack).all (fun p => !k.isDone p))
  if zeros && ids && tasks && rows.all (rowOk l.e0) && held && bitsOf n 192 64 == k.doneCount then
    some { k with state := if k.failed then .cancelling else .running }
  else none

/-- Reads the pages of a save area by their kept translations. -/
def readPages (a : Nat) : List (Nat × Nat) → M (List Byte)
  | [] => pure []
  | (k, n) :: rest => do
    let bs ← fetchBytes ⟨k, none⟩ n (fun i => .trap .uncor (word (a + i)) 0)
    let more ← readPages (a + n) rest
    pure (bs ++ more)

/-- R318. -/
def execFresume (b : XReg) (s : State) : Out :=
  engineOp (eBx 0x35#6 5#10 b) (do
    needSupervisor (eBx 0x35#6 5#10 b)
    let l ← needLaunch (s.xr b)
    launchCommand l [.saved] (do
      let bs ← readPages l.saveVa.toNat l.savePages
      match loadArea l bs with
      | none => trap .frec l.saveVa
      | some k => do
        let _ ← takeIn .front
        update (fun s => (settleLaunch l.handle (reenter k (s.setLaunch k))).complete))) s

/-! ## The engine's own steps -/

/-- The first waiting FNEXT of a launch receives a ready point, or −1 (R311). -/
def serveNext (l : Launch) (s : State) : State :=
  match waitingNext s l with
  | [] => s
  | id :: _ =>
    if l.over then answerFnext id minusOne (s.setLaunch { l with waiting := l.waiting.filter (· ≠ id) })
    else match l.firstReady with
      | some p => answerFnext id p.pack (s.setLaunch (l.give id p))
      | none => s

/-- The launch that the engine parks: of those outranked where they have tasks, the one of lowest priority, of several the one
accepted last (R319). -/
def parkChoice (s : State) : Option Launch :=
  (s.part.launches.filter (fun l => l.state == .running && outranked s s.part l)).foldl (fun best l => match best with
    | none => some l
    | some k => if l.prio ≤ k.prio then some l else some k) none

end Sys2Proof.Machine
end

