-- ==== Sys2Proof/Machine/Span.lean ====
section
/-! DEFINITION. The span index engine (R268 to R291): index objects, cursors, proposals and acceptance. -/

namespace Sys2Proof.Machine

/-! ## Objects and cursors -/

/-- Whether a domain may read an object (R269). -/
def IxObj.readable (x : IxObj) (d : Slot) : Bool := x.owner == d || (x.isSealed && x.share.contains d)

/-- The bytes that the engine keeps in a page of an object's storage; the layout is its own (R271, log entry 17). -/
def IxObj.pageBytes (x : IxObj) (i : Nat) : List Byte :=
  (List.range (2 ^ 16)).map (fun j => Config.indexByte x.handle x.tokens (2 ^ 16 * i + j))

/-- The bytes of a page of storage as the command at work sees them; none while those of another device have not come (R333). -/
def storagePage (s : State) (k : Nat) : Option (List Byte) :=
  if isRemote k then s.hart.replied k (2 ^ 16) else some (s.peek k (2 ^ 16))

/-- Whether an object's storage holds what the engine put there (log entry 17). -/
def IxObj.intact (s : State) (x : IxObj) : Bool :=
  x.pages.zipIdx.all (fun p => (storagePage s p.1).all (· == x.pageBytes p.2))

/-- An object as the engine finds it in its storage: after a store there by something else its tokens depend on the store (R271; log
entry 17). -/
def IxObj.seen (s : State) (x : IxObj) : IxObj :=
  if x.intact s then x else { x with tokens := Config.indexFound x.tokens (x.pages.flatMap (fun k => (storagePage s k).getD [])) }

def objectOf (s : State) (h : Slot) : Option IxObj := (s.part.objects.find? (fun x => decide (x.handle = h))).map (IxObj.seen s)

def ixHandle (gen slot : Nat) : Slot := BitVec.ofNat 32 (2 ^ 30 + gen % 2 ^ 14 * 2 ^ 16 + slot)
def curHandle (gen slot : Nat) : Slot := BitVec.ofNat 32 (2 ^ 31 + gen % 2 ^ 16 * 2 ^ 14 + slot)
def ixSlot (h : Slot) : Nat := bitsOf h.toNat 0 16
def curSlot (h : Slot) : Nat := bitsOf h.toNat 0 14

/-- The lowest slot that no live object or cursor has (R270). -/
def freeSlotOf (used : List Nat) (n : Nat) : Option Nat := (List.range n).find? (fun i => !used.contains i)

def State.setObject (s : State) (x : IxObj) : State :=
  s.modPart (fun p => { p with objects := p.objects.map (fun y => if y.handle = x.handle then x else y) })

def State.setCursor (s : State) (c : Cursor) : State :=
  s.modPart (fun p => { p with cursors := p.cursors.map (fun d => if d.handle = c.handle then c else d) })

/-- A command of the issuing hart that the span engine accepts now. -/
def State.spanIssuer (s : State) : Issuer := s.issuer .span (s.hart.ordinal .span)

/-- The storage of an object written by the engine, after every change of the object (R271; log entry 17). -/
def touchStorage (x : IxObj) (s : State) : State :=
  x.pages.zipIdx.foldl (fun s p => s.engineStore s.spanIssuer none ⟨p.1, none⟩ (x.pageBytes p.2)) s

/-- The address of the first unreadable word of an object's storage. -/
def damagedStorage (s : State) (x : IxObj) : Option Word :=
  if s.dev.damaged.isEmpty && s.hart.refused.isEmpty then none
  else x.pages.zipIdx.findSome? (fun p =>
    (failingByte s p.1 (2 ^ 16)).map (fun i => x.base + word (2 ^ 16 * p.2 + i)))

/-- The piece of an object's storage on another device that has not come; a page with a refused byte waits for none. -/
def missingStorage (s : State) (x : IxObj) : Option (Nat × Nat) :=
  x.pages.findSome? (fun k => if isRemote k && (s.hart.refusedByte k (2 ^ 16)).isNone then s.hart.missing k (2 ^ 16) else none)

/-- The stored sequences that a command reads: a wait for what lies on another device (R333), then UNCOR at an unreadable word (R361). The
order of R273 does not name the storage of an object that exists: the check comes after the cursor, the handle and the owner, and before
the object's state and its capacity, and the commands that need a sequence or its length make it: DESIGN CHOICE (log entry 17). -/
def checkStorage (xs : List IxObj) : M Unit := do
  let s ← get
  awaitPiece (xs.findSome? (missingStorage s))
  match xs.findSome? (damagedStorage s) with
  | some a => trap .uncor a
  | none => pure ()

/-! ## Checks (R273) -/

/-- A record of n bytes, aligned to n: ALIGN, then the read. -/
def smallRecord (a : Word) (n : Nat) : M Nat := do
  check (a.toNat % n == 0) .align a
  let bs ← engineRead a.toNat n
  pure (leNat bs)

/-- Token words from bytes. -/
def wordsOf : Nat → List Byte → List Slot
  | 0, _ => []
  | n + 1, bs => BitVec.ofNat 32 (leNat (bs.take 4)) :: wordsOf n (bs.drop 4)

/-- n token words at an address: ALIGN, the read, then TOKRANGE of the lowest word at or above 2^24. Of no tokens nothing is read, and the
address is not translated: the manual does not say whether it is (R273, R274): DESIGN CHOICE (log entry 57). -/
def readTokens (a : Word) (n : Nat) : M (List Slot) := do
  check (a.toNat % 4 == 0) .align a
  let bs ← engineRead a.toNat (4 * n)
  let ts := wordsOf n bs
  match ts.find? (fun t => decide (2 ^ 24 ≤ t.toNat)) with
  | some t => trap .tokrange (t.setWidth 64)
  | none => pure ts

/-- A token run (R274). -/
def tokenRun (a : Word) : M (List Slot) := do
  let r ← smallRecord a 16
  check (decide (bitsOf r 64 64 ≤ 2 ^ 20)) .ixlimit 0
  readTokens (dwordAt r 0) (bitsOf r 64 64)

/-- Translates a range for store; a device page fails with PROT (R273). -/
def storePages : List (Nat × Nat) → M (List (Loc × Nat))
  | [] => pure []
  | (a, n) :: rest => do
    let loc ← engineTranslate .store a
    check (!loc.dev) .prot (word a)
    let more ← storePages rest
    pure ((loc, n) :: more)

/-- A live object that the issuing hart's domain may read, or IXHANDLE. -/
def needReadable (h : Word) : M IxObj := do
  let s ← get
  match s.part.objects.find? (fun x => decide (x.handle.setWidth 64 = h) && x.readable s.hart.domain) with
  | some x => pure x
  | none => trap .ixhandle h

/-- An object that the domain owns: IXHANDLE, then IXOWNER. -/
def needOwned (h : Word) : M IxObj := do
  let x ← needReadable h
  let d ← read (fun s => s.hart.domain)
  check (x.owner == d) .ixowner h
  pure x

/-- A cursor of the issuing hart's domain, or CURHANDLE. -/
def needCursor (h : Word) : M Cursor := do
  let s ← get
  match s.part.cursors.find? (fun c => decide (c.handle.setWidth 64 = h) && c.domain == s.hart.domain) with
  | some c => pure c
  | none => trap .curhandle h

/-- A SPAN instruction: the reads and their checks, then its acceptance (R272). -/
def spanOp {α : Type} (w : BitVec 32) (reads : M α) (body : α → M Unit) (s : State) : Out :=
  engineOp w (do
    let x ← reads
    enter .span (ofObjects .span (body x))) s

/-! ## Index objects -/

/-- The storage of a capacity, in bytes (R271). -/
def storageSize (cap : Nat) : Nat := (4096 + 68 * cap + 2 ^ 16 - 1) / 2 ^ 16 * 2 ^ 16

/-- An object record: its fields, and the pages of its storage translated for store (R276). -/
def objectRecord (a : Word) : M (Nat × Word × List Nat) := do
  let r ← smallRecord a 32
  let cap := bitsOf r 64 64
  check (decide (1 ≤ cap) && decide (cap ≤ 2 ^ 32) && bitsOf r 128 128 == 0) .ixlimit 0
  check (bitsOf r 0 16 == 0) .align (dwordAt r 0)
  let locs ← storePages (spanOf (bitsOf r 0 64) (storageSize cap))
  pure (cap, dwordAt r 0, locs.map (fun l => l.1.key))

/-- R276. -/
def execIxnew (o : R2) (s : State) : Out :=
  spanOp (eR2 0x34#6 0#10 o) (objectRecord (s.xr o.b)) (fun x => do
    let t ← get
    let slot? := freeSlotOf (t.part.objects.map (fun y => ixSlot y.handle)) 65536
    match slot? with
    | none => trap .ixlimit 0
    | some slot => do
      check (!t.part.objects.any (fun y => y.pages.any (fun k => x.2.2.contains k))) .ixlimit 0
      let h := ixHandle (assocGet t.part.ixGens slot 0) slot
      let obj : IxObj :=
        { handle := h, owner := t.hart.domain, isSealed := false, share := [], tokens := [], cap := x.1, base := x.2.1
          pages := x.2.2 }
      update (fun s => touchStorage obj (s.modPart (fun p => { p with objects := p.objects ++ [obj] })))
      takeAndAnswer .span o.a (h.setWidth 64)) s

/-- R277. -/
def execIxapp (o : R3) (s : State) : Out :=
  spanOp (eR3 0x34#6 1#10 o) (tokenRun (s.xr o.c)) (fun ts => do
    let h := s.xr o.b
    let x ← needOwned h
    checkStorage [x]
    let x ← read (fun s => x.seen s)
    check (!x.isSealed) .ixsealed h
    check (decide (x.tokens.length + ts.length ≤ x.cap)) .ixlimit h
    let y := { x with tokens := x.tokens ++ ts }
    update (fun s => if ts = [] then s else touchStorage y (s.setObject y))
    takeAndAnswer .span o.a (word y.tokens.length)) s

/-- Unlinks an object from the cursors that link it. -/
def unlink (h : Slot) (s : State) : State :=
  s.modPart (fun p => { p with cursors := p.cursors.map (fun c => if c.linked = some h then { c with linked := none } else c) })

/-- R278. -/
def execIxseal (o : R2) (s : State) : Out :=
  spanOp (eR2 0x34#6 2#10 o) (pure ()) (fun _ => do
    let h := s.xr o.b
    let x ← needOwned h
    checkStorage [x]
    check (!x.isSealed) .ixsealed h
    let n ← read (fun s => (x.seen s).tokens.length)
    update (fun s => unlink x.handle (s.setObject { x with isSealed := true }))
    takeAndAnswer .span o.a (word n)) s

/-- The object gone from the partition, from the slots of cursors and from their links (R279). -/
def dropObject (x : IxObj) (s : State) : State :=
  let slot := ixSlot x.handle
  (unlink x.handle s).modPart (fun p =>
    { p with
      objects := p.objects.filter (fun y => y.handle != x.handle)
      ixGens := assocSet p.ixGens slot ((assocGet p.ixGens slot 0 + 1) % 2 ^ 14)
      cursors := p.cursors.map (fun c => { c with slots := c.slots.map (fun y => if y = some x.handle then none else y) }) })

/-- R279: the hart issues nothing until no earlier command reads the storage. -/
def execIxdrop (b : XReg) (s : State) : Out :=
  spanOp (eBx 0x34#6 3#10 b) (pure ()) (fun _ => do
    let x ← needOwned (s.xr b)
    update (dropObject x)
    takeAndGo .span
    update (fun s => s.modHart (fun h => { h with hold := some .storage }))) s

/-- IXSHARE with its key operand (R280). -/
def ixshare (w : BitVec 32) (o : R3) (remove : Bool) (s : State) : Out :=
  spanOp w (check (bitsOf (s.xr o.c).toNat 33 31 == 0) .ixlimit 0) (fun _ => do
    let h := s.xr o.b
    let key : Slot := (s.xr o.c).setWidth 32
    let x ← needOwned h
    check x.isSealed .ixunsealed h
    let has := x.share.contains key || key == x.owner
    check (remove || has || decide (x.share.length < 8)) .ixlimit h
    let list := if remove then x.share.filter (· != key) else if has then x.share else x.share ++ [key]
    update (fun s => s.setObject { x with share := list })
    takeAndAnswer .span o.a (word list.length)) s

/-- R280. -/
def execIxshare (o : R3) (s : State) : Out := ixshare (eR3 0x34#6 4#10 o) o ((s.xr o.c).getLsbD 32) s

/-- R280: with bit 32 of xC set. -/
def execIxshareRemove (o : R3) (s : State) : Out := ixshare (eR3 0x34#6 4#10 o) o true s

/-! ## Cursors -/

def Cursor.fresh (h d : Slot) (linked : Option Slot) : Cursor :=
  { handle := h, domain := d, w := [], slots := Vector.replicate 4 none, linked := linked, proposal := none, mark := none
    accDrafts := 0, acceptances := 0, proposed := 0, proposals := 0, committed := 0 }

/-- The object that CURNEW links: readable, owned, unsealed; none for 0 (R282). -/
def linkedObject (h : Word) : M (Option Slot) := do
  if h = 0 then pure none
  else do
    let x ← needOwned h
    check (!x.isSealed) .ixsealed h
    pure (some x.handle)

/-- R282. -/
def execCurnew (o : R2) (s : State) : Out :=
  spanOp (eR2 0x34#6 5#10 o) (pure ()) (fun _ => do
    let linked ← linkedObject (s.xr o.b)
    let t ← get
    match freeSlotOf (t.part.cursors.map (fun c => curSlot c.handle)) 16384 with
    | none => trap .curlimit 0
    | some slot => do
      let h := curHandle (assocGet t.part.curGens slot 0) slot
      update (fun s => s.modPart (fun p => { p with cursors := p.cursors ++ [Cursor.fresh h t.hart.domain linked] }))
      takeAndAnswer .span o.a (h.setWidth 64)) s

/-- The object of a slot where the cursor's domain may read it now (R283). -/
def Cursor.useSlot (s : State) (c : Cursor) (i : Nat) : Option IxObj :=
  ((c.slots.toList.getD i none).bind (objectOf s)).filter (fun x => x.readable c.domain)

/-- The objects of a cursor's slots that its domain may read now. -/
def Cursor.attached (s : State) (c : Cursor) : List IxObj := (List.range 4).filterMap (c.useSlot s)

/-- The decision of CURATT: the cursor afterwards and the value (R283). -/
def attach (s : State) (c : Cursor) (h : Word) : Cursor × Word :=
  match s.part.objects.find? (fun x => decide (x.handle.setWidth 64 = h) && x.readable c.domain) with
  | none => (c, BitVec.ofInt 64 (-2))
  | some x =>
    match (List.range 4).find? (fun i => c.slots.toList.getD i none == some x.handle) with
    | some i => (c, word i)
    | none =>
      match (List.range 4).find? (fun i => (c.useSlot s i).isNone) with
      | none => (c, minusOne)
      | some i => ({ c with slots := c.slots.setIfInBounds i (some x.handle) }, word i)

/-- R283: the value is written when the 96 ticks have passed. -/
def execCuratt (o : R3) (s : State) : Out :=
  spanOp (eR3 0x34#6 6#10 o) (pure ()) (fun _ => do
    let c ← needCursor (s.xr o.b)
    let t ← get
    let r := attach t c (s.xr o.c)
    let _ ← takeIn .span
    update (fun s => (s.setCursor r.1).await (.curatt o.a r.2))) s

/-- How many leading tokens two lists share. -/
def commonLen : List Slot → List Slot → Nat
  | a :: as, b :: bs => if a = b then commonLen as bs + 1 else 0
  | _, _ => 0

/-- The longest suffix of W that ends at each position i of S with a token following, and the tokens from i on: prefix is S before
i, reversed (R284). -/
def occurrences (wRev : List Slot) : List Slot → List Slot → List (Nat × List Slot)
  | _, [] => []
  | prefix_, t :: ts => (Nat.min (commonLen prefix_ wRev) 65535, t :: ts) :: occurrences wRev (t :: prefix_) ts

/-- The match length of W against a sequence (R284). -/
def matchLen (w tokens : List Slot) : Nat := ((occurrences w.reverse [] tokens).map (·.1)).foldl Nat.max 0

/-- The greatest match length among the readable slots (R285). -/
def bestMatch (s : State) (c : Cursor) : Nat :=
  ((List.range 4).filterMap (fun i => (c.useSlot s i).map (fun x => matchLen c.w x.tokens))).foldl Nat.max 0

/-- R285. -/
def execCurfeed (o : R3) (s : State) : Out :=
  spanOp (eR3 0x34#6 7#10 o) (tokenRun (s.xr o.c)) (fun ts => do
    let c ← needCursor (s.xr o.b)
    checkStorage (← read (fun s => c.attached s))
    let d := if ts = [] then c else { c with w := c.w ++ ts, proposal := none, mark := none }
    update (fun s => s.setCursor d)
    let t ← get
    takeAndAnswer .span o.a (word (bestMatch t d))) s

/-! ## Proposals (R286, R287) -/

/-- A candidate continuation: match length, slot, end position and the tokens from there. -/
structure Draft where
  len : Nat
  slot : Nat
  pos : Nat
  tokens : List Slot
  deriving DecidableEq, Repr

/-- The order of R286: length descending, slot ascending, end position descending. -/
def Draft.before (a b : Draft) : Bool :=
  decide (b.len < a.len) || (decide (a.len = b.len) &&
    (decide (a.slot < b.slot) || (decide (a.slot = b.slot) && decide (b.pos ≤ a.pos))))

def insertDraft (d : Draft) : List Draft → List Draft
  | [] => [d]
  | e :: es => if d.before e then d :: e :: es else e :: insertDraft d es

def sortDrafts : List Draft → List Draft
  | [] => []
  | d :: ds => insertDraft d (sortDrafts ds)

/-- The candidates of a cursor. Of one position only its longest match is listed: a shorter one has the same next token and comes
later in the order. -/
def drafts (s : State) (c : Cursor) (lmin : Nat) : List Draft :=
  (List.range 4).flatMap (fun i => match c.useSlot s i with
    | none => []
    | some x => ((occurrences c.w.reverse [] x.tokens).zipIdx.filter (fun o => decide (lmin ≤ o.1.1))).map
        (fun o => ⟨o.1.1, i, o.2, o.1.2⟩))

/-- Keeps the candidates whose next token no kept chain begins with, up to k of them. -/
def keepChains (d : Nat) : Nat → List Draft → List Slot → List Chain
  | 0, _, _ => []
  | _, [], _ => []
  | k + 1, x :: xs, firsts =>
    match x.tokens.head? with
    | some t => if firsts.contains t then keepChains d (k + 1) xs firsts
      else ⟨x.tokens.take d, x.slot, x.len⟩ :: keepChains d k xs (t :: firsts)
    | none => keepChains d (k + 1) xs firsts

/-- The descriptor of a chain (R287). -/
def Chain.descriptor (c : Chain) : Nat := c.tokens.length + c.slot * 2 ^ 8 + c.len * 2 ^ 16

/-- The output area, which must be aligned (R273, R287; DEDUCED, log entry 40). -/
def proposalArea (cs : List Chain) : List Byte :=
  (List.range 4).flatMap (fun h => leBytes 4 ((cs[h]?.map Chain.descriptor).getD 0)) ++
  (List.range 4).flatMap (fun h => slotBytes (padTo 0 64 ((cs[h]?.map Chain.tokens).getD [])))

/-- Bytes laid over translated pieces. -/
def cellsOf : List (Loc × Nat) → List Byte → List (Nat × List Byte)
  | [], _ => []
  | (loc, n) :: rest, bs => (loc.key, bs.take n) :: cellsOf rest (bs.drop n)

/-- A proposal record: its limits, and its output area translated for store (R286). -/
def proposalRecord (a : Word) : M (Nat × List (Loc × Nat)) := do
  let r ← smallRecord a 16
  let k := bitsOf r 64 8
  let d := bitsOf r 72 8
  check (decide (1 ≤ k ∧ k ≤ 4 ∧ 1 ≤ d ∧ d ≤ 64 ∧ 1 ≤ bitsOf r 80 16 ∧ bitsOf r 96 32 = 0)) .ixlimit 0
  check (bitsOf r 0 4 == 0) .align (dwordAt r 0)
  let locs ← storePages (spanOf (bitsOf r 0 64) 1040)
  pure (r, locs)

/-- R286, R287: the hart issues nothing until the output is written. -/
def execCurprop (o : R3) (s : State) : Out :=
  spanOp (eR3 0x34#6 8#10 o) (proposalRecord (s.xr o.c)) (fun x => do
    let c ← needCursor (s.xr o.b)
    checkStorage (← read (fun s => c.attached s))
    let t ← get
    let cs := keepChains (bitsOf x.1 72 8) (bitsOf x.1 64 8) (sortDrafts (drafts t c (bitsOf x.1 80 16))) []
    let n := (cs.map (fun k => k.tokens.length)).foldl (· + ·) 0
    update (fun s => s.setCursor
      { c with proposal := some cs, proposed := c.proposed + word n, proposals := c.proposals + 1 })
    takeAndAnswer .span o.a (word cs.length)
    update (fun s => s.modHart (fun h => { h with hold := some (.output (cellsOf x.2 (proposalArea cs))) }))) s

/-! ## Acceptance (R288, R289) -/

/-- The chain that agrees longest, the least of several, with its number: y is the model area. -/
def bestChain (y : List Slot) (cs : List Chain) : Nat × Nat :=
  (cs.zipIdx.foldl (fun best c =>
    let a := commonLen c.1.tokens (y.drop (65 * c.2))
    match best with
    | none => some (a, c.2)
    | some b => if b.1 < a then some (a, c.2) else some b) (none : Option (Nat × Nat))).getD (0, 0)

/-- R288. -/
def execCuracc (o : R3) (s : State) : Out :=
  spanOp (eR3 0x34#6 9#10 o) (readTokens (s.xr o.c) 260) (fun y => do
    let c ← needCursor (s.xr o.b)
    let cs := c.proposal.getD []
    let r := bestChain y cs
    let ts := ((cs[r.2]?.map Chain.tokens).getD []).take r.1 ++ (y.drop (65 * r.2 + r.1)).take 1
    let t ← get
    let q := c.linked.bind (objectOf t)
    checkStorage q.toList
    check (q.all (fun x => decide (x.tokens.length + ts.length ≤ x.cap))) .ixlimit ((c.linked.getD 0).setWidth 64)
    let d := { c with
      w := c.w ++ ts, mark := some ⟨c.w.length, q.map (fun x => (x.handle, x.tokens.length)), ts.length⟩, proposal := none
      accDrafts := c.accDrafts + word r.1, committed := c.committed + word (r.1 + 1), acceptances := c.acceptances + 1 }
    update (fun s =>
      let s := s.setCursor d
      match q with
      | some x => let y := { x with tokens := x.tokens ++ ts }; touchStorage y (s.setObject y)
      | none => s)
    takeAndAnswer .span o.a (word (r.1 + 256 * r.2))) s

/-- The object that the mark of a cursor names, where the cursor still links it (R289). -/
def Cursor.marked (s : State) (c : Cursor) : Option IxObj :=
  (c.mark.bind (·.linked)).bind (fun m => if c.linked = some m.1 then objectOf s m.1 else none)

/-- The cursor and the linked object as CURROLL leaves them, and the number of tokens removed; none where it changes nothing
(R289). -/
def rolled (s : State) (c : Cursor) : Option (Cursor × Option IxObj × Nat) :=
  match c.mark with
  | none => none
  | some m =>
    let d := { c with w := c.w.take m.wLen, mark := none, proposal := none }
    match m.linked with
    | none => some (d, none, c.w.length - m.wLen)
    | some (h, n) =>
      match objectOf s h with
      | some x =>
        if c.linked = some h ∧ x.tokens.length = n + m.committed then
          some (d, some { x with tokens := x.tokens.take n }, c.w.length - m.wLen)
        else none
      | none => none

/-- R289. -/
def execCurroll (o : R2) (s : State) : Out :=
  spanOp (eR2 0x34#6 10#10 o) (pure ()) (fun _ => do
    let c ← needCursor (s.xr o.b)
    checkStorage (← read (fun s => (c.marked s).toList))
    let t ← get
    match rolled t c with
    | none => takeAndAnswer .span o.a minusOne
    | some (d, x?, n) => do
      update (fun s =>
        let s := s.setCursor d
        match x? with
        | some x => touchStorage x (s.setObject x)
        | none => s)
      takeAndAnswer .span o.a (word n)) s

/-- R290. -/
def execCurdrop (b : XReg) (s : State) : Out :=
  spanOp (eBx 0x34#6 11#10 b) (pure ()) (fun _ => do
    let c ← needCursor (s.xr b)
    let slot := curSlot c.handle
    update (fun s => s.modPart (fun p =>
      { p with
        cursors := p.cursors.filter (fun d => d.handle != c.handle)
        curGens := assocSet p.curGens slot ((assocGet p.curGens slot 0 + 1) % 2 ^ 16) }))
    takeAndGo .span) s

/-- A sum of powers of two for the slots with a property. -/
def slotBits (p : Nat → Bool) : Nat := (List.range 4).foldl (fun v i => if p i then v + 2 ^ i else v) 0

/-- The fields of a cursor (R291). -/
def cursorField (s : State) (c : Cursor) (sel : Word) : Word :=
  match sel.toNat with
  | 0 => word c.w.length
  | 1 => (c.linked.getD 0).setWidth 64
  | 2 => word (slotBits (fun i => (c.slots.toList.getD i none).isSome) + 16 * slotBits (fun i => (c.useSlot s i).isSome))
  | 3 => c.accDrafts
  | 4 => c.acceptances
  | 5 => c.proposed
  | 6 => c.proposals
  | 7 => word (bestMatch s c)
  | 8 => c.committed
  | 9 => (c.mark.map (fun m => word m.wLen)).getD minusOne
  | _ => minusOne

/-- R291. -/
def execCurstat (o : R3) (s : State) : Out :=
  spanOp (eR3 0x34#6 12#10 o) (pure ()) (fun _ => do
    let c ← needCursor (s.xr o.b)
    let t ← get
    if s.xr o.c = 7 then checkStorage (c.attached t) else pure ()
    takeAndAnswer .span o.a (cursorField t c (s.xr o.c))) s

/-- The output of a CURPROP, the last span command of its hart, written: its hart issues again (R287). -/
def writeOutput (h : Hart) (s : State) : State :=
  match h.hold with
  | some (.output cells) =>
    let b : Issuer := ⟨.span, h.ptroot, h.mode, h.id, h.serial, h.ordinal .span - 1, dieOf h.hall⟩
    (cells.foldl (fun s c => s.engineStore b none ⟨c.1, none⟩ c.2) s).modHartOf h.pid h.id (fun g => { g with hold := none })
  | _ => s

end Sys2Proof.Machine
end

