-- ==== Sys2Proof/Machine/Vcfg.lean ====
section
/-! DEFINITION. Vector configuration (R137 to R141) and the taking of a grant (R98, R102, R104). -/

namespace Sys2Proof.Machine

/-- The limit a SETVL takes: none after the commit of a strip that a SETVL opened, else what a rollback or a TRET left (R144, R209). -/
def setvlLimit (h : Hart) : Option Nat := if h.ckptSetvl && !h.rerun then none else h.trim

/-- The bricks a member is to hold: its share, fixed for the phase in a gang of more than one (R98). The first SETVL of the gang fixes
it, and from then on each completion of a phase. A gang declared with several members stays one when all but one have ended
(DESIGN CHOICE, log entry 52). -/
def phaseShare (s : State) : Nat × State :=
  let h := s.hart
  let now := h.share s
  match s.gang with
  | none => (now, s)
  | some g =>
    if g.declared ≤ 1 then (now, s)
    else match g.phaseGrant with
      | some k => (k, s)
      | none => (now, s.modGang h.gkey (fun g => { g with phaseGrant := some now }))

/-- Cuts or grows the bricks of the issuing hart in a hall to n: retired bricks go, the lowest-numbered of the others are kept, and
released bricks that carry its tag become free (R96, R98, R213). -/
def fitHall (hall n : Nat) (s : State) : State :=
  let h := s.hart
  let keep := ((h.holds hall).filter s.usable).take n
  let gone := (h.holds hall).filter (fun b => !keep.contains b)
  let s := (s.freeTags gone h.id).modHart (fun h => { h with grant := h.grant.filter (fun b => !gone.contains b) })
  s.modHart (growTo s hall n)

/-- The blocks a spread hart takes after its own: each hall in ring order that grants the minimum, and the smallest count (R104). -/
def spreadBlocks (s : State) (min : Nat) : List Nat → Nat → List Nat × Nat
  | [], b => ([], b)
  | hall :: rest, b =>
    let t := shareOf s hall s.hart.pid s.hart.gkey
    let reach := Nat.min t ((s.hart.holds hall).length + (available s s.hart hall).length)
    if min ≤ reach ∧ 0 < reach then
      let r := spreadBlocks s min rest (Nat.min b reach)
      (hall :: r.1, r.2)
    else ([], b)

/-- Takes the grant (R98, R104). True where the hart holds what it must hold to go on. -/
def takeGrant (s : State) : State × Bool :=
  let r := phaseShare s
  let s := fitHall s.hart.hall r.1 r.2
  let held := (s.hart.holds s.hart.hall).length
  let min := s.gang.elim 1 (·.min)
  let several := s.gang.elim false (fun g => decide (1 < g.declared))
  if held = 0 ∨ held < min ∨ (several ∧ held < r.1) then (s, false)
  else if s.hart.spread then
    let partners := partnersOf s.part.cfg s.hart.hall
    let t := spreadBlocks s min partners held
    let s := (s.hart.hall :: t.1).foldl (fun s hall => fitHall hall t.2 s) s
    ((partners.filter (fun p => !t.1.contains p)).foldl (fun s hall => fitHall hall 0 s) s, true)
  else (s, true)

/-- BRICKS, DIES, LMOD and VLGRANT for the bricks held, and the re-layout of R102 (R138). -/
def settleGrant (s : State) : State :=
  let s := s.modHart (settle s)
  s.modHart (fun h => ({ h with vlgrant := BitVec.ofNat 32 (capOf h h.live.shape) } : Hart).relayout)

/-- The bricks that a SETVL has left, in any of its halls, go to those who wait (R99). -/
def handOn (before : Hart) (s : State) : State := (before.blockHalls ++ s.hart.blockHalls).eraseDups.foldl (fun s hall => handOut hall s) s

/-- The strip a SETVL opens: its checkpoint is the SETVL, before xA is written (R138) (DEDUCED, log entry 25). -/
def Hart.openStrip (a : XReg) (n : Word) (h : Hart) : Hart :=
  let vl := capBy (Nat.min n.toNat h.vlgrant.toNat) h.trim
  let ckpt := { h.live with vl := BitVec.ofNat 32 vl }
  { h with
    ckpt := ckpt, ckptSetvl := true, rerun := false, atSetvl := true, pages := [], stale := false, pending := 1
    live := { ckpt.setX a (word vl) with pc := h.live.pc + 4 } }

/-- R138. -/
def execSetvl (o : R2) (s : State) : Out :=
  let limit := setvlLimit s.hart
  let s := s.commit.drain.modHart (fun h => { h with trim := limit, atSetvl := true })
  match afterCommit false s with
  | (t, false) => .next t
  | (t, true) =>
    match takeGrant t with
    | (u, false) => .next (handOn t.hart (u.await .grant))
    | (u, true) =>
      let n := u.xr o.b
      .next (handOn t.hart ((settleGrant u).modHart (Hart.openStrip o.a n)))

/-- Loads SHAPE (R139). -/
def setShape (v : Word) (w : BitVec 32) (s : State) : Out :=
  if v.toNat < 2 ^ 15 ∧ isFormat (v.setWidth 6) then
    let sh := v.setWidth 15
    .next ((s.modLive (fun st => { st with
      shape := sh, vl := BitVec.ofNat 32 (Nat.min st.vl.toNat (capOf s.hart sh)) })).advance 4)
  else run (trapWord .illshape w) s

/-- R139. -/
def execSetshape (b : XReg) (s : State) : Out := setShape (s.xr b) (eBx 0x20#6 0x001#10 b) s

/-- R139. -/
def execSetshapei (imm : BitVec 15) (s : State) : Out := setShape (imm.setWidth 64) (eImm 0x21#6 imm) s

/-- R140, after the strip is closed. -/
def Hart.configure (n : Nat) (h : Hart) : Hart :=
  let h := { h with
    nreg := n
    live := { h.live with v := Vector.replicate 32 [], t := Vector.replicate 4 (Vector.replicate 16 []), lost := [] } }
  { h with live := { h.live with vl := BitVec.ofNat 32 (Nat.min h.live.vl.toNat (capOf h h.live.shape)) } }

/-- R140. VOWN comes before the strip closes (R57, R214). -/
def execVconf (n : BitVec 5) (s : State) : Out :=
  let regs := 8 * 2 ^ n.toNat
  run (do
    ownVector
    closing false (do
      let binds ← read (fun s => s.hart.binds)
      if binds.any (fun b => decide (regs ≤ b.reg.toNat)) then trapWord .illshape (eN 0x20#6 0x003#10 n)
      else update (fun s => (s.modHart (Hart.configure regs)).complete))) s

/-- R141. -/
def execVclose (s : State) : Out := run (closing false (update State.complete)) s

end Sys2Proof.Machine
end

