-- ==== Sys2Proof/Machine/EvHart.lean ====
section
/-! DEFINITION. The events of harts, arbiters and engines: what ends a wait, what pre-empts a hart, what an engine does after it has
accepted a command, and the faults before decoding. An event that cannot be in the present state changes nothing (log entry 3). -/

namespace Sys2Proof.Machine

def HartRef.find (r : HartRef) (s : State) : Option Hart := s.findHart r.pid r.id.toNat

/-- What an event does to a hart, where there is one (DESIGN CHOICE, log entry 31). -/
def onHart (r : HartRef) (f : Hart → State → State) (s : State) : Out :=
  .next (match HartRef.find r s with
    | some h => f h s
    | none => s)

/-- What an event does to a waiting hart, in its partition and as that hart. -/
def onWait (r : HartRef) (f : Wait → State → State) (s : State) : Out :=
  onHart r (fun h s => match h.status with
    | .waiting w => s.asHart h.pid h.id (f w)
    | _ => s) s

def State.wake (s : State) : State := s.modHart (fun h => { h with status := .ready })

/-! ## Before decoding -/

/-- R41. -/
def execReservedEncoding (w : BitVec 32) (s : State) : Out := run (trapWord .ill w) s

def FetchCause.toCause : FetchCause → Cause
  | .page => .page
  | .prot => .prot
  | .uncor => .uncor

/-- R37. -/
def execFetchFault (f : FetchFault) (s : State) : Out := run (trap (FetchCause.toCause f.cause) f.va) s

/-- R105. -/
def execBudget (s : State) : Out := run (trap .budget 0) s

/-! ## Waits -/

/-- R98: the SETVL is issued again, and completes. -/
def execSetvlGrantWaitEnd (r : HartRef) (s : State) : Out :=
  onWait r (fun w s => if w = .grant ∧ (takeGrant s).2 then s.wake else s) s

/-- R7: a command leaves the hart's queue, and the hart that stalled issues its own again; so does one whose switch command waits for the
end of a pre-emption (R10). -/
def execEngineQueueAdmit (r : HartRef) (s : State) : Out :=
  onHart r (fun h s => s.modHartOf h.pid h.id (fun h => match h.status with
    | .waiting (.queue e) => { h with queued := h.queued.erase e, status := .ready }
    | .waiting (.leaving tag) => if jobLeaves s tag then h else h.reissue
    | _ => h)) s

/-- R125: the value at the final read. A remote location is read again by the instruction itself. -/
def execWaitaWake (r : HartRef) (s : State) : Out :=
  onWait r (fun w s => match w with
    | .value key n cmp rd =>
      if isRemote key ∨ s.damagedAt key n then s.wake
      else if s.peekNat key n = cmp.toNat then s
      else s.modHart (Hart.answer rd (atomicResult n (s.peekNat key n)))
    | _ => s) s

/-- R125: the time-out, with the value at the final read. -/
def execWaitTimeout (r : HartRef) (s : State) : Out :=
  onWait r (fun w s => match w with
    | .value key n cmp rd =>
      if s.hart.wtime = 0 then s
      else if isRemote key then s.modHart (Hart.answer rd (atomicResult n cmp.toNat))
      else if s.damagedAt key n then s.wake
      else s.modHart (Hart.answer rd (atomicResult n (s.peekNat key n)))
    | _ => s) s

/-- R131. -/
def execHaltResume (r : HartRef) (s : State) : Out :=
  onWait r (fun w s => match w with
    | .halt posted => if posted < s.part.posted then s.complete else s
    | _ => s) s

/-- R131. -/
def execHaltTimeout (r : HartRef) (s : State) : Out :=
  onWait r (fun w s => match w with
    | .halt _ => if s.hart.wtime = 0 then s else s.complete
    | _ => s) s

/-- R132. -/
def execTlbinvComplete (r : HartRef) (s : State) : Out :=
  onWait r (fun w s => if w = .tlbinv ∧ staleElsewhere s = false then s.complete else s) s

/-- R283. -/
def execCurattResult (r : HartRef) (s : State) : Out :=
  onWait r (fun w s => match w with
    | .curatt rd v => s.modHart (Hart.answer rd v)
    | _ => s) s

/-! ## Grants and pre-emption -/

/-- Whether a hart is past rolling back: its atomic is in flight (R333), or it ends. -/
def Hart.isCommitted (h : Hart) : Bool :=
  match h.status with
  | .waiting (.atomic _ _ _) => true
  | .waiting (.ending _) => true
  | .ended => true
  | .absent => true
  | _ => false

/-- The bricks a hart keeps under its targets: in each hall the lowest-numbered (R99). The blocks of a spread hart are cut each by its
own hall's target, and may then hold unequal numbers of bricks until its next SETVL, which takes equal ones (R104): DESIGN CHOICE (log
entry 51). -/
def Hart.keeps (s : State) (h : Hart) : List (Nat × Nat) :=
  h.grant.filter (fun b => (((h.holds b.1).filter s.usable).take (shareOf s b.1 h.pid h.gkey)).contains b)

/-- A forced shrink of one hart: its strip rolls back, and its surplus bricks go (R99, R102). An instruction in which it waits is
issued again. -/
def Hart.shrunk (s : State) (h : Hart) : Hart :=
  let accepted := h.stillAccepted
  let g := (settle s { h.answered.rollback with grant := h.keeps s, queued := [], accepted := accepted }).relayout
  match h.status with
  | .off _ => g
  | _ => { g with status := g.resumed s }

def shrinkOne (s : State) (h : Hart) : State :=
  if h.isCommitted then s else s.modHartOf h.pid h.id (Hart.shrunk s)

/-- The grant of a gang's phase after a forced shrink: what each member is to hold now (R98, R99). -/
def renewPhase (p : PartId) (key : Nat) (s : State) : State :=
  s.inPart p (fun s => s.modGang key (fun g => { g with phaseGrant := g.phaseGrant.map (fun _ => shareOf s g.hall p key) }))

/-- R99: every member of the gang, where one holds bricks above its target. A hart whose target is 0 leaves its bricks with its tags as one
that is pre-empted does (R211, R213). An atomic in flight is not rolled back (R333). -/
def execForcedShrink (r : HartRef) (s : State) : Out :=
  onHart r (fun h s =>
    let ms := membersOf s h.pid h.gkey
    if h.share s ≠ 0 ∧ (h.keeps s).length < h.grant.length ∧ ms.all (fun g => !g.isCommitted) then
      yieldHalls (ms.flatMap Hart.blockHalls).eraseDups (ms.foldl shrinkOne (renewPhase h.pid h.gkey s))
    else s) s

/-- R211: the request is taken at a commit point. -/
def execPreemption (r : HartRef) (s : State) : Out :=
  onHart r (fun h s => match h.preempt with
    | some why => if h.status = .ready ∧ h.atCommit then takeAway why h s else s
    | none => s) s

/-- R211: the strip is rolled back and the hart taken at its checkpoint. A load that awaits its response is rolled back too (R353), an
atomic is not (R333) (DEDUCED, log entry 32). -/
def execWatchdogExpiry (r : HartRef) (s : State) : Out :=
  onHart r (fun h s => match h.preempt with
    | some why => if h.isCommitted then s else takeAway why h (s.modHartOf h.pid h.id Hart.rollback)
    | none => s) s

/-- Whether a hart is to make way in its hall: it is resident with target 0, of the lowest rank there, and a hart of higher rank
waits with a target above 0 (R101). -/
def makesWay (s : State) (h : Hart) : Bool :=
  let hall := s.allHarts.filter (fun g => g.hall == h.hall && g.isLive && !(g.pid == h.pid && g.id == h.id))
  h.slot.isSome && h.share s == 0 &&
    hall.all (fun g => g.slot.isNone || outranks s g h) &&
    hall.any (fun g => g.status == .off .slot && decide (0 < g.share s) && outranks s g h)

/-- R101. -/
def execResidencyEviction (r : HartRef) (s : State) : Out :=
  onHart r (fun h s => if makesWay s h then yieldHalls h.blockHalls (requestOff .slot h s) else s) s

/-! ## Engines -/

/-- What an event does in a partition. -/
def onPart (p : PartId) (f : State → State) (s : State) : Out := .next (s.inPart p f)

/-- R252. -/
def execCopyChunkDone (o : ObjRef) (chunk : Nat) (s : State) : Out :=
  onPart o.pid (fun s => match copyOf s (o.handle.setWidth 64) with
    | some c =>
      if c.state = .running ∧ c.status = 0 ∧ chunk < c.chunks ∧ chunk ∉ c.done ∧ chunk ∉ c.failed then chunkDone c chunk s else s
    | none => s) s

/-- R252. -/
def execCopyTranslationFault (o : ObjRef) (s : State) : Out :=
  onPart o.pid (fun s => match copyOf s (o.handle.setWidth 64) with
    | some c => if c.endsAtOnce && !copyEnding s c then endAtOnce c s else s
    | none => s) s

/-- R234. -/
def execBcowCopyDone (r : HartRef) (s : State) : Out := onHart r (fun h s => s.asHart h.pid h.id bcowDone) s

/-- R236; the handle is the block id. -/
def execPromotionComplete (o : ObjRef) (s : State) : Out := onPart o.pid (promotionDone o.handle.toNat) s

/-- R237: the completion word of the oldest compaction; its work was done at its acceptance (R8). -/
def execCompactionComplete (p : PartId) (s : State) : Out := onPart p compactionDone s

/-- R240. -/
def execEpochReclaim (p : PartId) (s : State) : Out :=
  onPart p (fun s => if s.part.reclaim.isSome ∧ enginesPassed s then reclaimNow s else s) s

/-- R279 (DEDUCED, log entry 40). -/
def execIxdropStorageReleased (r : HartRef) (s : State) : Out :=
  onHart r (fun h s => if h.hold = some .storage then s.modHartOf h.pid h.id (fun h => { h with hold := none }) else s) s

/-- R287. -/
def execCurpropOutputWritten (r : HartRef) (s : State) : Out := onHart r (fun h s => s.inPart h.pid (writeOutput h)) s

/-- R311. -/
def execFnextServe (o : ObjRef) (s : State) : Out :=
  onPart o.pid (fun s => match s.launchOf o.handle with
    | some l => serveNext l s
    | none => s) s

/-- R317. -/
def execFsaveAreaWritten (o : ObjRef) (s : State) : Out :=
  onPart o.pid (fun s => match s.launchOf o.handle with
    | some l =>
      if l.state ≠ .saving then saveReleased l s else if tasksOff s l then saveWritten l s else s
    | none => s) s

/-- R319. -/
def execLaunchPark (o : ObjRef) (s : State) : Out :=
  onPart o.pid (fun s => match parkChoice s with
    | some l => if l.handle = o.handle then startSave 2 l s else s
    | none => s) s

end Sys2Proof.Machine
end

