-- ==== Sys2Proof/Machine/Fop.lean ====
section
/-! DEFINITION. Scalar floating point (R117 to R122). -/

namespace Sys2Proof.Machine

/-- The precision field: binary32 or binary64 (R117). -/
def fopFmt (p : BitVec 1) : Fmt := if p = 0 then fmtF32 else fmtF64

/-- The value of an operand: the low 32 bits, or all 64 (R117). -/
def fopVal (p : BitVec 1) (v : Word) : FVal := (fopFmt p).value v.toNat

/-- The rounding field: 7 takes the mode from FRND (R117, R121). -/
def fopMode (s : State) (r : BitVec 3) : RMode := RMode.ofCode (if r = 7 then s.hart.frnd else r)

/-- The generator's word at an element of a row (R171). -/
def stoWord (s : State) (row e : Nat) : Word := gen s.hart.live.sbase s.hart.srseed s.hart.srstream row e

def FVal.isFinite : FVal → Bool
  | .fin _ _ => true
  | _ => false

def fvalFrac : FVal → Frac
  | .fin q _ => q
  | _ => Frac.zero

/-- One value rounded into a floating format with the carried residual c: the bits, and the residual left (R122, R174). SAT counts
as a replacement where the result is the saturated maximum of a larger value. An exact zero sum is +0, unless both parts are −0: R174 does
not give its sign (DESIGN CHOICE, log entry 55). -/
def efbFloat (fm : Fmt) (sat : Bool) (c : Word) (x : FVal) : Nat × Word :=
  let cv := fmtF64.value c.toNat
  let y := fAdd false .rne x cv
  let out := fm.conv .rne 0 sat y
  if x.isFinite && cv.isFinite then
    let plain := fm.conv .rne 0 false y
    let v := fm.value out
    if v.isFinite && plain == out then (out, word (residual (fvalFrac y) v)) else (out, 0)
  else (out, 0)

/-- A value rounded to a saturated 64-bit integer (R119). -/
def toInt64 (fmt : BitVec 6) (mode : RMode) (z : Word) (v : FVal) : Word := word (convInt fmt mode z true v)

/-- The same with the carried residual (R122). -/
def efbInt (fmt : BitVec 6) (c : Word) (x : FVal) : Word × Word :=
  let cv := fmtF64.value c.toNat
  let y := fAdd false .rne x cv
  let out := toInt64 fmt .rne 0 y
  if x.isFinite && cv.isFinite then
    let r := roundInt .rne 0 (fvalFrac y)
    if intMin fmt ≤ r ∧ r ≤ intMax fmt then (out, word (fmtF64.conv .rne 0 false (.ofFrac ((fvalFrac y).sub (Frac.ofInt r)))))
    else (out, 0)
  else (out, 0)

/-- The end of an operation with one rounding: the exact result, rounded in the mode (R118, R122). -/
def fopRounded (p : BitVec 1) (r : BitVec 3) (a : XReg) (exact : RMode → FVal) (s : State) : Out :=
  let mode := fopMode s r
  let x := exact mode
  if mode = .efb then
    let t := efbFloat (fopFmt p) false s.hart.live.efc x
    .next ((s.modLive (fun st => { st with efc := t.2 })).put a (word t.1) 4)
  else .next (s.put a (word ((fopFmt p).conv mode (stoWord s 0 0) false x)) 4)

/-- FCVTI and FCVTN: the target is the integer grid (R119, R122). -/
def fopToInt (fmt : BitVec 6) (o : F2) (s : State) : Out :=
  let mode := fopMode s o.r
  let x := fopVal o.p (s.xr o.b)
  if mode = .efb then
    let t := efbInt fmt s.hart.live.efc x
    .next ((s.modLive (fun st => { st with efc := t.2 })).put o.a t.1 4)
  else .next (s.put o.a (toInt64 fmt mode (stoWord s 0 0) x) 4)

/-- The bits of an operand in its precision. -/
def fopBits (p : BitVec 1) (v : Word) : Nat := v.toNat % 2 ^ (fopFmt p).width

/-- R118. -/
def execFadd (o : F3) (s : State) : Out :=
  fopRounded o.p o.r o.a (fun m => fAdd false m (fopVal o.p (s.xr o.b)) (fopVal o.p (s.xr o.c))) s

/-- R118. -/
def execFsub (o : F3) (s : State) : Out :=
  fopRounded o.p o.r o.a (fun m => fAdd false m (fopVal o.p (s.xr o.b)) (fNeg (fopVal o.p (s.xr o.c)))) s

/-- R118. -/
def execFmul (o : F3) (s : State) : Out :=
  fopRounded o.p o.r o.a (fun _ => fMul (fopVal o.p (s.xr o.b)) (fopVal o.p (s.xr o.c))) s

/-- R118. -/
def execFdiv (o : F3) (s : State) : Out :=
  fopRounded o.p o.r o.a (fun _ => fDiv (fopVal o.p (s.xr o.b)) (fopVal o.p (s.xr o.c))) s

/-- R118. -/
def execFsqrt (o : F2) (s : State) : Out := fopRounded o.p o.r o.a (fun _ => fSqrt (fopVal o.p (s.xr o.b))) s

/-- R118. -/
def execFmin (o : F3N) (s : State) : Out :=
  .next (s.put o.a (word (fMinBits (fopFmt o.p) (fopBits o.p (s.xr o.b)) (fopBits o.p (s.xr o.c)))) 4)

/-- R118. -/
def execFmax (o : F3N) (s : State) : Out :=
  .next (s.put o.a (word (fMaxBits (fopFmt o.p) (fopBits o.p (s.xr o.b)) (fopBits o.p (s.xr o.c)))) 4)

/-- R118: one rounding of xA + xB × xC. -/
def execFmadd (o : F3) (s : State) : Out :=
  fopRounded o.p o.r o.a (fun m =>
    fAdd false m (fopVal o.p (s.xr o.a)) (fMul (fopVal o.p (s.xr o.b)) (fopVal o.p (s.xr o.c)))) s

/-- A relation as an integer (R118). -/
def fopRel (rel : FVal → FVal → Bool) (o : F3N) (s : State) : Out :=
  .next (s.put o.a (flag (rel (fopVal o.p (s.xr o.b)) (fopVal o.p (s.xr o.c)))) 4)

/-- R118. -/
def execFeq (o : F3N) (s : State) : Out := fopRel fEqv o s

/-- R118. -/
def execFlt (o : F3N) (s : State) : Out := fopRel fLt o s

/-- R118. -/
def execFle (o : F3N) (s : State) : Out := fopRel fLe o s

/-- R119: i64. -/
def execFcvti (o : F2) (s : State) : Out := fopToInt 0x03 o s

/-- R119: n64. -/
def execFcvtn (o : F2) (s : State) : Out := fopToInt 0x07 o s

/-- R118: a signed 64-bit integer. -/
def execFcvtf (o : F2) (s : State) : Out := fopRounded o.p o.r o.a (fun _ => elemValue 0x03 (s.xr o.b).toNat) s

/-- R118: an unsigned 64-bit integer. -/
def execFcvtfn (o : F2) (s : State) : Out := fopRounded o.p o.r o.a (fun _ => elemValue 0x07 (s.xr o.b).toNat) s

/-- R118, R122: the precision field names the target; xB is read in the other precision. -/
def execFcvtp (o : F2) (s : State) : Out := fopRounded o.p o.r o.a (fun _ => fopVal (o.p ^^^ 1) (s.xr o.b)) s

/-- R120. -/
def execFclass (o : F2N) (s : State) : Out := .next (s.put o.a (word (classCode (fopFmt o.p) (fopBits o.p (s.xr o.b)))) 4)

/-- R118: the bits of xB under xC's sign. -/
def execFsgnj (o : F3N) (s : State) : Out :=
  let w := (fopFmt o.p).width
  .next (s.put o.a (word (withSign w (fopBits o.p (s.xr o.b)) ((s.xr o.c).getLsbD (w - 1)))) 4)

end Sys2Proof.Machine
end

