-- ==== Sys2Proof/Machine/Manage.lean ====
section
/-! DEFINITION. The management plane: partitions and their configuration pages (R336, R342, R343), bring-up (R354 to R357), attestation
(R358, R359), errors and cooling (R360, R361). An event that cannot be in the present state changes nothing (log entry 3). -/

namespace Sys2Proof.Machine

/-! ## DEVSTAT (R354) -/

/-- DEVSTAT with a phase and a failure code; RED is set while the phase is 2. -/
def setPhase (phase fail : Nat) (s : State) : State :=
  s.modDev (fun d => { d with
    devstat := (d.devstat &&& 0x0000FF0000FFFFFE) ||| word (phase * 2 ^ 32 + fail * 2 ^ 24 + (if phase = 2 then 1 else 0)) })

def setBit (bit : Nat) (v : Bool) (s : State) : State :=
  s.modDev (fun d => { d with devstat := if v then d.devstat ||| ((1 : Word) <<< bit) else d.devstat &&& ~~~((1 : Word) <<< bit) })

def readyBit (s : State) : Bool := s.dev.devstat.getLsbD 3

/-- The dies that have passed self-test. -/
def diePassed (s : State) (die : Nat) : Bool := s.dev.devstat.getLsbD (16 + die)

/-! ## The configuration page (R336) -/

def maskBytes (n : Nat) (l : List Nat) : List Byte := leBytes n (l.eraseDups.foldl (fun v i => v + 2 ^ i) 0)

/-- The entry of a hall's partners on dies +1, +2 and +3; 0xFF for none. -/
def partnerBytes (c : PartCfg) (hall : Nat) : List Byte :=
  match c.partners.find? (fun p => decide (p.1 = hall)) with
  | some (_, a, b, d) => [a, b, d, 0]
  | none => [0xFF, 0xFF, 0xFF, 0]

/-- The first 1,024 bytes of a page and its windows. -/
def pageParts (c : PartCfg) : List (Nat × List Byte) :=
  [(0, leBytes 2 1 ++ leBytes 1 c.pid.toNat ++ leBytes 1 0 ++ leBytes 2 c.node.toNat ++ leBytes 2 c.job.toNat),
   (8, maskBytes 8 c.halls), (16, leBytes 32 c.l2.toNat), (48, leBytes 32 c.chans.toNat), (80, leBytes 8 c.memSize),
   (88, leBytes 8 c.faultBase), (96, leBytes 8 c.intrBase), (104, leBytes 1 c.faultLog ++ leBytes 1 c.intrLog),
   (112, leBytes 8 c.ctxBase), (120, leBytes 8 c.ctxSize), (128, leBytes 8 c.engBase), (136, leBytes 8 c.engSize),
   (144, leBytes 8 c.saveBase), (152, leBytes 8 c.saveSize), (160, leBytes 4 c.lateCap),
   (168, padTo 0 8 (c.ctrlTags.flatMap (fun t => leBytes 2 t.toNat))), (176, leBytes 8 c.limits.toNat)] ++
  (List.range 48).map (fun h => (192 + 4 * h, partnerBytes c h)) ++
  c.windows.map (fun w =>
    (1024 + 16 * w.index.toNat,
      leBytes 2 (1 + (if w.r then 2 else 0) + (if w.w then 4 else 0)) ++ leBytes 2 w.dest.toNat ++ leBytes 4 0 ++ leBytes 8 w.base.toNat))

/-- The device writes the page of the partition. -/
def writePage (s : State) : State :=
  let base := physKey s.part.cfg.pid 0
  (pageParts s.part.cfg).foldl (fun s p => s.poke (base + p.1) p.2) (s.wipe base (2 ^ 16))

/-- What the table holds of a partition: the fields of its page, each with its offset, its page-table root and its interrupt vectors
(R9, R340). -/
def tableEntryBytes (c : PartCfg) : List Byte :=
  (pageParts c).flatMap (fun p => leBytes 2 p.1 ++ p.2) ++ leBytes 8 c.ptroot.toNat ++ leBytes 8 c.intrVector.1.toNat ++ leBytes 4 c.intrVector.2.toNat ++
    leBytes 8 c.faultVector.1.toNat ++ leBytes 4 c.faultVector.2.toNat

/-- The partition configuration table as MR2 measures it, in ascending order of partitions (log entry 7). -/
def tableBytes (s : State) : List Byte :=
  (List.range 16).flatMap (fun i =>
    (s.allParts.filter (fun p => p.configured && p.cfg.pid.toNat == i)).flatMap (fun p => tableEntryBytes p.cfg))

/-- MR2 extended at a change of the table. -/
def measureTable (s : State) : State := extend 2 (sha256 (tableBytes s)) s

/-- A page rewritten after a resize, and its entry posted (R336). -/
def rewritePage (s : State) : State := measureTable (postResized (writePage s))

/-! ## Configuration -/

/-- The halls that a device offers for partitions: in reduced service hall 0 of each die that has passed (R356). -/
def hallOffered (s : State) (h : Nat) : Bool :=
  decide (h < 48) && (!isReduced s || (h % 12 == 0 && diePassed s (h / 12)))

/-- Whether a hall belongs to a partition other than p. -/
def hallTaken (s : State) (p : PartId) (h : Nat) : Bool :=
  s.allParts.any (fun q => q.configured && q.cfg.pid != p && q.cfg.halls.contains h)

/-- The job of a partition as it is configured. -/
def jobsOf (s : State) (p : PartId) : List (BitVec 16) :=
  (s.allParts.filter (fun q => q.configured && q.cfg.pid == p)).map (·.cfg.job)

/-- Whether a partition may have some slices and channels: at least four and eight (R11), none of another partition's (R3), no channel
that has been withdrawn (R355), and room for its memory at 1.5 GB a channel (R343) (DEDUCED, log entry 45). -/
def memoryOk (s : State) (p : PartId) (size : Nat) (l2 chans : BitVec 256) : Bool :=
  decide (4 ≤ (maskOnes l2).length ∧ 8 ≤ (maskOnes chans).length ∧ size ≤ (maskOnes chans).length * Config.channelSize) &&
    chans &&& s.dev.withdrawn == 0 &&
    s.allParts.all (fun q => !q.configured || q.cfg.pid == p || (q.cfg.l2 &&& l2 == 0 && q.cfg.chans &&& chans == 0))

/-- Whether a partition's halls are offered and no other's, one of them in reduced service (R11, R356). -/
def hallsOk (s : State) (c : PartCfg) : Bool :=
  !c.halls.isEmpty && c.halls.all (hallOffered s) && decide c.halls.Nodup && (!isReduced s || c.halls.length == 1) &&
    c.halls.all (fun h => !hallTaken s c.pid h)

/-- Whether no gang switch of a job is in progress: the other actions at the meeting points wait for its end (R10). -/
def jobSettled (s : State) (tag : BitVec 16) : Bool := s.dev.jobState tag != .switching && s.dev.jobState tag != .resuming

/-- Whether no action on the partition is in progress: no gang switch of its job, and no pre-emption of it (R10). -/
def noSwitch (s : State) : Bool := jobSettled s s.part.cfg.job && !leaving s s.part.cfg.pid

/-- The same of the partition with a given number, whatever it is configured to. -/
def settledFor (s : State) (p : PartId) : Bool := (jobsOf s p).all (jobSettled s) && !leaving s p

/-- Whether the management plane may configure a partition so: its page keeps the limits of R336, it does not control its own job, its
halls, slices and channels are free for it, its job has no other partition here, no other action on it is in progress (R10), and no
live hart of it remains but in a job that is DEAD (R347) (DEDUCED, log entry 45). -/
def mayConfigure (s : State) (c : PartCfg) : Bool :=
  settledFor s c.pid && jobSettled s c.job &&
  c.wf && c.ctrlTags.all (· != c.job) && (phaseOf s == 2 || phaseOf s == 3) && hallsOk s c &&
    memoryOk s c.pid c.memSize c.l2 c.chans && decide (c.memSize ≤ 2 ^ 47) &&
    s.allParts.all (fun q => !q.configured || q.cfg.pid == c.pid || q.cfg.job != c.job) &&
    (s.allHarts.all (fun h => h.pid != c.pid || !h.isLive) || (jobsOf s c.pid).any (fun t => s.dev.jobState t == .dead))

/-- A hall scrubbed: its scratchpad, its bricks and its cached translations (R342). -/
def scrubHall (hall : Nat) (s : State) : State :=
  (s.wipe (padKey hall 0) Config.padSize).modDev (fun d =>
    { d with
      bricks := d.bricks.map (fun b => if b.1.1 = hall then (b.1, { b.2 with owner := none }) else b)
      tlb := d.tlb.filter (fun e => e.hall != hall) })

/-- A partition and its harts taken out of the machine. -/
def dropPart (p : PartId) (s : State) : State :=
  let s := s.mapHarts (fun h => if h.pid = p then { h with status := .absent, grant := [], slot := none } else h)
  { s with
    part := if s.part.cfg.pid = p then Partition.fresh PartCfg.none false else s.part
    parts := s.parts.filter (fun q => q.cfg.pid != p)
    harts := s.harts.filter (fun h => h.status != .absent) }

/-- The DEAD jobs of a partition that is reconfigured whose home is another device: it is told (R347; log entry 20). -/
def deadElsewhere (s : State) (p : PartId) : List Job :=
  s.dev.jobs.filter (fun j => (jobsOf s p).contains j.tag && j.state == .dead && j.home != s.dev.node)

/-- R336: the page is written before the first start message. -/
def execPartitionConfigure (c : PartCfg) (s : State) : Out :=
  .next (
    if mayConfigure s c then
      let gone := c.job :: jobsOf s c.pid
      let dead := deadElsewhere s c.pid
      let s := dropPart c.pid s
      let s := { s with parts := s.parts ++ [Partition.fresh c true] }
      let s := s.modDev (fun d =>
        { d with
          jobs := d.jobs.filter (fun j => !gone.contains j.tag), tlb := d.tlb.filter (fun e => e.pid != c.pid)
          contexts := d.contexts.filter (· != c.pid) })
      let s := dead.foldl (fun s j => sendJob .reconfigured j.tag [] j.home s) s
      let s := c.halls.foldl (fun s h => scrubHall h s) s
      measureTable (s.inPart c.pid writePage)
    else s)

/-- R331. -/
def execRouteConfigure (node : BitVec 16) (routes : Routing) (s : State) : Out :=
  .next (s.modDev (fun d => { d with node := node, host := routes.host, routes := routes.links, peers := routes.peers }))

/-! ## Resizing (R342, R343) -/

/-- A hart drained from a hall: its strip is rolled back and it waits for a slot (R211, R342; log entry 21). One that is off with its
launch or its job stays so. -/
def drainHart (s : State) (h : Hart) : State :=
  match h.status with
  | .off .job => s
  | .off (.launch _) => s
  | _ => takeOff h.pid h.id (Off.managed.joined h.preempt) (s.modHartOf h.pid h.id Hart.rollback)

/-- Whether a hart has something in a hall. -/
def Hart.inHall (h : Hart) (hall : Nat) : Bool := h.hall == hall || h.grant.any (fun b => b.1 == hall)

/-- The scratchpad of one hall moved to another (R342). -/
def movePad (src dst : Nat) (s : State) : State :=
  let lo := padKey src 0
  let cells := s.mem.filter (fun c => decide (lo ≤ c.1 ∧ c.1 < lo + Config.padSize))
  let bad := s.dev.damaged.filter (fun u => decide (lo ≤ 8 * u ∧ 8 * u < lo + Config.padSize))
  let s := s.wipe (padKey dst 0) Config.padSize
  let s := cells.foldl (fun s c => s.poke (c.1 - lo + padKey dst 0) [c.2]) s
  s.modDev (fun d => { d with damaged := d.damaged ++ bad.map (fun u => u - lo / 8 + padKey dst 0 / 8) })

def rename (src dst n : Nat) : Nat := if n = src then dst else n

def renameByte (src dst : Nat) (b : Byte) : Byte := if b = BitVec.ofNat 8 src then BitVec.ofNat 8 dst else b

/-- Partner entries after a hall's have become another's. -/
def movePartners (src dst : Nat) (l : List (Nat × (Byte × Byte × Byte))) : List (Nat × (Byte × Byte × Byte)) :=
  (l.filter (fun p => p.1 != dst)).map (fun p =>
    (rename src dst p.1, renameByte src dst p.2.1, renameByte src dst p.2.2.1, renameByte src dst p.2.2.2))

/-- The partition without a hall, whose harts and gangs pass to another (R342). -/
def moveHall (src dst : Nat) (s : State) : State :=
  let pid := s.part.cfg.pid
  let s := s.mapHarts (fun h => if h.pid = pid then { h with hall := rename src dst h.hall } else h)
  s.modPart (fun p =>
    { p with
      gangs := p.gangs.map (fun g => { g with hall := rename src dst g.hall })
      cfg := { p.cfg with halls := p.cfg.halls.filter (· != src), partners := movePartners src dst p.cfg.partners } })

/-- Whether a hart can be drained: its stores are performed and acknowledged, and no atomic of it is in flight (R73, R333). -/
def Hart.drainable (h : Hart) : Bool := h.outgoing.isEmpty && h.acks.isEmpty && !h.isCommitted

/-- The live harts of the partition that have something in a hall. -/
def hartsIn (s : State) (hall : Nat) : List Hart :=
  s.allHarts.filter (fun h => h.pid == s.part.cfg.pid && h.isLive && h.inHall hall)

/-- Whether a hall may be removed: the receiving hall is another of the partition and has no hart of it, and the harts of the hall can
be drained. -/
def mayRemove (s : State) (src dst : Nat) : Bool :=
  s.part.cfg.halls.contains src && s.part.cfg.halls.contains dst && src != dst && noSwitch s &&
    s.allHarts.all (fun h => h.pid != s.part.cfg.pid || !h.isLive || h.hall != dst) && (hartsIn s src).all Hart.drainable

/-- R342: drain, move, scrub, reassign. Whoever waits in a hall that the drained harts have left is served (R101). -/
def removeHall (src dst : Nat) (s : State) : State :=
  if mayRemove s src dst then
    let hs := hartsIn s src
    let halls := (dst :: (hs.flatMap Hart.blockHalls).filter (· != src)).eraseDups
    let s := moveHall src dst (movePad src dst (hs.foldl drainHart s))
    halls.foldl (fun s hall => arbitrate hall s) (rewritePage (scrubHall src s))
  else s

/-- A hall that is added is scrubbed and joins empty (R342). It is the last in table order: the page holds a mask, and the manual does not
say which hall is first in the table after a resize (R16): DESIGN CHOICE (log entry 45). -/
def addHall (hall : Nat) (s : State) : State :=
  if noSwitch s ∧ hallOffered s hall ∧ isReduced s = false ∧ hallTaken s s.part.cfg.pid hall = false ∧ hall ∉ s.part.cfg.halls then
    rewritePage ((scrubHall hall s).modPart (fun p => { p with cfg := { p.cfg with halls := p.cfg.halls ++ [hall] } }))
  else s

/-- R342. -/
def execResizeHall (r : HallResize) (s : State) : Out :=
  .next (match r with
    | .remove p src dst => s.inPart p (removeHall src dst)
    | .add p hall => s.inPart p (addHall hall))

/-- R343: refused where the memory would not fit the channels at 1.5 GB each, or the partition may not have them. -/
def execResizeMemory (p : PartId) (l2 chans : BitVec 256) (s : State) : Out :=
  .next (s.inPart p (fun s =>
    if noSwitch s ∧ memoryOk s p s.part.cfg.memSize l2 chans then
      rewritePage (s.modPart (fun p => { p with cfg := { p.cfg with l2 := l2, chans := chans } }))
    else s))

/-- R343: migration changes only timing. -/
def execGranuleMigration (_p : PartId) (_granule : Nat) (s : State) : Out := .next s

/-- R9: every live hart of the partition is asked to leave; its context is saved by the device (R212) (DEDUCED, log entry 45). -/
def execPartitionPreemption (p : PartId) (s : State) : Out :=
  .next (s.inPart p (fun s =>
    if noSwitch s then
      yieldHalls s.part.cfg.halls
        ((s.allHarts.filter (fun h => h.pid == p && h.isLive)).foldl (fun s h => requestOff .managed h s) s)
    else s))

/-! ## Attestation (R359) -/

/-- The fields of a report. -/
def reportBody (p : PartId) (nonce : List Byte) (s : State) : List Byte :=
  leBytes 4 1 ++ leBytes 8 s.dev.devstat.toNat ++ s.dev.mr.toList.flatMap (fun m => beBytes 32 m.toNat) ++ leBytes 1 p.toNat ++
    sha256 (s.peek (physKey p 0) (2 ^ 16)) ++ padTo 0 32 nonce

/-- The identity public key, and the vendor's certificate of it: a signature under SLH-DSA-SHA2-192s (R358; log entry 7). -/
def identityPublicKey : List Byte := (List.range 32).map Config.identityKey
def identityCertificate : List Byte := (List.range 16224).map Config.identityCertificate

/-- R359: the body, and the identity signature over it (log entry 7). It waits for the other actions on the partition (R10). -/
def execAttestationReport (p : PartId) (nonce : List Byte) (s : State) : Out :=
  let body := reportBody p nonce s
  let sig := (List.range 17088).map (Config.identitySignature body)
  .next (if settledFor s p then s.modDev (fun d => { d with outbox := d.outbox ++ [.report (body ++ sig)] }) else s)

/-! ## Bring-up (R354 to R357) -/

/-- R354. -/
def execUncClear (s : State) : Out := .next (setBit 2 false s)

/-- The device after a reset, with MR0 extended by the digest of the boot ROM (R358). What is to come of the schedule and of free
values is kept. -/
def afterReset (s : State) : State :=
  let t := { State.reset with sched := s.sched, dev := { Device.reset with freeIdx := s.dev.freeIdx } }
  extend 0 ((List.range 32).map Config.bootRomDigest) t

/-- R355: the boot ROM starts. -/
def execDeviceReset (s : State) : Out := .next (setPhase 1 0 (afterReset s))

/-- A failure: no partition remains configured, and no job is known (R355). -/
def failDevice (code : Nat) (s : State) : State :=
  let had := s.allParts.any (·.configured)
  let s := { s with part := Partition.fresh PartCfg.none false, parts := [], hart := Hart.absent, harts := [] }
  let s := s.modDev (fun d => { d with jobs := [], contexts := [] })
  setPhase 4 code (setBit 3 false (if had then measureTable s else s))

/-- The header of an image keeps its layout (R357). -/
def Firmware.headerOk (fw : Firmware) : Bool :=
  let h := leNat (fw.image.take 64)
  decide (64 ≤ fw.image.length) && bitsOf h 0 32 == 1 && bitsOf h 64 64 == fw.image.length - 64 && bitsOf h 128 384 == 0

def Firmware.version (fw : Firmware) : BitVec 32 := BitVec.ofNat 32 (bitsOf (leNat (fw.image.take 64)) 32 32)

/-- The key is the vendor's by its fused digest, and its signature over the header and the image is accepted (R357; log entry 7). -/
def Firmware.signed (fw : Firmware) : Bool :=
  decide (fw.key.length = 48 ∧ fw.signature.length = 16224) && sha256 fw.key == (List.range 32).map Config.vendorDigest &&
    Config.slhVerify fw.key fw.image fw.signature

/-- R355, R357 (DEDUCED, log entry 45). -/
def execFirmwareVerify (fw : Firmware) (s : State) : Out :=
  .next (
    if phaseOf s ≠ 1 ∨ s.dev.verified then s
    else if Firmware.signed fw = false ∨ Firmware.headerOk fw = false then failDevice 1 s
    else if (Firmware.version fw).ult (Config.minVersion 0) then failDevice 2 s
    else (extend 1 (sha256 fw.image) s).modDev (fun d => { d with verified := true }))

/-- R355. -/
def execDieSelfTest (passed : BitVec 4) (s : State) : Out :=
  .next (
    if phaseOf s ≠ 1 ∨ s.dev.verified = false then s
    else if passed = 0 then failDevice 5 s
    else setPhase 2 0 (s.modDev (fun d => { d with devstat := d.devstat ||| (passed.setWidth 64 <<< 16), clock := 18 })))

/-- R355, R356: training fails on a channel that a configured partition needs, or full service is ready without the channels that have
failed. -/
def execHbmTraining (failed : BitVec 256) (s : State) : Out :=
  .next (
    if phaseOf s ≠ 2 ∨ readyBit s then s
    else if s.allParts.any (fun p => p.configured && (p.cfg.chans &&& failed) != 0) then failDevice 3 s
    else setBit 3 true (s.modDev (fun d => { d with withdrawn := d.withdrawn ||| failed })))

/-- R356: one action on every partition (R10). -/
def execFullServiceReconfigure (s : State) : Out :=
  .next (
    if phaseOf s = 2 ∧ readyBit s ∧ s.allHarts.all (fun h => !h.isLive) ∧
        s.allParts.all (fun p => !p.configured || jobSettled s p.cfg.job) then
      let s := setPhase 3 0 (setBit 3 false (s.modDev (fun d => { d with clock := 36 })))
      ((s.allParts.filter (·.configured)).map (·.cfg.pid)).foldl (fun s p => s.inPart p rewritePage) s
    else s)

/-! ## Errors and cooling (R360, R361) -/

/-- The place of a brick among those in which a live hart's vector state lies (R104, R213). -/
def Hart.placeOf (s : State) (b : Nat × Nat) (h : Hart) : Option Nat :=
  if h.isLive then (placeBricks s h).findIdx? (· == b) else none

/-- The logical lane of a brick that a physical one is (R107); none of a lane that is retired. -/
def Brick.logical (b : Brick) (lane : Nat) : Option Nat :=
  if b.retired.getLsbD lane then none else some ((List.range lane).filter (fun i => !b.retired.getLsbD i)).length

/-- Whether a slot, or a tile column by the slot of its element, lies in a logical lane of the i-th brick (R108, R201). Where a register
has fewer slots than a tile has columns, these start again at its first slot (DESIGN CHOICE, log entry 46). -/
def Hart.slotIn (h : Hart) (i lane j : Nat) : Bool :=
  let m := slotsPer h.bricks h.lmod h.nreg
  decide (j % m / (m / h.bricks) = i ∧ j % m % h.lmod = lane)

/-- The register slots and tile columns of a hart that lie in a logical lane of its i-th brick, as units and slots (R108, R201). -/
def Hart.laneSlots (i lane : Nat) (h : Hart) : List (Nat × Nat) :=
  (List.range h.nreg).flatMap (fun r =>
    ((List.range (slotsPer h.bricks h.lmod h.nreg)).filter (h.slotIn i lane)).map (fun j => (r, j))) ++
  (List.range 64).flatMap (fun u => ((List.range (tileCols h.bricks h.lmod)).filter (h.slotIn i lane)).map (fun j => (32 + u, j)))

/-- A slot of a hart's vector state that an uncorrectable error has made unreadable (R361). Which of those that lie in the lane it is,
the manual does not say: a free value (log entry 46). -/
def Hart.loseSlot (n i lane : Nat) (h : Hart) : Hart :=
  let l := h.laneSlots i lane
  match l[Config.lostUnit n % l.length]? with
  | none => h
  | some u => { h with live := { h.live with lost := u :: h.live.lost }, ckpt := { h.ckpt with lost := u :: h.ckpt.lost } }

/-- What an error in a physical lane of a brick does to a hart. -/
def Hart.struck (s : State) (n : Nat) (b : Nat × Nat) (lane : Nat) (h : Hart) : Hart :=
  match h.placeOf s b, (s.brickAt b.1 b.2).logical lane with
  | some i, some l => h.loseSlot n i l
  | _, _ => h

/-- R361: the lane that held an uncorrectable slot goes (DESIGN CHOICE, log entry 46). -/
def execLaneRetirement (hall brick : Nat) (lane : BitVec 4) (s : State) : Out :=
  let b := s.brickAt hall brick
  .next (
    if hall < 48 ∧ brick < Config.bricksPerHall then
      let n := s.dev.freeIdx
      let s := s.mapHarts (Hart.struck s n (hall, brick) lane.toNat)
      arbitrate hall (s.noteUncor.modDev (fun d =>
        { d with
          freeIdx := n + 1
          bricks := assocSet d.bricks (hall, brick) { b with retired := b.retired ||| (1#16 <<< lane.toNat) } }))
    else s)

/-- R360. -/
def execThrottle (s : State) : Out :=
  .next (setBit 1 true (s.modDev (fun d => { d with clock := Nat.max 18 (d.clock - 3) })))

/-- The clock of a service: 3.6 GHz, in reduced service 1.8 GHz (R356). -/
def nominalClock (s : State) : Nat := if phaseOf s = 3 then 36 else 18

/-- R360: THR clears when the clock is at its full rate again (DEDUCED, log entry 44). -/
def execUnthrottle (s : State) : Out :=
  let clock := Nat.min (nominalClock s) (s.dev.clock + 3)
  let s := s.modDev (fun d => { d with clock := clock })
  .next (if clock = nominalClock s then setBit 1 false s else s)

/-- R360: no strip commits, and the device resets into phase 4; DIES still shows the dies that passed (R355)
(DEDUCED, log entry 44). -/
def execThermalShutdown (s : State) : Out :=
  let t := afterReset s
  .next (setPhase 4 4 (t.modDev (fun d => { d with devstat := d.devstat ||| (s.dev.devstat &&& 0xF0000) })))

end Sys2Proof.Machine
end

