-- ==== Sys2Proof/Machine/Tile.lean ====
section
/-! DEFINITION. Tiles (R201 to R203). -/

namespace Sys2Proof.Machine

/-- The columns of a tile under the geometry in force (R201). -/
def columns (h : Hart) : Nat := tileCols h.bricks h.lmod

/-- The unit of a tile row among the slots of a strip. -/
def tileUnit (t r : Nat) : Nat := 32 + 16 * t + r

/-- UNCOR where one of the first columns of some tile rows is unreadable (R361). -/
def checkTile (unit : Nat → Bool) (p : Shp) : M Unit := do
  let lost ← read (fun s => s.hart.live.lost)
  check (!lost.any (fun u => unit u.1 && decide (u.2 < p.vl))) .uncor 0

def tileAt (st : Strip) (t r c : Nat) : Slot := (((st.t.toList.getD t (Vector.replicate 16 [])).toList.getD r []).getD c 0)

/-- A tile row with columns replaced; those written are readable. -/
def Strip.setTileRow (st : Strip) (t r : Nat) (written : Nat → Bool) (f : List Slot → List Slot) : Strip :=
  { st with
    t := st.t.setIfInBounds t ((st.t.toList.getD t (Vector.replicate 16 [])).setIfInBounds r
      (f ((st.t.toList.getD t (Vector.replicate 16 [])).toList.getD r [])))
    lost := st.lost.filter (fun u => !(u.1 == tileUnit t r && written u.2)) }

/-- The formats that TMAC admits (R181). -/
def tmacAdmits (ew : BitVec 6) : Bool := ew = 0x00 || ew = 0x04 || ew = 0x08 || ew = 0x09 || ew = 0x0A || isBinary8 ew

/-- One result of TMAC: the exact sum of the accumulator and eight products, rounded once, or taken modulo 2^32 (R202). -/
def tmacElem (p : Shp) (acc : Nat) (bs cs : List Nat) : Nat :=
  if isInt p.ew then
    let v := fun x => if isSignedInt p.ew then signedOf 8 x else ((x % 256 : Nat) : Int)
    lowBits 32 ((bs.zip cs).foldl (fun s x => s + v x.1 * v x.2) (signedOf 32 acc))
  else
    fmtF32.conv p.rnd 0 false
      ((bs.zip cs).foldl (fun s x => fAdd true p.rnd s (fMul (p.val x.1) (p.val x.2))) (fmtF32.value acc))

/-- One tile of TMAC (R202). -/
def tmacTile (p : Shp) (t b c : Nat) (st : Strip) : Tile :=
  Vector.ofFn (fun r : Fin 16 =>
    (List.range p.vl).map (fun j =>
      BitVec.ofNat 32 (tmacElem p (tileAt st t r.val j).toNat
        ((List.range 8).map (fun k => getElem st p.grp (BitVec.ofNat 5 b) 0 (8 * r.val + k)))
        ((List.range 8).map (fun k => getElem st p.grp (BitVec.ofNat 5 (c + k)) 0 j))))
      ++ ((st.t.toList.getD t (Vector.replicate 16 [])).toList.getD r.val []).drop p.vl)

/-- The tile blocks of a TMAC, all sources read from the same strip. -/
def tmacStrip (o : Tm) (p : Shp) (st : Strip) : Strip :=
  (List.range (2 ^ o.r.toNat)).foldl (fun acc q =>
    { acc with t := acc.t.setIfInBounds (o.t.toNat + q) (tmacTile p (o.t.toNat + q) (o.b.toNat + q) o.c.toNat st) }) st

/-- A tile instruction: refused in reduced service (R356), then as a vector instruction. -/
def tileOp (u : VUse) (own : Shp → M Unit) (effect : Shp → M Unit) (s : State) : Out :=
  run (do needFull u.word; vectorOpIf u 4 own effect) s

/-- ILLSHAPE where VL passes the columns of a tile (R202, R203). -/
def checkColumns (w : BitVec 32) (least : Nat) (p : Shp) : M Unit := do
  let h ← read (·.hart)
  if p.cap < least || columns h < p.vl then trapWord .illshape w else pure ()

/-- R202. -/
def execTmac (o : Tm) (s : State) : Out :=
  let w := eTm 0x2D#6 0#5 o
  tileOp
    { word := w, admits := tmacAdmits, oneRow := true, oneReg := true
      groups := fun _ => [(o.b, 2 ^ o.r.toNat), (o.c, 8)], pops := [o.b, o.c]
      slots := some (fun p _ u =>
        decide (o.b.toNat ≤ u.1 ∧ u.1 < o.b.toNat + 2 ^ o.r.toNat ∧ u.2 * 32 < 128 * p.w) ||
          decide (o.c.toNat ≤ u.1 ∧ u.1 < o.c.toNat + 8 ∧ u.2 * 32 < p.vl * p.w)) }
    (fun p => do
      checkColumns w 128 p
      checkTile (fun u => decide (tileUnit o.t.toNat 0 ≤ u ∧ u < tileUnit (o.t.toNat + 2 ^ o.r.toNat) 0)) p) (onStrip (tmacStrip o)) s

/-- R203. -/
def execTzero (t : TReg) (s : State) : Out :=
  tileOp { word := eTa 0x2D#6 1#5 t, plain := true } (fun _ => pure ())
    (onStrip (fun _ st =>
      { st with
        t := st.t.setIfInBounds t.toNat (Vector.replicate 16 [])
        lost := st.lost.filter (fun u => decide (u.1 < tileUnit t.toNat 0 ∨ tileUnit (t.toNat + 1) 0 ≤ u.1)) })) s

/-- The 32-bit formats of TROW and TSETROW (R181). -/
def rowAdmits (ew : BitVec 6) : Bool := ew = 0x02 || ew = 0x06 || ew = 0x0A

/-- R203. -/
def execTrow (o : Trw) (s : State) : Out :=
  let w := eTrw 0x2D#6 2#5 o
  let r := (s.xr o.c).toNat % 16
  tileOp
    { word := w, admits := rowAdmits, oneRow := true, oneReg := true, groups := sameGroups [o.a], dst := some o.a }
    (fun p => do checkColumns w 0 p; checkTile (· == tileUnit o.t.toNat r) p)
    (onStrip (fun p st => writeRows p p.grp o.m o.a (fun _ e => (tileAt st o.t.toNat r e).toNat) st)) s

/-- R203. -/
def execTsetrow (o : Tsr) (s : State) : Out :=
  let w := eTsr 0x2D#6 4#5 o
  let r := (s.xr o.c).toNat % 16
  tileOp
    { word := w, admits := rowAdmits, oneRow := true, oneReg := true, groups := sameGroups [o.b], pops := [o.b] }
    (checkColumns w 0)
    (onStrip (fun p st => st.setTileRow o.t.toNat r (fun c => decide (c < p.vl) && st.active o.m c) (fun old =>
      (List.range p.vl).map (fun e =>
        if st.active o.m e then BitVec.ofNat 32 (getElem st p.grp o.b 0 e) else old.getD e 0) ++ old.drop p.vl))) s

end Sys2Proof.Machine
end

