-- ==== Sys2Proof/Machine/Vcvt.lean ====
section
/-! DEFINITION. Conversion of vectors between formats (R174, R176 to R180). -/

namespace Sys2Proof.Machine

/-- Whether a rounding mode is admitted for a pair of formats (R177). -/
def modeAdmitted (src dst : BitVec 6) (mode : BitVec 3) : Bool :=
  mode = 7 || decide (mode.toNat ≤ 4) ||
    (isFloat src && isFloat dst && decide (widthOf dst < widthOf src))

/-- The destination group: q registers per row, as many elements as a source row (R178). -/
def cvtGroup (p : Shp) (d : BitVec 6) : Grp := p.grpOfWidth (widthOf d)

/-- The converted elements with error feedback, in ascending linear order, and the residual left (R174). An inactive position
holds 0 in the list and neither reads nor changes the residual. -/
def efbElements (fm : Fmt) (sat : Bool) : List (Bool × FVal) → Word → List Nat × Word
  | [], c => ([], c)
  | (active, x) :: rest, c =>
    let t := if active then efbFloat fm sat c x else (0, c)
    let more := efbElements fm sat rest t.2
    (t.1 :: more.1, more.2)

/-- The converted strip (R178). -/
def cvtStrip (o : Cvt) (z : Nat → Nat → Word) (p : Shp) (st : Strip) : Strip :=
  let g := cvtGroup p o.d
  let sat := o.sat = 1
  let x := fun r e => elemValue p.ew (getElem st p.grp o.b r e)
  if o.mode = 6 then
    let t := efbElements (fmtOf o.d) sat ((positions p.rows p.vl).map (fun re => (st.active o.m re.2, x re.1 re.2))) st.efc
    writeRows p g o.m o.a (fun r e => t.1.getD (r * p.vl + e) 0) { st with efc := t.2 }
  else
    let mode := if o.mode = 7 then p.rnd else RMode.ofCode o.mode
    writeRows p g o.m o.a (fun r e => conv o.d mode (z r e) sat (x r e)) st

/-- R178; in reduced service the destination must be a format that it offers (R356). -/
def execVcvt (o : Cvt) (s : State) : Out :=
  let red := isReduced s
  run (vectorOp
    { word := eCvt 0x28#6 o
      admits := fun ew => isFormat o.d && modeAdmitted ew o.d o.mode && (!red || isReducedFormat o.d)
      groups := fun p => [(o.a, (cvtGroup p o.d).q), (o.b, p.q)]
      pops := [o.b]
      dst := some o.a } 4
    (onStrip (cvtStrip o (stoWord s)))) s

end Sys2Proof.Machine
end

