-- ==== Sys2Proof/Machine/Vmem.lean ====
section
/-! DEFINITION. Vector loads and stores (R147 to R154). -/

namespace Sys2Proof.Machine

/-- The active elements of an access, in linear order. -/
def memElts (p : Shp) (m : MReg) (addr : Nat → Nat → Word) (st : Strip) : List Elt :=
  (positions p.rows p.vl).filterMap (fun re => if st.active m re.2 then some ⟨re.1, re.2, addr re.1 re.2⟩ else none)

/-- Values of the active elements laid out over all positions. -/
def spreadVals : List Bool → List Nat → List Nat
  | [], _ => []
  | true :: bs, v :: vs => v :: spreadVals bs vs
  | _ :: bs, vs => 0 :: spreadVals bs vs

/-- The addresses of R148, from the registers, the shape and the strip. -/
abbrev AddrFn := State → Shp → Nat → Nat → Word

/-- xB + i × b. -/
def addrUnit (b : XReg) : AddrFn := fun s p r e => s.xr b + word ((r * p.vl + e) * (p.w / 8))

/-- xB + i × xC. -/
def addrStride (b c : XReg) : AddrFn := fun s p r e => s.xr b + word (r * p.vl + e) * s.xr c

/-- xB + zext(Elem32(vC, i)). -/
def addrIndexed (b : XReg) (c : VReg) : AddrFn := fun s p r e =>
  s.xr b + word (getElem s.hart.live (p.grpOfWidth 32) c r e)

/-- xB + ρ × xC + e × b. -/
def addrRows (b c : XReg) : AddrFn := fun s p r e => s.xr b + word r * s.xr c + word (e * (p.w / 8))

/-- The groups of a load or store: the data, and the offsets where there are any (R149). -/
def memGroups (a : VReg) (off : Option VReg) (p : Shp) : List (VReg × Nat) :=
  (a, p.q) :: off.toList.map (fun c => (c, (p.grpOfWidth 32).q))

/-- A vector load (R150): the elements that are read, and which value each position takes. -/
def loadWith (w : BitVec 32) (m : MReg) (a : VReg) (off : Option VReg) (elts : State → Shp → List Elt)
    (lay : Strip → Shp → List Nat → List Nat) : M Unit := retry do
  let u : VUse := { word := w, groups := memGroups a off, pops := off.toList, dst := some a }
  let p ← vectorChecks u
  roomForAppend p u.dst
  popSources u p
  let els ← read (fun s => elts s p)
  let r ← loadElems (p.w / 8) els
  let ap ← prepareAppend p w (some a) r.2
  let vals ← readElems (p.w / 8) r.1
  update (fun s => s.modLive (fun st =>
    let table := lay st p vals
    writeRows p p.grp m a (fun row e => table.getD (row * p.vl + e) 0) st))
  doAppend p ap
  finishVector 4

/-- Which positions are active. -/
def activeList (m : MReg) (st : Strip) (p : Shp) : List Bool := (positions p.rows p.vl).map (fun re => st.active m re.2)

/-- A load with an address for each element. -/
def vload (w : BitVec 32) (m : MReg) (a : VReg) (off : Option VReg) (addr : AddrFn) (s : State) : Out :=
  run (loadWith w m a off (fun s p => memElts p m (addr s p) s.hart.live)
    (fun st p vals => spreadVals (activeList m st p) vals)) s

/-- A vector store (R150, R153). Room is made before any fault, but for offsets that a stream is yet to give. -/
def storeWith (w : BitVec 32) (m : MReg) (a : VReg) (off : Option VReg) (addr : AddrFn) : M Unit := retry do
  let u : VUse := { word := w, groups := memGroups a off, pops := off.toList ++ [a] }
  let p ← vectorChecks u
  let room := do makeRoom ((← read (fun s => memElts p m (addr s p) s.hart.live)).map (·.addr))
  let early ← read (fun s => off.all (fun c => (s.bindingOf c).isNone))
  if early then room else pure ()
  popSources u p
  room
  let els ← read (fun s => memElts p m (addr s p) s.hart.live)
  let r ← checkElems .store (p.w / 8) els
  raiseFault r.2
  let st ← read (fun s => s.hart.live)
  emit (r.1.map (fun x => mkStore x.1.addr x.2 (leBytes (p.w / 8) (getElem st p.grp a x.1.row x.1.e))))
  finishVector 4

def vstore (w : BitVec 32) (m : MReg) (a : VReg) (off : Option VReg) (addr : AddrFn) (s : State) : Out :=
  run (storeWith w m a off addr) s

/-- R150. -/
def execVldu (o : VM2) (s : State) : Out := vload (eVM2 0x22#6 0x00#5 o) o.m o.a none (addrUnit o.b) s

/-- R150. -/
def execVlds (o : VM3) (s : State) : Out := vload (eVM3 0x22#6 0x01#5 o) o.m o.a none (addrStride o.b o.c) s

/-- R150. -/
def execVldx (o : VMK3) (s : State) : Out := vload (eVMK3 0x22#6 0x02#5 o) o.m o.a (some o.c) (addrIndexed o.b o.c) s

/-- R150: the one location is read once, if any element is active. -/
def execVldb (o : VM2) (s : State) : Out :=
  run (loadWith (eVM2 0x22#6 0x03#5 o) o.m o.a none
    (fun s p => (memElts p o.m (fun _ _ => s.xr o.b) s.hart.live).take 1)
    (fun st p vals => (activeList o.m st p).map (fun _ => vals.headD 0))) s

/-- R150. -/
def execVld2d (o : VM3) (s : State) : Out := vload (eVM3 0x22#6 0x04#5 o) o.m o.a none (addrRows o.b o.c) s

/-- R150. -/
def execVstu (o : VM2) (s : State) : Out := vstore (eVM2 0x23#6 0x00#5 o) o.m o.a none (addrUnit o.b) s

/-- R150. -/
def execVsts (o : VM3) (s : State) : Out := vstore (eVM3 0x23#6 0x01#5 o) o.m o.a none (addrStride o.b o.c) s

/-- R150. -/
def execVstx (o : VMK3) (s : State) : Out := vstore (eVMK3 0x23#6 0x02#5 o) o.m o.a (some o.c) (addrIndexed o.b o.c) s

/-- R74: VSTUU leaves the order of its elements open; DESIGN CHOICE (log entry 12): ascending order. -/
def execVstuu (o : VM2) (s : State) : Out := vstore (eVM2 0x23#6 0x03#5 o) o.m o.a none (addrUnit o.b) s

/-- R74, as VSTUU. -/
def execVstxu (o : VMK3) (s : State) : Out := vstore (eVMK3 0x23#6 0x04#5 o) o.m o.a (some o.c) (addrIndexed o.b o.c) s

/-- R150. -/
def execVst2d (o : VM3) (s : State) : Out := vstore (eVM3 0x23#6 0x05#5 o) o.m o.a none (addrRows o.b o.c) s

end Sys2Proof.Machine
end

