-- ==== Sys2Proof/Machine/Vmsk.lean ====
section
/-! DEFINITION. Vector compares and masks (R189 to R192). -/

namespace Sys2Proof.Machine

/-- A relation of two elements under a shape. -/
abbrev ElemRel := Shp → Nat → Nat → Bool

/-- A compare into a mask (R190). -/
def compare (admits : BitVec 6 → Bool) (w : BitVec 32) (m d : MReg) (srcs : List VReg) (f : Shp → Strip → Nat → Bool) (s : State) : Out :=
  run (vectorOp
    { word := w, admits := admits, oneRow := true, groups := sameGroups srcs, maskDst := some d, pops := srcs } 4
    (onStrip (fun p st => writeMask p m d (f p st) st))) s

def compareV (admits : BitVec 6 → Bool) (rel : ElemRel) (w : BitVec 32) (o : CmpV) (s : State) : Out :=
  compare admits w o.m o.d [o.b, o.c] (fun p st e => rel p (getElem st p.grp o.b 0 e) (getElem st p.grp o.c 0 e)) s

def compareX (admits : BitVec 6 → Bool) (rel : ElemRel) (w : BitVec 32) (o : CmpX) (s : State) : Out :=
  compare admits w o.m o.d [o.b] (fun p st e => rel p (getElem st p.grp o.b 0 e) (bitsOf (s.xr o.c).toNat 0 p.w)) s

def relEq : ElemRel := fun _ b c => b == c
def relNe : ElemRel := fun _ b c => b != c
def relLt : ElemRel := fun p b c => decide (signedOf p.w b < signedOf p.w c)
def relLe : ElemRel := fun p b c => decide (signedOf p.w b ≤ signedOf p.w c)
def relLtn : ElemRel := fun _ b c => decide (b < c)
def relLen : ElemRel := fun _ b c => decide (b ≤ c)
def relFeq : ElemRel := fun p b c => fEqv (p.val b) (p.val c)
def relFlt : ElemRel := fun p b c => fLt (p.val b) (p.val c)
def relFle : ElemRel := fun p b c => fLe (p.val b) (p.val c)
def relFun : ElemRel := fun p b c => (p.val b).isNan || (p.val c).isNan

/-- R190. -/
def execVceq (o : CmpV) (s : State) : Out := compareV isInt relEq (eCmpV 0x29#6 0#5 o) o s

/-- R183, R190. -/
def execVceqX (o : CmpX) (s : State) : Out := compareX isInt relEq (eCmpX 0x29#6 16#5 o) o s

/-- R190. -/
def execVcne (o : CmpV) (s : State) : Out := compareV isInt relNe (eCmpV 0x29#6 1#5 o) o s

/-- R183, R190. -/
def execVcneX (o : CmpX) (s : State) : Out := compareX isInt relNe (eCmpX 0x29#6 17#5 o) o s

/-- R190. -/
def execVclt (o : CmpV) (s : State) : Out := compareV isInt relLt (eCmpV 0x29#6 2#5 o) o s

/-- R183, R190. -/
def execVcltX (o : CmpX) (s : State) : Out := compareX isInt relLt (eCmpX 0x29#6 18#5 o) o s

/-- R190. -/
def execVcle (o : CmpV) (s : State) : Out := compareV isInt relLe (eCmpV 0x29#6 3#5 o) o s

/-- R183, R190. -/
def execVcleX (o : CmpX) (s : State) : Out := compareX isInt relLe (eCmpX 0x29#6 19#5 o) o s

/-- R190. -/
def execVcltn (o : CmpV) (s : State) : Out := compareV isInt relLtn (eCmpV 0x29#6 4#5 o) o s

/-- R183, R190. -/
def execVcltnX (o : CmpX) (s : State) : Out := compareX isInt relLtn (eCmpX 0x29#6 20#5 o) o s

/-- R190. -/
def execVclen (o : CmpV) (s : State) : Out := compareV isInt relLen (eCmpV 0x29#6 5#5 o) o s

/-- R183, R190. -/
def execVclenX (o : CmpX) (s : State) : Out := compareX isInt relLen (eCmpX 0x29#6 21#5 o) o s

/-- R190. -/
def execVfceq (o : CmpV) (s : State) : Out := compareV isIeee relFeq (eCmpV 0x29#6 6#5 o) o s

/-- R183, R190. -/
def execVfceqX (o : CmpX) (s : State) : Out := compareX isIeee relFeq (eCmpX 0x29#6 22#5 o) o s

/-- R190. -/
def execVfclt (o : CmpV) (s : State) : Out := compareV isIeee relFlt (eCmpV 0x29#6 7#5 o) o s

/-- R183, R190. -/
def execVfcltX (o : CmpX) (s : State) : Out := compareX isIeee relFlt (eCmpX 0x29#6 23#5 o) o s

/-- R190. -/
def execVfcle (o : CmpV) (s : State) : Out := compareV isIeee relFle (eCmpV 0x29#6 8#5 o) o s

/-- R183, R190. -/
def execVfcleX (o : CmpX) (s : State) : Out := compareX isIeee relFle (eCmpX 0x29#6 24#5 o) o s

/-- R190. -/
def execVfcun (o : CmpV) (s : State) : Out := compareV isIeee relFun (eCmpV 0x29#6 9#5 o) o s

/-- R183, R190. -/
def execVfcunX (o : CmpX) (s : State) : Out := compareX isIeee relFun (eCmpX 0x29#6 25#5 o) o s

/-! ## Masks (R191, R192) -/

/-- A member that works on masks only and writes one. -/
def maskOp (w : BitVec 32) (d : MReg) (f : Strip → Nat → Bool) (s : State) : Out :=
  run (vectorOp { word := w, plain := true, maskDst := some d } 4 (onStrip (fun p st => writeMask p 0 d (f st) st))) s

/-- R191. -/
def execMand (o : M3) (s : State) : Out :=
  maskOp (eM3 0x2A#6 0#5 o) o.a (fun st e => st.bit o.b.toNat e && st.bit o.c.toNat e) s

/-- R191. -/
def execMor (o : M3) (s : State) : Out :=
  maskOp (eM3 0x2A#6 1#5 o) o.a (fun st e => st.bit o.b.toNat e || st.bit o.c.toNat e) s

/-- R191. -/
def execMxor (o : M3) (s : State) : Out :=
  maskOp (eM3 0x2A#6 2#5 o) o.a (fun st e => st.bit o.b.toNat e != st.bit o.c.toNat e) s

/-- R191: mB AND NOT mC. -/
def execMandn (o : M3) (s : State) : Out :=
  maskOp (eM3 0x2A#6 3#5 o) o.a (fun st e => st.bit o.b.toNat e && !st.bit o.c.toNat e) s

/-- R191. -/
def execMnot (o : M2) (s : State) : Out := maskOp (eM2 0x2A#6 4#5 o) o.a (fun st e => !st.bit o.b.toNat e) s

/-- The active set bits of a mask below VL, ascending. -/
def setBits (m b : MReg) (vl : Nat) (st : Strip) : List Nat :=
  (List.range vl).filter (fun e => st.active m e && st.bit b.toNat e)

/-- A member that writes an x register from a mask. -/
def maskToX (w : BitVec 32) (o : MX) (f : List Nat → Word) (s : State) : Out :=
  run (vectorOp { word := w, plain := true } 4
    (fun p => update (fun s => s.setX o.a (f (setBits o.m o.b p.vl s.hart.live))))) s

/-- R191. -/
def execMpop (o : MX) (s : State) : Out := maskToX (eMX 0x2A#6 5#5 o) o (fun l => word l.length) s

/-- R191. -/
def execMfirst (o : MX) (s : State) : Out := maskToX (eMX 0x2A#6 6#5 o) o (fun l => (l.head?.map word).getD minusOne) s

/-- R191. -/
def execMsetx (o : MSet) (s : State) : Out :=
  maskOp (eMSet 0x2A#6 7#5 o) o.a (fun _ e => decide (e < 64) && (s.xr o.b).getLsbD e) s

/-- R191, R192: every bit, bound masks included. -/
def execMclr (a : MReg) (s : State) : Out :=
  run (vectorOp { word := eMa 0x2A#6 8#5 a, plain := true } 4 (onStrip (fun _ st => st.setMask a []))) s

/-- A member that writes a vector from a mask; the same in every row. -/
def maskToV (w : BitVec 32) (m : MReg) (a : VReg) (f : Strip → Shp → Nat → Nat) (s : State) : Out :=
  elementwise { word := w, admits := isInt, groups := sameGroups [a] } 4 m a (fun p st _ e => f st p e % 2 ^ p.w) s

/-- R191. -/
def execViota (o : MX) (s : State) : Out :=
  maskToV (eMX 0x2A#6 9#5 o) o.m o.a (fun st _ e => (setBits o.m o.b e st).length) s

/-- R191. -/
def execVidx (o : VIx) (s : State) : Out := maskToV (eVIx 0x2A#6 10#5 o) o.m o.a (fun _ _ e => e) s

/-- R191. -/
def execMmovv (o : MX) (s : State) : Out :=
  maskToV (eMX 0x2A#6 11#5 o) o.m o.a (fun st _ e => if st.bit o.b.toNat e then 1 else 0) s

end Sys2Proof.Machine
end

