-- ==== Sys2Proof/Machine/Vred.lean ====
section
/-! DEFINITION. Reductions (R193 to R196). -/

namespace Sys2Proof.Machine

/-- The active elements of every row with their linear indices (R193). -/
def activeElems (p : Shp) (m : MReg) (b : VReg) (st : Strip) : List (Nat × Nat) :=
  (positions p.rows p.vl).filterMap (fun re =>
    if st.active m re.2 then some (re.1 * p.vl + re.2, getElem st p.grp b re.1 re.2) else none)

/-- A reduction: from the shape, c and the active elements to the bits of xA (R193). -/
abbrev Red := Shp → Nat → List (Nat × Nat) → Word

def reduce (admits : BitVec 6 → Bool) (f : Shp → Strip → List (Nat × Nat) → Word) (w : BitVec 32) (o : VVX) (s : State) : Out :=
  run (vectorOp { word := w, admits := admits, groups := sameGroups [o.b], pops := [o.b] } 4
    (fun p => update (fun s => s.setX o.a (f p s.hart.live (activeElems p o.m o.b s.hart.live))))) s

/-- A reduction that starts from the low bits of xC. -/
def reduceFrom (admits : BitVec 6 → Bool) (f : Red) (w : BitVec 32) (o : VVX) (s : State) : Out :=
  reduce admits (fun p _ xs => f p (bitsOf (s.xr o.c).toNat 0 p.w) xs) w o s

/-- One rounded addition (R194, R195). -/
def sumStep (p : Shp) (a b : Nat) : Nat := p.round (fAdd true p.rnd (p.val a) (p.val b))

/-- R194. -/
def redSumO : Red := fun p c xs => word (xs.foldl (fun acc x => sumStep p acc x.2) c)

/-- One level of the tree: neighbours are added (R195). -/
def treeLevel (p : Shp) : List (Option Nat) → List (Option Nat)
  | a :: b :: rest =>
    (match a, b with
      | some x, some y => some (sumStep p x y)
      | some x, none => some x
      | none, y => y) :: treeLevel p rest
  | l => l

/-- The tree over a number of levels. -/
def treeSum (p : Shp) : Nat → List (Option Nat) → Option Nat
  | 0, l => l.headD none
  | n + 1, l => treeSum p n (treeLevel p l)

/-- R195: the positions of every row, filled up to a power of two. -/
def redSumT (m : MReg) (b : VReg) (c : Word) (p : Shp) (st : Strip) : Word :=
  let leaves := (positions p.rows p.vl).map (fun re => if st.active m re.2 then some (getElem st p.grp b re.1 re.2) else none)
  let levels := if leaves.length ≤ 1 then 0 else Nat.log2 (leaves.length - 1) + 1
  let c := bitsOf c.toNat 0 p.w
  match treeSum p levels (leaves ++ List.replicate (2 ^ levels - leaves.length) none) with
  | none => word c
  | some x => word (sumStep p c x)

/-- R196. -/
def redMaxF : Red := fun p c xs => word (xs.foldl (fun acc x => fMaxBits (fmtOf p.ew) acc x.2) c)
def redMinF : Red := fun p c xs => word (xs.foldl (fun acc x => fMinBits (fmtOf p.ew) acc x.2) c)

/-- The least index of the greatest element under an order. -/
def bestIndex (less : Nat → Nat → Bool) (xs : List (Nat × Nat)) : Option Nat :=
  (xs.foldl (fun best x => match best with
    | none => some x
    | some y => if less y.2 x.2 then some x else some y) (none : Option (Nat × Nat))).map (·.1)

/-- The value of an index member (R196). -/
def indexWord (c : Word) : Option Nat → Word
  | none => minusOne
  | some i => c + word i

/-- Sign- or zero-extension of w bits. -/
def extendBits (signed : Bool) (w x : Nat) : Word := if signed then BitVec.ofInt 64 (signedOf w x) else word (x % 2 ^ w)

/-- A fold extended as the format says (R193). -/
def redFold (f : Nat → Nat → Nat) : Red := fun p c xs =>
  extendBits (isSignedInt p.ew) p.w (xs.foldl (fun acc x => f acc x.2 % 2 ^ p.w) c)

/-- A fold extended as the comparison says (R193). -/
def redPick (signed : Bool) (take : Shp → Nat → Nat → Bool) : Red := fun p c xs =>
  extendBits signed p.w (xs.foldl (fun acc x => if take p acc x.2 then x.2 else acc) c)

/-- R194. -/
def execVrsumo (o : VVX) (s : State) : Out := reduceFrom isIeee redSumO (eVVX 0x2B#6 0#5 o) o s

/-- R195. -/
def execVrsumt (o : VVX) (s : State) : Out :=
  reduce isIeee (fun p st _ => redSumT o.m o.b (s.xr o.c) p st) (eVVX 0x2B#6 1#5 o) o s

/-- R196. -/
def execVrmaxf (o : VVX) (s : State) : Out := reduceFrom isIeee redMaxF (eVVX 0x2B#6 2#5 o) o s

/-- R196. -/
def execVrminf (o : VVX) (s : State) : Out := reduceFrom isIeee redMinF (eVVX 0x2B#6 3#5 o) o s

/-- R196: NaNs take no part. -/
def execVrmaxfi (o : VVX) (s : State) : Out :=
  reduce isIeee (fun p _ xs =>
    indexWord (s.xr o.c) (bestIndex (fun a b => fLess (p.val a) (p.val b)) (xs.filter (fun x => !(p.val x.2).isNan))))
    (eVVX 0x2B#6 4#5 o) o s

/-- R196. -/
def execVrsum (o : VVX) (s : State) : Out := reduceFrom isInt (redFold (· + ·)) (eVVX 0x2B#6 5#5 o) o s

/-- R193, R196. -/
def execVrmax (o : VVX) (s : State) : Out :=
  reduceFrom isInt (redPick true (fun p a b => decide (signedOf p.w a < signedOf p.w b))) (eVVX 0x2B#6 6#5 o) o s

/-- R193, R196. -/
def execVrmin (o : VVX) (s : State) : Out :=
  reduceFrom isInt (redPick true (fun p a b => decide (signedOf p.w b < signedOf p.w a))) (eVVX 0x2B#6 7#5 o) o s

/-- R193, R196. -/
def execVrmaxn (o : VVX) (s : State) : Out :=
  reduceFrom isInt (redPick false (fun _ a b => decide (a < b))) (eVVX 0x2B#6 8#5 o) o s

/-- R193, R196. -/
def execVrminn (o : VVX) (s : State) : Out :=
  reduceFrom isInt (redPick false (fun _ a b => decide (b < a))) (eVVX 0x2B#6 9#5 o) o s

/-- R196. -/
def execVrand (o : VVX) (s : State) : Out := reduceFrom isInt (redFold (· &&& ·)) (eVVX 0x2B#6 10#5 o) o s

/-- R196. -/
def execVror (o : VVX) (s : State) : Out := reduceFrom isInt (redFold (· ||| ·)) (eVVX 0x2B#6 11#5 o) o s

/-- R196. -/
def execVrxor (o : VVX) (s : State) : Out := reduceFrom isInt (redFold (· ^^^ ·)) (eVVX 0x2B#6 12#5 o) o s

/-- R196: signed for i formats, unsigned for n formats. -/
def execVrmaxi (o : VVX) (s : State) : Out :=
  reduce isInt (fun p _ xs =>
    indexWord (s.xr o.c) (bestIndex (fun a b =>
      if isSignedInt p.ew then decide (signedOf p.w a < signedOf p.w b) else decide (a < b)) xs))
    (eVVX 0x2B#6 13#5 o) o s

end Sys2Proof.Machine
end

