-- ==== Sys2Proof/Machine/Vstrm.lean ====
section
/-! DEFINITION. Bound streams: binding, position and unbinding (R256 to R259). -/

namespace Sys2Proof.Machine

/-- The binding that a record describes, with its position; none where a field breaks R256. -/
def bindingFrom (v : VReg) (a : Word) (r : Nat) : Option (Binding × Nat) :=
  let word24 := bitsOf r 192 64
  let fmt := bitsOf word24 0 8
  let dir := bitsOf word24 8 8
  let sblog := bitsOf word24 16 8
  let scale := dwordAt r 32
  let sstride := dwordAt r 40
  let len := bitsOf r 128 64
  let pos := bitsOf r 384 64
  let f := BitVec.ofNat 6 fmt
  if fmt < 64 ∧ isFormat f ∧ bitsOf r 0 64 % (widthOf f / 8) = 0 ∧ len ≤ 2 ^ 48 ∧ dir ≤ 1 ∧ sblog ≤ 16 ∧ bitsOf word24 24 40 = 0 ∧
      (scale = 0 → sstride = 0 ∧ sblog = 0) ∧ pos ≤ len ∧ bitsOf r 448 64 = 0 then
    some (⟨v, dwordAt r 0, dwordAt r 8, len, f, dir = 1, sblog, scale, sstride, a⟩, pos)
  else none

/-- R259. -/
def execVbind (o : R2) (s : State) : Out :=
  engineOp (eR2 0x2E#6 0#10 o) (do
    let a := s.xr o.b
    let r ← readRecord a
    let t ← get
    match bindingFrom o.a a r with
    | some (b, pos) =>
      if t.hart.nreg ≤ o.a.toNat || (t.bindingOf o.a).isSome || decide (8 ≤ t.hart.binds.length) then trap .sbind a
      else enter .copy (do
        let _ ← takeIn .copy
        update (fun s => (s.modHart (fun h =>
          { h with binds := h.binds ++ [b], live := h.live.setPos o.a pos })).complete))
    | none => trap .sbind a) s

/-- The binding of a register, or SUNBOUND with the register number (R259). -/
def boundStream (v : VReg) : M Binding := do
  let b? ← read (fun s => s.bindingOf v)
  match b? with
  | some b => pure b
  | none => trap .sunbound (v.setWidth 64)

/-- R259. -/
def execVunbind (b : XReg) (s : State) : Out :=
  engineOp (eBx 0x2E#6 1#10 b) (do
    let bd ← boundStream b
    let loc ← engineTranslate .store (bd.recVa.toNat + 48)
    enter .copy (do
      let i ← takeIn .copy
      update (fun s =>
        let s := s.engineStore i none loc (leBytes 8 (s.hart.live.posOf b))
        (s.modHart (fun h =>
          { h with
            binds := h.binds.filter (fun x => x.reg != b)
            live := { h.live with pos := h.live.pos.filter (fun x => x.1 != b) } })).complete))) s

/-- R259: xC is a new position where C is not x0. -/
def execVspos (o : R3) (s : State) : Out :=
  engineOp (eR3 0x2E#6 2#10 o) (do
    let v : VReg := o.b
    let bd ← boundStream v
    let c := s.xr o.c
    check (o.c == 0 || decide (c.toNat ≤ bd.len)) .send c
    enter .copy (do
      let _ ← takeIn .copy
      update (fun s =>
        let p := s.hart.live.posOf v
        let s := if o.c = 0 then s else s.modLive (fun st => st.setPos v c.toNat)
        s.finish o.a (word p)))) s

/-- R259. -/
def execVsflush (b : XReg) (s : State) : Out :=
  engineOp (eBx 0x2E#6 3#10 b) (do
    let bd ← boundStream b
    let loc ← engineTranslate .store (bd.recVa.toNat + 48)
    enter .copy (do
      let i ← takeIn .copy
      update (fun s => (s.engineStore i none loc (leBytes 8 (s.hart.live.posOf b))).complete))) s

end Sys2Proof.Machine
end

