-- ==== Sys2Proof/Machine/Dispatch.lean ====
section
/-! DEFINITION. The meaning of every instruction: one arm for each constructor of Instr. -/

namespace Sys2Proof.Machine

def exec (i : Instr) (s : State) : Host.Outcome State Fault Refusal :=
  match i with
  | .add o => Sys2Proof.Machine.execAdd o s
  | .sub o => Sys2Proof.Machine.execSub o s
  | .and o => Sys2Proof.Machine.execAnd o s
  | .or o => Sys2Proof.Machine.execOr o s
  | .xor o => Sys2Proof.Machine.execXor o s
  | .andn o => Sys2Proof.Machine.execAndn o s
  | .shl o => Sys2Proof.Machine.execShl o s
  | .shr o => Sys2Proof.Machine.execShr o s
  | .sra o => Sys2Proof.Machine.execSra o s
  | .rol o => Sys2Proof.Machine.execRol o s
  | .ror o => Sys2Proof.Machine.execRor o s
  | .slt o => Sys2Proof.Machine.execSlt o s
  | .sltn o => Sys2Proof.Machine.execSltn o s
  | .min o => Sys2Proof.Machine.execMin o s
  | .max o => Sys2Proof.Machine.execMax o s
  | .minn o => Sys2Proof.Machine.execMinn o s
  | .maxn o => Sys2Proof.Machine.execMaxn o s
  | .mul o => Sys2Proof.Machine.execMul o s
  | .mulh o => Sys2Proof.Machine.execMulh o s
  | .mulhn o => Sys2Proof.Machine.execMulhn o s
  | .div o => Sys2Proof.Machine.execDiv o s
  | .divn o => Sys2Proof.Machine.execDivn o s
  | .rem o => Sys2Proof.Machine.execRem o s
  | .remn o => Sys2Proof.Machine.execRemn o s
  | .clz o => Sys2Proof.Machine.execClz o s
  | .ctz o => Sys2Proof.Machine.execCtz o s
  | .popc o => Sys2Proof.Machine.execPopc o s
  | .sext o => Sys2Proof.Machine.execSext o s
  | .zext o => Sys2Proof.Machine.execZext o s
  | .addw o => Sys2Proof.Machine.execAddw o s
  | .subw o => Sys2Proof.Machine.execSubw o s
  | .addi o => Sys2Proof.Machine.execAddi o s
  | .andi o => Sys2Proof.Machine.execAndi o s
  | .ori o => Sys2Proof.Machine.execOri o s
  | .xori o => Sys2Proof.Machine.execXori o s
  | .slti o => Sys2Proof.Machine.execSlti o s
  | .sltni o => Sys2Proof.Machine.execSltni o s
  | .shli o => Sys2Proof.Machine.execShli o s
  | .shri o => Sys2Proof.Machine.execShri o s
  | .srai o => Sys2Proof.Machine.execSrai o s
  | .rori o => Sys2Proof.Machine.execRori o s
  | .lui o => Sys2Proof.Machine.execLui o s
  | .addpc o => Sys2Proof.Machine.execAddpc o s
  | .ldb o => Sys2Proof.Machine.execLdb o s
  | .ldh o => Sys2Proof.Machine.execLdh o s
  | .ldw o => Sys2Proof.Machine.execLdw o s
  | .ldd o => Sys2Proof.Machine.execLdd o s
  | .ldbn o => Sys2Proof.Machine.execLdbn o s
  | .ldhn o => Sys2Proof.Machine.execLdhn o s
  | .ldwn o => Sys2Proof.Machine.execLdwn o s
  | .stb o => Sys2Proof.Machine.execStb o s
  | .sth o => Sys2Proof.Machine.execSth o s
  | .stw o => Sys2Proof.Machine.execStw o s
  | .std o => Sys2Proof.Machine.execStd o s
  | .beq o => Sys2Proof.Machine.execBeq o s
  | .bne o => Sys2Proof.Machine.execBne o s
  | .blt o => Sys2Proof.Machine.execBlt o s
  | .bge o => Sys2Proof.Machine.execBge o s
  | .bltn o => Sys2Proof.Machine.execBltn o s
  | .bgen o => Sys2Proof.Machine.execBgen o s
  | .jal o => Sys2Proof.Machine.execJal o s
  | .jalr o => Sys2Proof.Machine.execJalr o s
  | .fadd o => Sys2Proof.Machine.execFadd o s
  | .fsub o => Sys2Proof.Machine.execFsub o s
  | .fmul o => Sys2Proof.Machine.execFmul o s
  | .fdiv o => Sys2Proof.Machine.execFdiv o s
  | .fsqrt o => Sys2Proof.Machine.execFsqrt o s
  | .fmin o => Sys2Proof.Machine.execFmin o s
  | .fmax o => Sys2Proof.Machine.execFmax o s
  | .fmadd o => Sys2Proof.Machine.execFmadd o s
  | .feq o => Sys2Proof.Machine.execFeq o s
  | .flt o => Sys2Proof.Machine.execFlt o s
  | .fle o => Sys2Proof.Machine.execFle o s
  | .fcvti o => Sys2Proof.Machine.execFcvti o s
  | .fcvtn o => Sys2Proof.Machine.execFcvtn o s
  | .fcvtf o => Sys2Proof.Machine.execFcvtf o s
  | .fcvtfn o => Sys2Proof.Machine.execFcvtfn o s
  | .fcvtp o => Sys2Proof.Machine.execFcvtp o s
  | .fclass o => Sys2Proof.Machine.execFclass o s
  | .fsgnj o => Sys2Proof.Machine.execFsgnj o s
  | .aaddD o => Sys2Proof.Machine.execAaddD o s
  | .aaddW o => Sys2Proof.Machine.execAaddW o s
  | .aswpD o => Sys2Proof.Machine.execAswpD o s
  | .aswpW o => Sys2Proof.Machine.execAswpW o s
  | .acasD o => Sys2Proof.Machine.execAcasD o s
  | .acasW o => Sys2Proof.Machine.execAcasW o s
  | .aandD o => Sys2Proof.Machine.execAandD o s
  | .aorD o => Sys2Proof.Machine.execAorD o s
  | .axorD o => Sys2Proof.Machine.execAxorD o s
  | .aminD o => Sys2Proof.Machine.execAminD o s
  | .amaxD o => Sys2Proof.Machine.execAmaxD o s
  | .aminnD o => Sys2Proof.Machine.execAminnD o s
  | .amaxnD o => Sys2Proof.Machine.execAmaxnD o s
  | .ldaqD o => Sys2Proof.Machine.execLdaqD o s
  | .strlD o => Sys2Proof.Machine.execStrlD o s
  | .ldaqW o => Sys2Proof.Machine.execLdaqW o s
  | .strlW o => Sys2Proof.Machine.execStrlW o s
  | .fence o => Sys2Proof.Machine.execFence o s
  | .waita o => Sys2Proof.Machine.execWaita o s
  | .waitaw o => Sys2Proof.Machine.execWaitaw o s
  | .yield => Sys2Proof.Machine.execYield s
  | .rdcr o => Sys2Proof.Machine.execRdcr o s
  | .wrcr o => Sys2Proof.Machine.execWrcr o s
  | .prioWrite o => Sys2Proof.Machine.execPrioWrite o s
  | .frndWrite o => Sys2Proof.Machine.execFrndWrite o s
  | .poolRegisterWrite o => Sys2Proof.Machine.execPoolRegisterWrite o s
  | .domainwWrite o => Sys2Proof.Machine.execDomainwWrite o s
  | .ptrootWrite o => Sys2Proof.Machine.execPtrootWrite o s
  | .trap n => Sys2Proof.Machine.execTrap n s
  | .brk => Sys2Proof.Machine.execBrk s
  | .tret => Sys2Proof.Machine.execTret s
  | .halt => Sys2Proof.Machine.execHalt s
  | .vsave b => Sys2Proof.Machine.execVsave b s
  | .vrestore b => Sys2Proof.Machine.execVrestore b s
  | .tlbinv o => Sys2Proof.Machine.execTlbinv o s
  | .icsync => Sys2Proof.Machine.execIcsync s
  | .setvl o => Sys2Proof.Machine.execSetvl o s
  | .setshape b => Sys2Proof.Machine.execSetshape b s
  | .vconf n => Sys2Proof.Machine.execVconf n s
  | .vclose => Sys2Proof.Machine.execVclose s
  | .setshapei imm => Sys2Proof.Machine.execSetshapei imm s
  | .vldu o => Sys2Proof.Machine.execVldu o s
  | .vlds o => Sys2Proof.Machine.execVlds o s
  | .vldx o => Sys2Proof.Machine.execVldx o s
  | .vldb o => Sys2Proof.Machine.execVldb o s
  | .vld2d o => Sys2Proof.Machine.execVld2d o s
  | .vstu o => Sys2Proof.Machine.execVstu o s
  | .vsts o => Sys2Proof.Machine.execVsts o s
  | .vstx o => Sys2Proof.Machine.execVstx o s
  | .vstuu o => Sys2Proof.Machine.execVstuu o s
  | .vstxu o => Sys2Proof.Machine.execVstxu o s
  | .vst2d o => Sys2Proof.Machine.execVst2d o s
  | .vadd o => Sys2Proof.Machine.execVadd o s
  | .vsub o => Sys2Proof.Machine.execVsub o s
  | .vmul o => Sys2Proof.Machine.execVmul o s
  | .vmulh o => Sys2Proof.Machine.execVmulh o s
  | .vmulhn o => Sys2Proof.Machine.execVmulhn o s
  | .vdiv o => Sys2Proof.Machine.execVdiv o s
  | .vdivn o => Sys2Proof.Machine.execVdivn o s
  | .vrem o => Sys2Proof.Machine.execVrem o s
  | .vremn o => Sys2Proof.Machine.execVremn o s
  | .vmin o => Sys2Proof.Machine.execVmin o s
  | .vmax o => Sys2Proof.Machine.execVmax o s
  | .vminn o => Sys2Proof.Machine.execVminn o s
  | .vmaxn o => Sys2Proof.Machine.execVmaxn o s
  | .vand o => Sys2Proof.Machine.execVand o s
  | .vor o => Sys2Proof.Machine.execVor o s
  | .vxor o => Sys2Proof.Machine.execVxor o s
  | .vshl o => Sys2Proof.Machine.execVshl o s
  | .vshr o => Sys2Proof.Machine.execVshr o s
  | .vsra o => Sys2Proof.Machine.execVsra o s
  | .vsadd o => Sys2Proof.Machine.execVsadd o s
  | .vsaddn o => Sys2Proof.Machine.execVsaddn o s
  | .vssub o => Sys2Proof.Machine.execVssub o s
  | .vssubn o => Sys2Proof.Machine.execVssubn o s
  | .vabsd o => Sys2Proof.Machine.execVabsd o s
  | .vmacc o => Sys2Proof.Machine.execVmacc o s
  | .vaddX o => Sys2Proof.Machine.execVaddX o s
  | .vsubX o => Sys2Proof.Machine.execVsubX o s
  | .vmulX o => Sys2Proof.Machine.execVmulX o s
  | .vmulhX o => Sys2Proof.Machine.execVmulhX o s
  | .vmulhnX o => Sys2Proof.Machine.execVmulhnX o s
  | .vdivX o => Sys2Proof.Machine.execVdivX o s
  | .vdivnX o => Sys2Proof.Machine.execVdivnX o s
  | .vremX o => Sys2Proof.Machine.execVremX o s
  | .vremnX o => Sys2Proof.Machine.execVremnX o s
  | .vminX o => Sys2Proof.Machine.execVminX o s
  | .vmaxX o => Sys2Proof.Machine.execVmaxX o s
  | .vminnX o => Sys2Proof.Machine.execVminnX o s
  | .vmaxnX o => Sys2Proof.Machine.execVmaxnX o s
  | .vandX o => Sys2Proof.Machine.execVandX o s
  | .vorX o => Sys2Proof.Machine.execVorX o s
  | .vxorX o => Sys2Proof.Machine.execVxorX o s
  | .vshlX o => Sys2Proof.Machine.execVshlX o s
  | .vshrX o => Sys2Proof.Machine.execVshrX o s
  | .vsraX o => Sys2Proof.Machine.execVsraX o s
  | .vsaddX o => Sys2Proof.Machine.execVsaddX o s
  | .vsaddnX o => Sys2Proof.Machine.execVsaddnX o s
  | .vssubX o => Sys2Proof.Machine.execVssubX o s
  | .vssubnX o => Sys2Proof.Machine.execVssubnX o s
  | .vabsdX o => Sys2Proof.Machine.execVabsdX o s
  | .vmaccX o => Sys2Proof.Machine.execVmaccX o s
  | .vfadd o => Sys2Proof.Machine.execVfadd o s
  | .vfsub o => Sys2Proof.Machine.execVfsub o s
  | .vfmul o => Sys2Proof.Machine.execVfmul o s
  | .vfdiv o => Sys2Proof.Machine.execVfdiv o s
  | .vfmin o => Sys2Proof.Machine.execVfmin o s
  | .vfmax o => Sys2Proof.Machine.execVfmax o s
  | .vfsgnj o => Sys2Proof.Machine.execVfsgnj o s
  | .vfsgnjn o => Sys2Proof.Machine.execVfsgnjn o s
  | .vfsqrt o => Sys2Proof.Machine.execVfsqrt o s
  | .vfrsqrt o => Sys2Proof.Machine.execVfrsqrt o s
  | .vfrcp o => Sys2Proof.Machine.execVfrcp o s
  | .vfexp2 o => Sys2Proof.Machine.execVfexp2 o s
  | .vflog2 o => Sys2Proof.Machine.execVflog2 o s
  | .vfabs o => Sys2Proof.Machine.execVfabs o s
  | .vfneg o => Sys2Proof.Machine.execVfneg o s
  | .vfclass o => Sys2Proof.Machine.execVfclass o s
  | .vfma o => Sys2Proof.Machine.execVfma o s
  | .vfms o => Sys2Proof.Machine.execVfms o s
  | .vfnma o => Sys2Proof.Machine.execVfnma o s
  | .vfscale o => Sys2Proof.Machine.execVfscale o s
  | .vfwadd o => Sys2Proof.Machine.execVfwadd o s
  | .vfwmul o => Sys2Proof.Machine.execVfwmul o s
  | .vfwma o => Sys2Proof.Machine.execVfwma o s
  | .vfaddX o => Sys2Proof.Machine.execVfaddX o s
  | .vfsubX o => Sys2Proof.Machine.execVfsubX o s
  | .vfmulX o => Sys2Proof.Machine.execVfmulX o s
  | .vfdivX o => Sys2Proof.Machine.execVfdivX o s
  | .vfminX o => Sys2Proof.Machine.execVfminX o s
  | .vfmaxX o => Sys2Proof.Machine.execVfmaxX o s
  | .vfsgnjX o => Sys2Proof.Machine.execVfsgnjX o s
  | .vfsgnjnX o => Sys2Proof.Machine.execVfsgnjnX o s
  | .vfmaX o => Sys2Proof.Machine.execVfmaX o s
  | .vfmsX o => Sys2Proof.Machine.execVfmsX o s
  | .vfnmaX o => Sys2Proof.Machine.execVfnmaX o s
  | .vfscaleX o => Sys2Proof.Machine.execVfscaleX o s
  | .vfwaddX o => Sys2Proof.Machine.execVfwaddX o s
  | .vfwmulX o => Sys2Proof.Machine.execVfwmulX o s
  | .vfwmaX o => Sys2Proof.Machine.execVfwmaX o s
  | .vcvt o => Sys2Proof.Machine.execVcvt o s
  | .vceq o => Sys2Proof.Machine.execVceq o s
  | .vcne o => Sys2Proof.Machine.execVcne o s
  | .vclt o => Sys2Proof.Machine.execVclt o s
  | .vcle o => Sys2Proof.Machine.execVcle o s
  | .vcltn o => Sys2Proof.Machine.execVcltn o s
  | .vclen o => Sys2Proof.Machine.execVclen o s
  | .vfceq o => Sys2Proof.Machine.execVfceq o s
  | .vfclt o => Sys2Proof.Machine.execVfclt o s
  | .vfcle o => Sys2Proof.Machine.execVfcle o s
  | .vfcun o => Sys2Proof.Machine.execVfcun o s
  | .vceqX o => Sys2Proof.Machine.execVceqX o s
  | .vcneX o => Sys2Proof.Machine.execVcneX o s
  | .vcltX o => Sys2Proof.Machine.execVcltX o s
  | .vcleX o => Sys2Proof.Machine.execVcleX o s
  | .vcltnX o => Sys2Proof.Machine.execVcltnX o s
  | .vclenX o => Sys2Proof.Machine.execVclenX o s
  | .vfceqX o => Sys2Proof.Machine.execVfceqX o s
  | .vfcltX o => Sys2Proof.Machine.execVfcltX o s
  | .vfcleX o => Sys2Proof.Machine.execVfcleX o s
  | .vfcunX o => Sys2Proof.Machine.execVfcunX o s
  | .mand o => Sys2Proof.Machine.execMand o s
  | .mor o => Sys2Proof.Machine.execMor o s
  | .mxor o => Sys2Proof.Machine.execMxor o s
  | .mandn o => Sys2Proof.Machine.execMandn o s
  | .mnot o => Sys2Proof.Machine.execMnot o s
  | .mpop o => Sys2Proof.Machine.execMpop o s
  | .mfirst o => Sys2Proof.Machine.execMfirst o s
  | .msetx o => Sys2Proof.Machine.execMsetx o s
  | .mclr a => Sys2Proof.Machine.execMclr a s
  | .viota o => Sys2Proof.Machine.execViota o s
  | .vidx o => Sys2Proof.Machine.execVidx o s
  | .mmovv o => Sys2Proof.Machine.execMmovv o s
  | .vrsumo o => Sys2Proof.Machine.execVrsumo o s
  | .vrsumt o => Sys2Proof.Machine.execVrsumt o s
  | .vrmaxf o => Sys2Proof.Machine.execVrmaxf o s
  | .vrminf o => Sys2Proof.Machine.execVrminf o s
  | .vrmaxfi o => Sys2Proof.Machine.execVrmaxfi o s
  | .vrsum o => Sys2Proof.Machine.execVrsum o s
  | .vrmax o => Sys2Proof.Machine.execVrmax o s
  | .vrmin o => Sys2Proof.Machine.execVrmin o s
  | .vrmaxn o => Sys2Proof.Machine.execVrmaxn o s
  | .vrminn o => Sys2Proof.Machine.execVrminn o s
  | .vrand o => Sys2Proof.Machine.execVrand o s
  | .vror o => Sys2Proof.Machine.execVror o s
  | .vrxor o => Sys2Proof.Machine.execVrxor o s
  | .vrmaxi o => Sys2Proof.Machine.execVrmaxi o s
  | .vrgath o => Sys2Proof.Machine.execVrgath o s
  | .vslup o => Sys2Proof.Machine.execVslup o s
  | .vsldn o => Sys2Proof.Machine.execVsldn o s
  | .vcmpr o => Sys2Proof.Machine.execVcmpr o s
  | .vmerge o => Sys2Proof.Machine.execVmerge o s
  | .vmvs o => Sys2Proof.Machine.execVmvs o s
  | .vmvx o => Sys2Proof.Machine.execVmvx o s
  | .vbcst o => Sys2Proof.Machine.execVbcst o s
  | .vmov o => Sys2Proof.Machine.execVmov o s
  | .xchg o => Sys2Proof.Machine.execXchg o s
  | .tmac o => Sys2Proof.Machine.execTmac o s
  | .tzero t => Sys2Proof.Machine.execTzero t s
  | .trow o => Sys2Proof.Machine.execTrow o s
  | .tsetrow o => Sys2Proof.Machine.execTsetrow o s
  | .vbind o => Sys2Proof.Machine.execVbind o s
  | .vunbind b => Sys2Proof.Machine.execVunbind b s
  | .vspos o => Sys2Proof.Machine.execVspos o s
  | .vsflush b => Sys2Proof.Machine.execVsflush b s
  | .hspawn o => Sys2Proof.Machine.execHspawn o s
  | .hexit b => Sys2Proof.Machine.execHexit b s
  | .lease o => Sys2Proof.Machine.execLease o s
  | .garrive a => Sys2Proof.Machine.execGarrive a s
  | .gwait o => Sys2Proof.Machine.execGwait o s
  | .hjoin o => Sys2Proof.Machine.execHjoin o s
  | .cpystart o => Sys2Proof.Machine.execCpystart o s
  | .cpycan b => Sys2Proof.Machine.execCpycan b s
  | .cpystat o => Sys2Proof.Machine.execCpystat o s
  | .cpystatRelease o => Sys2Proof.Machine.execCpystatRelease o s
  | .balloc o => Sys2Proof.Machine.execBalloc o s
  | .ballocFar o => Sys2Proof.Machine.execBallocFar o s
  | .bref o => Sys2Proof.Machine.execBref o s
  | .bfree o => Sys2Proof.Machine.execBfree o s
  | .bcow o => Sys2Proof.Machine.execBcow o s
  | .bpromo o => Sys2Proof.Machine.execBpromo o s
  | .bcompact b => Sys2Proof.Machine.execBcompact b s
  | .epadv a => Sys2Proof.Machine.execEpadv a s
  | .eprd o => Sys2Proof.Machine.execEprd o s
  | .eprdWithdraw o => Sys2Proof.Machine.execEprdWithdraw o s
  | .bstat o => Sys2Proof.Machine.execBstat o s
  | .vxlat o => Sys2Proof.Machine.execVxlat o s
  | .vxlatf o => Sys2Proof.Machine.execVxlatf o s
  | .ixnew o => Sys2Proof.Machine.execIxnew o s
  | .ixapp o => Sys2Proof.Machine.execIxapp o s
  | .ixseal o => Sys2Proof.Machine.execIxseal o s
  | .ixdrop b => Sys2Proof.Machine.execIxdrop b s
  | .ixshare o => Sys2Proof.Machine.execIxshare o s
  | .ixshareRemove o => Sys2Proof.Machine.execIxshareRemove o s
  | .curnew o => Sys2Proof.Machine.execCurnew o s
  | .curatt o => Sys2Proof.Machine.execCuratt o s
  | .curfeed o => Sys2Proof.Machine.execCurfeed o s
  | .curprop o => Sys2Proof.Machine.execCurprop o s
  | .curacc o => Sys2Proof.Machine.execCuracc o s
  | .curroll o => Sys2Proof.Machine.execCurroll o s
  | .curdrop b => Sys2Proof.Machine.execCurdrop b s
  | .curstat o => Sys2Proof.Machine.execCurstat o s
  | .flaunch o => Sys2Proof.Machine.execFlaunch o s
  | .fpoint o => Sys2Proof.Machine.execFpoint o s
  | .fdone o => Sys2Proof.Machine.execFdone o s
  | .fnext o => Sys2Proof.Machine.execFnext o s
  | .fsave b => Sys2Proof.Machine.execFsave b s
  | .fresume b => Sys2Proof.Machine.execFresume b s
  | .fquery o => Sys2Proof.Machine.execFquery o s
  | .fcancel b => Sys2Proof.Machine.execFcancel b s
  | .gswitch b => Sys2Proof.Machine.execGswitch b s
  | .gresume b => Sys2Proof.Machine.execGresume b s
  | .fbstat o => Sys2Proof.Machine.execFbstat o s
  | .cMov o => Sys2Proof.Machine.execCMov o s
  | .cAdd o => Sys2Proof.Machine.execCAdd o s
  | .cSub o => Sys2Proof.Machine.execCSub o s
  | .cAnd o => Sys2Proof.Machine.execCAnd o s
  | .cOr o => Sys2Proof.Machine.execCOr o s
  | .cXor o => Sys2Proof.Machine.execCXor o s
  | .cShl o => Sys2Proof.Machine.execCShl o s
  | .cAddi o => Sys2Proof.Machine.execCAddi o s
  | .cLdd o => Sys2Proof.Machine.execCLdd o s
  | .cMul o => Sys2Proof.Machine.execCMul o s
  | .cSlt o => Sys2Proof.Machine.execCSlt o s
  | .cVmov o => Sys2Proof.Machine.execCVmov o s
  | .cVadd o => Sys2Proof.Machine.execCVadd o s
  | .cVsub o => Sys2Proof.Machine.execCVsub o s
  | .cVmul o => Sys2Proof.Machine.execCVmul o s
  | .cVfadd o => Sys2Proof.Machine.execCVfadd o s
  | .cVfsub o => Sys2Proof.Machine.execCVfsub o s
  | .cVfmul o => Sys2Proof.Machine.execCVfmul o s
  | .cVfma o => Sys2Proof.Machine.execCVfma o s
  | .cVfmax o => Sys2Proof.Machine.execCVfmax o s
  | .cVfmin o => Sys2Proof.Machine.execCVfmin o s
  | .cVand o => Sys2Proof.Machine.execCVand o s
  | .cVxor o => Sys2Proof.Machine.execCVxor o s
  | .setvlGrantWaitEnd h => Sys2Proof.Machine.execSetvlGrantWaitEnd h s
  | .forcedShrink h => Sys2Proof.Machine.execForcedShrink h s
  | .preemption h => Sys2Proof.Machine.execPreemption h s
  | .watchdogExpiry h => Sys2Proof.Machine.execWatchdogExpiry h s
  | .budget => Sys2Proof.Machine.execBudget s
  | .residencyEviction h => Sys2Proof.Machine.execResidencyEviction h s
  | .engineQueueAdmit h => Sys2Proof.Machine.execEngineQueueAdmit h s
  | .waitaWake h => Sys2Proof.Machine.execWaitaWake h s
  | .waitTimeout h => Sys2Proof.Machine.execWaitTimeout h s
  | .haltResume h => Sys2Proof.Machine.execHaltResume h s
  | .haltTimeout h => Sys2Proof.Machine.execHaltTimeout h s
  | .tlbinvComplete h => Sys2Proof.Machine.execTlbinvComplete h s
  | .copyChunkDone o chunk => Sys2Proof.Machine.execCopyChunkDone o chunk s
  | .bcowCopyDone h => Sys2Proof.Machine.execBcowCopyDone h s
  | .promotionComplete o => Sys2Proof.Machine.execPromotionComplete o s
  | .compactionComplete p => Sys2Proof.Machine.execCompactionComplete p s
  | .epochReclaim p => Sys2Proof.Machine.execEpochReclaim p s
  | .ixdropStorageReleased h => Sys2Proof.Machine.execIxdropStorageReleased h s
  | .curpropOutputWritten h => Sys2Proof.Machine.execCurpropOutputWritten h s
  | .fnextServe o => Sys2Proof.Machine.execFnextServe o s
  | .fsaveAreaWritten o => Sys2Proof.Machine.execFsaveAreaWritten o s
  | .launchPark o => Sys2Proof.Machine.execLaunchPark o s
  | .startMessage port p => Sys2Proof.Machine.execStartMessage port p s
  | .hostWrite a va data => Sys2Proof.Machine.execHostWrite a va data s
  | .read a => Sys2Proof.Machine.execRead a s
  | .readResponse a => Sys2Proof.Machine.execReadResponse a s
  | .write a => Sys2Proof.Machine.execWrite a s
  | .writeAcknowledgement a => Sys2Proof.Machine.execWriteAcknowledgement a s
  | .atomic a => Sys2Proof.Machine.execAtomic a s
  | .atomicResponse a => Sys2Proof.Machine.execAtomicResponse a s
  | .marker tag port vc => Sys2Proof.Machine.execMarker tag port vc s
  | .management a => Sys2Proof.Machine.execManagement a s
  | .flitReplay port => Sys2Proof.Machine.execFlitReplay port s
  | .credit port vc => Sys2Proof.Machine.execCredit port vc s
  | .injectionAdmit port => Sys2Proof.Machine.execInjectionAdmit port s
  | .linkTraining port lanes => Sys2Proof.Machine.execLinkTraining port lanes s
  | .linkDown port => Sys2Proof.Machine.execLinkDown port s
  | .hartsOff tag node => Sys2Proof.Machine.execHartsOff tag node s
  | .jobSwitchedOut tag => Sys2Proof.Machine.execJobSwitchedOut tag s
  | .latePacket port p => Sys2Proof.Machine.execLatePacket port p s
  | .jobResumed tag => Sys2Proof.Machine.execJobResumed tag s
  | .partitionConfigure cfg => Sys2Proof.Machine.execPartitionConfigure cfg s
  | .routeConfigure node routes => Sys2Proof.Machine.execRouteConfigure node routes s
  | .resizeHall r => Sys2Proof.Machine.execResizeHall r s
  | .resizeMemory p l2 chans => Sys2Proof.Machine.execResizeMemory p l2 chans s
  | .granuleMigration p granule => Sys2Proof.Machine.execGranuleMigration p granule s
  | .partitionPreemption p => Sys2Proof.Machine.execPartitionPreemption p s
  | .attestationReport p nonce => Sys2Proof.Machine.execAttestationReport p nonce s
  | .uncClear => Sys2Proof.Machine.execUncClear s
  | .deviceReset => Sys2Proof.Machine.execDeviceReset s
  | .firmwareVerify fw => Sys2Proof.Machine.execFirmwareVerify fw s
  | .dieSelfTest passed => Sys2Proof.Machine.execDieSelfTest passed s
  | .hbmTraining failed => Sys2Proof.Machine.execHbmTraining failed s
  | .fullServiceReconfigure => Sys2Proof.Machine.execFullServiceReconfigure s
  | .laneRetirement hall brick lane => Sys2Proof.Machine.execLaneRetirement hall brick lane s
  | .throttle => Sys2Proof.Machine.execThrottle s
  | .unthrottle => Sys2Proof.Machine.execUnthrottle s
  | .thermalShutdown => Sys2Proof.Machine.execThermalShutdown s
  | .reservedEncoding w => Sys2Proof.Machine.execReservedEncoding w s
  | .fetchFault f => Sys2Proof.Machine.execFetchFault f s
  | .copyTranslationFault o => Sys2Proof.Machine.execCopyTranslationFault o s
  | .curattResult h => Sys2Proof.Machine.execCurattResult h s

end Sys2Proof.Machine
end

