-- ==== Sys2Proof/Machine/Auto.lean ====
section
/-! DEFINITION. The event that happens when no hart can issue: the first of a list of the machine's own events that changes the state.
The events of the host, the fabric and the management plane come from the schedule alone (log entry 3). -/

namespace Sys2Proof.Machine

def Hart.ref (h : Hart) : HartRef := ⟨h.pid, BitVec.ofNat 12 h.id⟩

/-- What may end a hart's wait. -/
noncomputable def hartEvents (h : Hart) : List Instr :=
  let r := h.ref
  [.preemption r, .setvlGrantWaitEnd r, .engineQueueAdmit r, .waitaWake r, .haltResume r, .tlbinvComplete r, .bcowCopyDone r,
    .ixdropStorageReleased r, .curpropOutputWritten r, .curattResult r]

/-- The events of a running copy: its end, or its first chunk that is not done. -/
noncomputable def copyEvents (p : PartId) (c : Copy) : List Instr :=
  let o : ObjRef := ⟨p, c.handle⟩
  .copyTranslationFault o ::
    (((List.range c.chunks).find? (fun e => !c.done.contains e && !c.failed.contains e)).map (Instr.copyChunkDone o)).toList

/-- What the engines of a partition may do next. -/
noncomputable def partEvents (p : Partition) : List Instr :=
  let id := p.cfg.pid
  (p.copies.filter (fun c => c.state == .running)).flatMap (copyEvents id) ++
  p.promotions.map (fun x => .promotionComplete ⟨id, BitVec.ofNat 32 x.id⟩) ++
  (if p.compactions.isEmpty then [] else [.compactionComplete id]) ++ [.epochReclaim id] ++
  p.launches.flatMap (fun l =>
    [.fsaveAreaWritten ⟨id, l.handle⟩, .launchPark ⟨id, l.handle⟩, .fnextServe ⟨id, l.handle⟩])

/-- What the passing of time may bring, where nothing else can happen. -/
noncomputable def lateEvents (h : Hart) : List Instr :=
  let r := h.ref
  [.waitTimeout r, .haltTimeout r, .watchdogExpiry r, .residencyEviction r]

noncomputable def proposals (s : State) : List Instr :=
  s.allHarts.flatMap hartEvents ++ s.allParts.flatMap partEvents ++
    s.dev.ports.map (fun p => .injectionAdmit p.ref) ++ s.allHarts.flatMap lateEvents

/-- Whether an event changes the state. -/
def changes (s : State) (i : Instr) : Bool :=
  match exec i s with
  | .next t => decide (t ≠ s)
  | _ => false

noncomputable def autoEvent (s : State) : Option Instr := (proposals s).find? (changes s)

end Sys2Proof.Machine
end

