-- ==== Sys2Proof/Machine/Fetch.lean ====
section
/-! DEFINITION. Fetching an instruction (R36, R37), the ticks of a step (R105, R129), which hart issues (R101), and where a program is
placed for its first step. -/

namespace Sys2Proof.Machine

/-- What a fetch gives: a word, a parcel, a fault (R37), remote bytes to wait for (R333), or a stop. -/
inductive Fetched where
  | word (w : BitVec 32)
  | half (p : Parcel)
  | fault (f : FetchFault)
  | remote (key n : Nat)
  | stop (f : Fault)
  deriving DecidableEq, Repr

/-- One parcel at an address (R37): memory as it stands (log entry 10). -/
def fetchParcel (a : Word) (s : State) : State × Except Fetched Parcel :=
  match xlate .fetch a s with
  | (t, .error (.stop f)) => (t, .error (.stop f))
  | (t, .error (.remote k n)) => (t, .error (.remote k n))
  | (t, .error (.cause c)) =>
    (t, .error (.fault ⟨if c = .prot then .prot else if c = .uncor then .uncor else .page, a⟩))
  | (t, .ok loc) =>
    if isRemote loc.key then
      if (t.hart.refusedByte loc.key 2).isSome then (t, .error (.fault ⟨.uncor, a⟩))
      else match t.hart.replied loc.key 2 with
        | some bs => (t, .ok (BitVec.ofNat 16 (leNat bs)))
        | none => (t, .error (.remote loc.key 2))
    else if t.damagedAt loc.key 2 then (t, .error (.fault ⟨.uncor, a⟩))
    else (t, .ok (BitVec.ofNat 16 (t.peekNat loc.key 2)))

/-- The instruction at the program counter (R36). -/
def fetchInstr (s : State) : State × Fetched :=
  match fetchParcel s.pc s with
  | (t, .error f) => (t, f)
  | (t, .ok lo) =>
    if lo.getLsbD 0 then (t, .half lo)
    else
      match fetchParcel (s.pc + 2) t with
      | (u, .error f) => (u, f)
      | (u, .ok hi) => (u, .word (hi ++ lo))

/-- Decodes what was fetched; a refused encoding is the event that raises ILL with its word (R41, R64). -/
noncomputable def decodeFetched : Fetched → Option Instr
  | .word w =>
    match decode32 w with
    | .ok i => some i
    | .error _ => some (.reservedEncoding w)
  | .half p =>
    match decode16 p with
    | .ok i => some i
    | .error _ => some (.reservedEncoding (p.setWidth 32))
  | .fault f => some (.fetchFault f)
  | _ => none

/-- Time passes: the ticks of this step are a free value (R129, log entry 4). -/
def State.tick (s : State) : State :=
  s.modDev (fun d => { d with cycle := d.cycle + word (Config.ticks d.freeIdx), freeIdx := d.freeIdx + 1 })

/-- The ticks of an issue, which the hart's budget counts down but for the value that is never decremented (R105). -/
def State.charge (s : State) : State :=
  let n := Config.ticks s.dev.freeIdx
  let s := s.tick
  if s.hart.cybud = BitVec.allOnes 64 then s else s.modHart (fun h => { h with cybud := word (h.cybud.toNat - n) })

/-- Whether BUDGET is taken before the next fetch (R105, R218). -/
def budgetDue (h : Hart) : Bool := decide (h.cybud = 0) && !tstatTk h.tstat

/-- The pre-emption request that a hart at a commit point takes before anything else there (R211, R212). -/
def preemptDue (h : Hart) : Option Off := if h.atCommit then h.preempt else none

/-- Whether a hart may issue: it is ready and resident, and its target is not 0 unless it still has to leave its bricks
(R96, R101, R211), no engine holds it (R234, R279, R287, R317), and its gang is not held for bricks (R100). -/
def schedulable (s : State) (h : Hart) : Bool :=
  h.status == .ready && h.slot.isSome && h.hold.isNone && (decide (0 < h.share s) || h.preempt.isSome) && !h.isHeld s

/-- The instructions whose operands cross between the blocks of a spread hart (R200). -/
def crossesBlocks : Instr → Bool
  | .xchg _ | .tmac _ | .vrsumo _ | .vrsumt _ | .vrmaxf _ | .vrminf _ | .vrmaxfi _ | .vrsum _ | .vrmax _ | .vrmin _ | .vrmaxn _
  | .vrminn _ | .vrand _ | .vror _ | .vrxor _ | .vrmaxi _ => true
  | _ => false

/-- Whether an instruction of the issuing hart stays at the galleries: a gallery rate of 0 blocks its transfer (R341). -/
def blockedAtGallery (s : State) (i : Instr) : Bool :=
  crossesBlocks i && decide (1 < s.hart.dies) && bitsOf s.part.cfg.limits.toNat 0 16 == 0

/-- The next hart that may issue. -/
def nextHart (s : State) : Option Hart := s.harts.find? (schedulable s)

/-- The rows of the table that are events. -/
def isEvent : Instr → Bool
  | .setvlGrantWaitEnd _ | .forcedShrink _ | .preemption _ | .watchdogExpiry _ | .residencyEviction _ | .engineQueueAdmit _
  | .waitaWake _ | .waitTimeout _ | .haltResume _ | .haltTimeout _ | .tlbinvComplete _ | .copyChunkDone _ _ | .bcowCopyDone _
  | .promotionComplete _ | .compactionComplete _ | .epochReclaim _ | .ixdropStorageReleased _ | .curpropOutputWritten _
  | .fnextServe _ | .fsaveAreaWritten _ | .launchPark _ | .startMessage _ _ | .hostWrite _ _ _ | .read _ | .readResponse _
  | .write _ | .writeAcknowledgement _ | .atomic _ | .atomicResponse _ | .marker _ _ _ | .management _ | .flitReplay _
  | .credit _ _ | .injectionAdmit _ | .linkTraining _ _ | .linkDown _ | .hartsOff _ _ | .jobSwitchedOut _ | .latePacket _ _
  | .jobResumed _ | .partitionConfigure _ | .routeConfigure _ _ | .resizeHall _ | .resizeMemory _ _ _ | .granuleMigration _ _
  | .partitionPreemption _ | .attestationReport _ _ | .uncClear | .deviceReset | .firmwareVerify _ | .dieSelfTest _
  | .hbmTraining _ | .fullServiceReconfigure | .laneRetirement _ _ _ | .throttle | .unthrottle | .thermalShutdown
  | .copyTranslationFault _ | .curattResult _ => true
  | _ => false

/-! ## Placing a program (log entry 11) -/

/-- A partition with one hall, 16 MiB, and its queues inside them. -/
def bootCfg : PartCfg :=
  { PartCfg.none with
    halls := [0], memSize := 2 ^ 24, faultBase := 0x40000, intrBase := 0x41000, faultLog := 4, intrLog := 4
    ptroot := 0x10000 }

/-- A hart that can fetch: the control hart of the partition, resident, with a lease of one brick. -/
def bootHart : Hart :=
  { Hart.absent with
    status := .ready, slot := some 0, ptroot := 0x10000
    live := { Strip.zero with pc := 0x10000 }
    ckpt := { Strip.zero with pc := 0x10000 } }

def bootGang : Gang :=
  { id := 0, declared := 1, joined := 1, size := 1, hall := 0, min := 1, pref := 1, prio := 0, age := 0, phase := 0, arrived := [],
    phaseGrant := none }

/-- The machine brought to full service, with a page of code at 0x10000 that the supervisor may read, write and execute. -/
def State.boot (s : State) : State :=
  let s := { s with
    part := { Partition.fresh bootCfg true with gangs := [bootGang], nextAge := 1 }
    hart := bootHart
    dev := { s.dev with devstat := 0x0000B003000F0000 } }
  let s := s.pokeWord 0x10000 0x18001
  let s := s.pokeWord 0x18000 0x20001
  s.pokeWord 0x20008 0x300CF

/-- The device writes the context of a hart that has left into its partition's hart-context region (R212). The layout is the device's own:
every byte of the region is a free value afterwards (log entry 52). -/
def saveContext (p : PartId) (s : State) : State :=
  match s.allParts.find? (fun q => q.configured && q.cfg.pid == p) with
  | none => s
  | some q =>
    (s.poke (physKey p q.cfg.ctxBase) ((List.range q.cfg.ctxSize).map (fun i => Config.contextByte (s.dev.freeIdx + i)))).modDev
      (fun d => { d with freeIdx := d.freeIdx + q.cfg.ctxSize })

/-- Where the parcel at an address lies, if it can be fetched. -/
def parcelKey (s : State) (a : Word) : Option Nat :=
  match xlate .fetch a s with
  | (_, .ok loc) => if isRemote loc.key then none else some loc.key
  | _ => none

/-- Whether the issuing hart fetches in the next step. -/
def canFetch (s : State) : Bool :=
  schedulable s s.hart && (preemptDue s.hart).isNone && !budgetDue s.hart && (parcelKey s s.pc).isSome && (parcelKey s (s.pc + 2)).isSome

/-- Stores four bytes at the program counter. -/
def State.placeBytes (s : State) : List Byte → State
  | [b0, b1, b2, b3] =>
    match parcelKey s s.pc, parcelKey s (s.pc + 2) with
    | some k0, some k1 => (s.poke k0 [b0, b1]).poke k1 [b2, b3]
    | _, _ => s
  | _ => s

end Sys2Proof.Machine
end

