-- ==== Sys2Proof/Machine/Step.lean ====
section
/-! DEFINITION. One step of the machine: a context that has still to be saved, else the next turn of the schedule, else the issuing hart's next instruction, else another
hart's turn, else an event that can occur, else time alone. -/

namespace Sys2Proof.Machine

/-- The issuing hart's next instruction: a pre-emption request that is due, BUDGET, then the fetch, then the decoding, then exec, where
its transfer is not blocked (R57, R211, R212, R341). -/
noncomputable def issue (s : State) : Host.Outcome State Fault Refusal :=
  match preemptDue s.hart with
  | some why => .next (takeAway why s.hart s)
  | none =>
    if budgetDue s.hart then exec .budget s
    else
      match fetchInstr s with
      | (t, .remote k n) => .next (awaitRemote k n t)
      | (_, .stop f) => .fault f
      | (t, f) =>
        match decodeFetched f with
        | some i => if blockedAtGallery t i then .next t.charge else exec i t.charge
        | none => .next t

/-- A turn: a hart that may issue does; an event of the table happens. What cannot be is dropped (log entry 3). -/
noncomputable def takeTurn (t : Turn) (s : State) : Host.Outcome State Fault Refusal :=
  match t with
  | .hart h =>
    match s.focusHart h.pid h.id.toNat with
    | some u => if schedulable u u.hart then issue u else .next s
    | none => .next s
  | .event i => if isEvent i then exec i s.tick else .next s

/-- A context that has still to be written is written first (R212). -/
noncomputable def step (s : State) : Host.Outcome State Fault Refusal :=
  match s.dev.contexts with
  | p :: rest => .next (saveContext p (s.modDev (fun d => { d with contexts := rest })))
  | [] =>
  match s.sched with
  | t :: rest => takeTurn t { s with sched := rest }
  | [] =>
    if schedulable s s.hart then issue s
    else
      match nextHart s with
      | some h => .next (s.refocus h.pid h.id)
      | none =>
        match autoEvent s with
        | some i => exec i s.tick
        | none => .next s.tick

/-- The state with an instruction placed where step fetches its next one (log entry 11). -/
def State.withFetchWord (s : State) (nbits w : Nat) : State :=
  let s := ({ s with sched := [] } : State).modDev (fun d => { d with contexts := [] })
  let s := if canFetch s then s else s.boot
  s.placeBytes (bytes32 (BitVec.ofNat 32 (w % 2 ^ nbits)))

end Sys2Proof.Machine
end

