-- ==== Sys2Proof/Safety.lean ====
section
/-! DEFINITION. The terms of the claims: the invariants that every step keeps, the states that an instruction leads to, written out
field by field, and the forms of the instruction families with the values the manual gives them. -/

namespace Sys2Proof.Machine

/-- Memory has its canonical form: ascending addresses, no byte that an unlisted address reads as. -/
def State.MemOk (s : State) : Prop := s.mem.wf = true

/-! ## The state after an instruction that does not close the strip

Everything that is not named in the record update is as it was: this is the frame of every statement that ends in one of these. -/

/-- The hart goes on at an address; nothing else of it changes but its count of instructions and its held response (R129, R333). -/
def State.jumped (s : State) (pc : Word) : State :=
  { s with
    hart := { s.hart with
      live := { s.hart.live with pc := pc }
      pending := s.hart.pending + 1
      reply := []
      refused := []
      reading := none } }

/-- Register xA and the latch are written, and the hart goes on at an address. A write to x0 is discarded and still sets the latch
(R59, R110). -/
def State.wroteTo (s : State) (a : XReg) (v pc : Word) : State :=
  { s with
    hart := { s.hart with
      live := { s.hart.live with
        x := if a = 0 then s.hart.live.x else s.hart.live.x.set a.toNat v
        ldl := 0b10#2 ++ a
        pc := pc }
      pending := s.hart.pending + 1
      reply := []
      refused := []
      reading := none } }

/-- The same, at the next instruction. -/
def State.wrote (s : State) (a : XReg) (v : Word) (len : Nat) : State := s.wroteTo a v (s.hart.live.pc + word len)

/-! ## The state after an instruction that closes the strip (R88, R142, R143) -/

/-- The state once the open strip has committed: its pages are marked, its stores performed, and a continuation strip opened. -/
def State.closed (s : State) : State := s.commit.drain

/-- Nothing holds back a closing instruction: its stores and the leaves of their pages lie on this device, no acknowledgement is
awaited, of the hart's own writes or of what an engine has written for it (R75, R333), and no pre-emption request is taken at it
(R211). -/
def State.Quiet (s : State) : Prop :=
  s.hart.outgoing = [] ∧ s.hart.acks = [] ∧ s.hart.owes s = false ∧ s.hart.preempt = none ∧
  s.hart.mortar.all (fun st => !isRemote st.key && st.leaf.all (fun k => !isRemote k)) = true

/-- A closing instruction of four bytes is complete: past it a continuation strip is open, and it has counted once. -/
def State.completed (s : State) : State :=
  { s with
    hart := { s.hart with
      live := { s.hart.live with pc := s.hart.live.pc + 4 }
      ckpt := { s.hart.live with pc := s.hart.live.pc + 4 }
      ckptSetvl := false
      rerun := false
      atSetvl := false
      trim := none
      pages := []
      stale := false
      instret := s.hart.instret + word s.hart.pending + 1
      pending := 0
      status := .ready
      reply := []
      refused := []
      reading := none } }

/-- Register xA and the latch are written. -/
def State.withX (s : State) (a : XReg) (v : Word) : State :=
  { s with
    hart := { s.hart with
      live := { s.hart.live with
        x := if a = 0 then s.hart.live.x else s.hart.live.x.set a.toNat v
        ldl := 0b10#2 ++ a } } }

/-- A closing instruction that writes xA is complete. -/
def State.answered (s : State) (a : XReg) (v : Word) : State := (s.withX a v).completed

/-- The hart waits in its closing instruction; its open strip is empty and holds no translation. -/
def State.waits (s : State) (w : Wait) : State :=
  { s with hart := { s.hart with status := .waiting w, pages := [], stale := false } }

/-- An engine has accepted a command of the hart (R7, R339). -/
def State.accepts (s : State) (e : EngineKind) : State :=
  { s with hart := { s.hart with accepted := s.hart.accepted ++ [e] } }

/-- What a translation of the issuing hart may change: its noted pages, the translation cache, and the A bit in the doubleword of
the leaf (R157, R160). Where the leaf lies on another device, its A bit is set by a packet whose answer is awaited (R333), and memory
here is as it was. -/
def AccessOnly (s t : State) (leaf : Option Leaf) : Prop :=
  t = { s with
    mem := t.mem
    hart := { s.hart with
      pages := t.hart.pages
      acks := t.hart.acks }
    dev := { s.dev with
      tlb := t.dev.tlb
      damaged := t.dev.damaged
      outstanding := t.dev.outstanding
      nextReq := t.dev.nextReq
      txSeq := t.dev.txSeq
      upstream := t.dev.upstream
      egress := t.dev.egress } } ∧
  ((∀ l, leaf = some l → isRemote l.key = false) → t.hart.acks = s.hart.acks ∧ t.dev = { s.dev with
    tlb := t.dev.tlb
    damaged := t.dev.damaged }) ∧
  ((∃ l, leaf = some l ∧ isRemote l.key = true) → t.mem = s.mem) ∧
  ∀ k, (∀ l, leaf = some l → k < l.key ∨ l.key + 8 ≤ k) → t.mem.get k = s.mem.get k

/-! ## Requests to other devices (R328 to R333) -/

/-- The packet of a request for a remote key: the partition's job and node, the window's node and address, VC 0, and the next number of
its stream. -/
def State.packetFor (s : State) (key kind len : Nat) (payload : List Byte) : Packet :=
  let t := remoteTarget s.part.cfg key
  { job := s.part.cfg.job
    src := s.part.cfg.node
    dst := t.1
    kind := BitVec.ofNat 8 kind
    vc := 0
    seq := assocGet s.dev.txSeq (s.part.cfg.job, t.1, 0) 0
    addr := t.2
    len := len
    payload := payload }

/-- A request has been sent from a die: it awaits its answer under the next number, its stream counts one more packet, and the packet
enters the die's egress queue as soon as it may. Nothing else changes. -/
def State.sentRequest (s : State) (from_ : Origin) (die key kind len : Nat) (payload : List Byte) : State :=
  let p := s.packetFor key kind len payload
  { s with
    dev := ({ s.dev with
      outstanding := s.dev.outstanding ++ [{
        num := s.dev.nextReq
        pid := s.part.cfg.pid
        key := key
        job := p.job
        node := p.dst
        kind := p.kind
        addr := p.addr
        from_ := from_ }]
      nextReq := s.dev.nextReq + 1
      txSeq := assocSet s.dev.txSeq (p.job, p.dst, 0) (p.seq + 1)
      upstream := s.dev.upstream ++ [(BitVec.ofNat 2 die, p)] } : Device).refill }

/-- The issuing hart has asked for bytes of another device, or for an atomic there, and waits. -/
def State.hasAsked (s : State) (key kind len : Nat) (payload : List Byte) (w : Wait) : State :=
  { s.sentRequest s.hart.origin (dieOf s.hart.hall) key kind len payload with
    hart := { s.hart with
      asked := some s.dev.nextReq
      status := .waiting w } }

/-- The issuing hart has sent a write to another device, whose acknowledgement it awaits. -/
def State.hasWritten (s : State) (key : Nat) (bs : List Byte) : State :=
  { s.sentRequest s.hart.origin (dieOf s.hart.hall) key 3 bs.length bs with
    hart := { s.hart with acks := s.hart.acks ++ [((remoteTarget s.part.cfg key).1, s.dev.nextReq)] } }

/-! ## Scalar forms -/

/-- Signed and unsigned values of a register. -/
def State.xi (s : State) (r : XReg) : Int := (s.xr r).toInt
def State.xn (s : State) (r : XReg) : Nat := (s.xr r).toNat

/-- A result of R110: the integer modulo 2^64. -/
def wi (n : Int) : Word := BitVec.ofInt 64 n

/-- Whether a number counts the zeros above the highest one of a word. -/
def IsClz (b : Word) (n : Nat) : Prop :=
  n ≤ 64 ∧ (∀ i, i < n → b.getLsbD (63 - i) = false) ∧ (n < 64 → b.getLsbD (63 - n) = true)

/-- Whether a number counts the zeros below the lowest one of a word. -/
def IsCtz (b : Word) (n : Nat) : Prop :=
  n ≤ 64 ∧ (∀ i, i < n → b.getLsbD i = false) ∧ (n < 64 → b.getLsbD n = true)

/-- Whether the latch serves a compact operation of a file (R61). -/
def Latched (s : State) (vector : Bool) (l : BitVec 5) : Prop := s.hart.live.ldl = 1#1 ++ BitVec.ofBool vector ++ l

/-- A scalar load: its size, destination, address, length in bytes, and its result from the number its bytes give (R114, R60). -/
structure LoadForm where
  n : Nat
  a : XReg
  addr : Word
  len : Nat
  ext : Nat → Word

/-- The address xB + sext(offset, 64). -/
def State.offset (s : State) (b : XReg) (imm : BitVec 15) : Word := wi (s.xi b + imm.toInt)

/-- The scalar loads. The compact load reads the register of the latch, whatever the latch holds. -/
def loadForm (s : State) : Instr → Option LoadForm
  | .ldb o => some ⟨1, o.a, s.offset o.b o.imm, 4, fun v => wi (signedOf 8 v)⟩
  | .ldh o => some ⟨2, o.a, s.offset o.b o.imm, 4, fun v => wi (signedOf 16 v)⟩
  | .ldw o => some ⟨4, o.a, s.offset o.b o.imm, 4, fun v => wi (signedOf 32 v)⟩
  | .ldd o => some ⟨8, o.a, s.offset o.b o.imm, 4, word⟩
  | .ldbn o => some ⟨1, o.a, s.offset o.b o.imm, 4, word⟩
  | .ldhn o => some ⟨2, o.a, s.offset o.b o.imm, 4, word⟩
  | .ldwn o => some ⟨4, o.a, s.offset o.b o.imm, 4, word⟩
  | .cLdd o => some ⟨8, o.d, s.xr (s.hart.live.ldl.setWidth 5) + word (8 * o.s.toNat), 2, word⟩
  | _ => none

/-- A scalar store: its size, address and value (R114). -/
def storeForm (s : State) : Instr → Option (Nat × Word × Word)
  | .stb o => some (1, s.offset o.b o.imm, s.xr o.c)
  | .sth o => some (2, s.offset o.b o.imm, s.xr o.c)
  | .stw o => some (4, s.offset o.b o.imm, s.xr o.c)
  | .std o => some (8, s.offset o.b o.imm, s.xr o.c)
  | _ => none

/-- The compact load needs a latch that names a scalar register (R61); every other load and store is free of it. -/
def LatchServes (s : State) : Instr → Prop
  | .cLdd _ => ∃ l, Latched s false l
  | _ => True

/-- A store put into the mortar, with the leaf whose A and D bits its page needs (R145, R161); memory is as it was. -/
def State.stored (s : State) (st : Store) (len : Nat) : State :=
  { s with
    hart := { s.hart with
      mortar := s.hart.mortar ++ [st]
      live := { s.hart.live with pc := s.hart.live.pc + word len }
      pending := s.hart.pending + 1
      reply := []
      refused := []
      reading := none } }

/-- Whether the mortar has room for a store at an address (R145); chunks are counted by virtual address (the model's choice, log
entry 25). -/
def HasRoom (s : State) (a : Word) : Prop :=
  (mortarChunks s.hart).length + (newChunks s.hart [a]).length ≤ mortarSize s.hart

/-- The byte at a key once stores have been performed in order over it. -/
def storedByte (old : Byte) (sts : List Store) (k : Nat) : Byte :=
  sts.foldl (fun b st => if st.key ≤ k ∧ k < st.key + st.data.length then st.data.getD (k - st.key) 0 else b) old


/-! ## Scalar floating point (R117 to R122) -/

/-- An operation with one rounding: precision, rounding field, destination, and its exact value (R118). -/
structure RoundedForm where
  p : BitVec 1
  r : BitVec 3
  a : XReg
  exact : RMode → FVal

/-- The operand of a precision in a register: binary32 in its low half, or binary64 (R117). -/
def State.fp (s : State) (p : BitVec 1) (r : XReg) : FVal := if p = 0 then fmtF32.value (s.xn r) else fmtF64.value (s.xn r)

def fpFormat (p : BitVec 1) : Fmt := if p = 0 then fmtF32 else fmtF64

/-- The scalar operations that round, with their exact values. -/
def roundedForm (s : State) : Instr → Option RoundedForm
  | .fadd o => some ⟨o.p, o.r, o.a, fun m => fAdd false m (s.fp o.p o.b) (s.fp o.p o.c)⟩
  | .fsub o => some ⟨o.p, o.r, o.a, fun m => fAdd false m (s.fp o.p o.b) (fNeg (s.fp o.p o.c))⟩
  | .fmul o => some ⟨o.p, o.r, o.a, fun _ => fMul (s.fp o.p o.b) (s.fp o.p o.c)⟩
  | .fdiv o => some ⟨o.p, o.r, o.a, fun _ => fDiv (s.fp o.p o.b) (s.fp o.p o.c)⟩
  | .fsqrt o => some ⟨o.p, o.r, o.a, fun _ => fSqrt (s.fp o.p o.b)⟩
  | .fmadd o => some ⟨o.p, o.r, o.a, fun m => fAdd false m (s.fp o.p o.a) (fMul (s.fp o.p o.b) (s.fp o.p o.c))⟩
  | .fcvtf o => some ⟨o.p, o.r, o.a, fun _ => .fin (.ofInt (s.xi o.b)) (decide (s.xi o.b < 0))⟩
  | .fcvtfn o => some ⟨o.p, o.r, o.a, fun _ => .fin (.ofInt (s.xn o.b)) false⟩
  | .fcvtp o => some ⟨o.p, o.r, o.a, fun _ => s.fp (if o.p = 0 then 1 else 0) o.b⟩
  | _ => none

/-- The mode of a rounding field: 7 takes it from FRND (R117, R121). -/
def State.fpMode (s : State) (r : BitVec 3) : RMode := RMode.ofCode (if r = 7 then s.hart.frnd else r)

/-- The bits of an operand in its precision. -/
def State.fpBits (s : State) (p : BitVec 1) (r : XReg) : Nat := s.xn r % 2 ^ (fpFormat p).width

/-- EFC holds a residual. -/
def State.withEfc (s : State) (c : Word) : State := { s with hart := { s.hart with live := { s.hart.live with efc := c } } }

/-! ## Atomics (R123) -/

/-- A read-modify-write atomic: its operands, its code in the packet of a remote one (log entry 13), its size, and the value it writes from the old one, from xC and from xA; none where
nothing is written. -/
structure AtomicForm where
  o : Amo
  op : Nat
  n : Nat
  new : Nat → Nat → Nat → Option Nat

def atomicForm : Instr → Option AtomicForm
  | .aaddD o => some ⟨o, 0, 8, fun m c _ => some ((m + c) % 2 ^ 64)⟩
  | .aaddW o => some ⟨o, 0, 4, fun m c _ => some ((m + c) % 2 ^ 32)⟩
  | .aswpD o => some ⟨o, 1, 8, fun _ c _ => some c⟩
  | .aswpW o => some ⟨o, 1, 4, fun _ c _ => some c⟩
  | .acasD o => some ⟨o, 2, 8, fun m c a => if m = a then some c else none⟩
  | .acasW o => some ⟨o, 2, 4, fun m c a => if m = a then some c else none⟩
  | .aandD o => some ⟨o, 3, 8, fun m c _ => some (m &&& c)⟩
  | .aorD o => some ⟨o, 4, 8, fun m c _ => some (m ||| c)⟩
  | .axorD o => some ⟨o, 5, 8, fun m c _ => some (m ^^^ c)⟩
  | .aminD o => some ⟨o, 6, 8, fun m c _ => some (if signedOf 64 m < signedOf 64 c then m else c)⟩
  | .amaxD o => some ⟨o, 7, 8, fun m c _ => some (if signedOf 64 m < signedOf 64 c then c else m)⟩
  | .aminnD o => some ⟨o, 8, 8, fun m c _ => some (min m c)⟩
  | .amaxnD o => some ⟨o, 9, 8, fun m c _ => some (max m c)⟩
  | _ => none

/-- The page of a place marked as stored to (R161). -/
def State.leafMarked (s : State) (loc : Loc) : State :=
  match loc.leaf with
  | some l => markStored s l.key
  | none => s

/-- Memory after a store performed at once: the page is marked, then the bytes are written; nothing else of the state changes. -/
def State.performed (s : State) (loc : Loc) (bs : List Byte) : State := (s.leafMarked loc).poke loc.key bs

/-- What a store performed at once leaves: the bytes at its place, and every other byte outside the leaf entry as before. -/
def PerformedOnly (s t : State) (loc : Loc) (bs : List Byte) : Prop :=
  t = { s with
    mem := t.mem
    dev := { s.dev with tlb := t.dev.tlb, damaged := t.dev.damaged } } ∧
  ∀ k, (∀ l, loc.leaf = some l → k < l.key ∨ l.key + 8 ≤ k) →
    t.mem.get k = if loc.key ≤ k ∧ k < loc.key + bs.length then bs.getD (k - loc.key) 0 else s.mem.get k

/-! ## Control registers (R62, R63) -/

/-- The control registers by number, with their values. -/
def crTable (s : State) : List (BitVec 12 × Word) :=
  let h := s.hart
  let g := s.part.gangs.find? (fun g => decide (g.age = h.gkey))
  [(0x001, h.live.vl.setWidth 64), (0x002, h.vlgrant.setWidth 64), (0x003, h.live.shape.setWidth 64), (0x005, word h.lmod),
    (0x006, word h.nreg), (0x007, h.live.sbase), (0x008, h.srseed), (0x009, h.srstream), (0x00A, h.live.efc),
    (0x00B, h.live.ldl.setWidth 64), (0x00C, h.rad.setWidth 64), (0x00D, h.frnd.setWidth 64), (0x00E, h.wtime), (0x010, word h.id),
    (0x011, word h.gang), (0x012, (g.map (fun g => word g.size)).getD 1),
    (0x013, (g.map (fun g => g.phase ++ 0#24 ++ BitVec.ofNat 4 g.arrived.length ++ 0#4)).getD 0), (0x014, word h.bricks),
    (0x015, word h.dies), (0x016, h.domain.setWidth 64), (0x020, s.dev.cycle), (0x021, h.instret), (0x030, s.part.bpbase),
    (0x031, s.part.bszlog), (0x032, s.part.tpb), (0x033, s.part.tokb), (0x034, s.part.epoch), (0x800, h.tstat),
    (0x801, h.tcause.setWidth 64), (0x802, h.tepc), (0x803, h.tval), (0x804, h.tvalx), (0x805, h.tvec), (0x806, h.tscr),
    (0x807, h.tldl.setWidth 64), (0x808, h.wdog.setWidth 64), (0x809, h.cybud), (0x80A, h.ptroot), (0x80B, h.domain.setWidth 64),
    (0x80C, h.prio.setWidth 64), (0x80D, h.vowner), (0x80E, h.pid.setWidth 64)]

/-- The writable control registers without behaviour of their own, with the state a written value leaves: writable by both modes
below 0x800, by the supervisor from there on. -/
def crWrites (s : State) (v : Word) : List (BitVec 12 × State) :=
  let live := fun st : Strip => { s with hart := { s.hart with live := st } }
  let hart := fun h : Hart => { s with hart := h }
  [(0x007, live { s.hart.live with sbase := v }), (0x008, hart { s.hart with srseed := v }),
    (0x009, hart { s.hart with srstream := v }), (0x00A, live { s.hart.live with efc := v }),
    (0x00C, hart { s.hart with rad := v.setWidth 4 }), (0x00E, hart { s.hart with wtime := v }),
    (0x800, hart { s.hart with tstat := v &&& 0xFFFFFFFF0000000B }), (0x801, hart { s.hart with tcause := v.setWidth 8 }),
    (0x802, hart { s.hart with tepc := v &&& 0xFFFFFFFFFFFFFFFE }), (0x803, hart { s.hart with tval := v }),
    (0x804, hart { s.hart with tvalx := v }), (0x805, hart { s.hart with tvec := v &&& 0xFFFFFFFFFFFFFFFE }),
    (0x806, hart { s.hart with tscr := v }), (0x807, hart { s.hart with tldl := v.setWidth 7 }),
    (0x808, hart { s.hart with wdog := v.setWidth 32 }), (0x809, hart { s.hart with cybud := v })]

/-- The numbers of the read-only registers. -/
def crReadOnly : List (BitVec 12) :=
  [0x001, 0x002, 0x003, 0x005, 0x006, 0x00B, 0x010, 0x011, 0x012, 0x013, 0x014, 0x015, 0x016, 0x020, 0x021, 0x034, 0x80D, 0x80E]

/-- The value of a register by its number. -/
def crValue (s : State) (n : BitVec 12) : Word := ((crTable s).find? (fun r => r.1 == n)).elim 0 (·.2)

/-- The issuing hart is the supervisor. -/
def State.isSuper (s : State) : Prop := s.hart.mode = .supervisor

/-! ## Traps (R205 to R209) -/

/-- The strip as a rollback leaves it: the checkpoint, but for the masks that copies are bound to (R205, R253). -/
def Hart.restored (h : Hart) : Strip :=
  { h.ckpt with m := Vector.ofFn (fun i : Fin 8 => if h.bound.any (fun b => decide (b.1.toNat = i.val)) then h.live.m[i] else h.ckpt.m[i]) }

/-- The hart in its handler, after a trap that rolled its strip back. -/
def Hart.inHandler (h : Hart) (code : BitVec 8) (val valx : Word) : Hart :=
  let st := { h.restored with pc := h.tvec }
  { h with
    tepc := h.ckpt.pc
    tcause := code
    tval := val
    tvalx := valx
    tldl := h.ckpt.ldl
    tstat := ((h.trim.map (BitVec.ofNat 32)).getD (BitVec.allOnes 32)) ++ 0#28 ++ BitVec.ofBool h.ckptSetvl ++ 0#1 ++ 1#1 ++
      BitVec.ofBool (decide (h.mode = .supervisor))
    mode := .supervisor
    live := st
    ckpt := st
    ckptSetvl := false
    rerun := false
    atSetvl := false
    trim := none
    mortar := []
    pages := []
    stale := false
    pending := 0
    asked := none
    reply := []
    refused := []
    reading := none
    status := .ready }

/-- The hart in its handler, after a TRAP or BREAK whose strip has been committed (R130). -/
def Hart.afterCall (h : Hart) (code : BitVec 8) (val : Word) : Hart :=
  let st := { h.live with pc := h.tvec }
  { h with
    tepc := h.live.pc + 4
    tcause := code
    tval := val
    tvalx := 0
    tldl := h.live.ldl
    tstat := BitVec.allOnes 32 ++ 0#28 ++ 0#1 ++ 0#1 ++ 1#1 ++ BitVec.ofBool (decide (h.mode = .supervisor))
    mode := .supervisor
    live := st
    ckpt := st
    ckptSetvl := false
    rerun := false
    atSetvl := false
    trim := none
    pages := []
    stale := false
    pending := 0
    asked := none
    reply := []
    refused := []
    reading := none
    status := .ready }

/-- The hart after a trap that no handler takes, before it ends (R208): its strip is rolled back, but for a TRAP or BREAK (sync), whose
strip has been committed, and the trap registers are written; the mode stays. -/
def Hart.unhandled (h : Hart) (sync : Bool) (code : BitVec 8) (val valx : Word) : Hart :=
  { h with
    live := if sync then h.live else h.restored
    rerun := if sync then h.rerun else h.ckptSetvl
    mortar := if sync then h.mortar else []
    pages := if sync then h.pages else []
    stale := if sync then h.stale else false
    pending := if sync then h.pending else 0
    tepc := if sync then h.live.pc + 4 else h.ckpt.pc
    tcause := code
    tval := val
    tvalx := valx
    tldl := if sync then h.live.ldl else h.ckpt.ldl
    tstat := (if sync then BitVec.allOnes 32 else (h.trim.map (BitVec.ofNat 32)).getD (BitVec.allOnes 32)) ++ 0#28 ++
      BitVec.ofBool (!sync && h.ckptSetvl) ++ 0#1 ++ BitVec.ofBool (h.tstat.getLsbD 1) ++ BitVec.ofBool (h.tstat.getLsbD 0)
    trim := none
    asked := none
    reply := []
    refused := []
    reading := none
    status := .ready }

/-- A handler takes the next trap: one is set, and no trap is being handled (R208). -/
def Hart.hasHandler (h : Hart) : Prop := h.tvec ≠ 0 ∧ h.tstat.getLsbD 1 = false

/-- The hart after a TRET, its handler's strip having been closed (R209). -/
def Hart.returned (h : Hart) : Hart :=
  let st := { h.live with ldl := h.tldl, pc := h.tepc }
  let sk := h.tstat.getLsbD 3
  { h with
    mode := if h.tstat.getLsbD 0 then .supervisor else .user
    tstat := h.tstat &&& 0xFFFFFFFF00000009
    live := st
    ckpt := st
    ckptSetvl := false
    rerun := false
    atSetvl := sk
    trim := if sk ∧ h.tstat.extractLsb' 32 32 ≠ BitVec.allOnes 32 then some (h.tstat.extractLsb' 32 32).toNat else none
    pages := []
    stale := false
    instret := h.instret + word h.pending + 1
    pending := 0 }

/-! ## TLBINV (R132) -/

/-- A translation is one that a TLBINV names: kind 0 that of an address, kind 1 those of a root without the G bit, kind 2 all. -/
def PageUse.isNamed (k : BitVec 5) (a root : Word) (u : PageUse) : Bool :=
  if k = 0 then decide (u.vpn = a.toNat / 2 ^ pageBits u.level)
  else if k = 1 then decide (u.root = root) && !u.glob
  else true

/-- A hart after a TLBINV of its partition: it is marked where its open strip holds a translation that is named, and where stores of
earlier strips are on their way (the model's reading of their pages, log entry 27). -/
def Hart.marked (h : Hart) (k : BitVec 5) (a root : Word) : Hart :=
  { h with
    stale := h.stale || h.pages.any (PageUse.isNamed k a root)
    staleOut := h.staleOut || !(h.outgoing.isEmpty && h.acks.isEmpty) }

/-- The machine after a TLBINV: the named translations of the partition have left the cache, and the harts that hold one are marked. -/
def State.invalidated (s : State) (k : BitVec 5) (a : Word) : State :=
  { s with
    dev := { s.dev with tlb := s.dev.tlb.filter (fun e =>
      !(decide (e.pid = s.hart.pid) && PageUse.isNamed k a s.hart.ptroot ⟨e.root, e.level, e.vpn, e.leaf.getLsbD 5⟩)) }
    hart := s.hart.marked k a s.hart.ptroot
    harts := s.harts.map (fun h => if h.pid = s.hart.pid then h.marked k a s.hart.ptroot else h) }

/-- Another hart of the partition holds an invalidated translation in its open strip, or has stores made under one on their way. -/
def State.HeldElsewhere (s : State) : Prop :=
  ∃ h ∈ s.harts, h.pid = s.hart.pid ∧ h.status ≠ .absent ∧ (h.stale = true ∨ h.staleOut = true)

/-- A hart without its vector state, which VSAVE has taken out (R215): bound masks stay. -/
def Hart.vectorsOut (h : Hart) : Hart :=
  { h with
    live := h.live.dropVectors h.isBound
    ckpt := h.ckpt.dropVectors h.isBound
    vowner := h.vowner ||| 0x8000 }

/-- The owner tag of a brick (R213). -/
def State.ownerOf (s : State) (b : Nat × Nat) : Option Nat := (s.brickAt b.1 b.2).owner

/-- A value of VOWNER (R214): OUT in bit 15, VAL in bit 12, the hart below. -/
def vownerOf (out val : Bool) (n : Nat) : Word := word (n % 2 ^ 12 + (if val then 2 ^ 12 else 0) + (if out then 2 ^ 15 else 0))

/-- A hart's vector state is in place (R213): every brick of its partition with its tag lies in its grant, every brick of its grant has its
tag or none, and VOWNER.OUT is 0. -/
def State.InPlace (s : State) (h : Hart) : Prop :=
  (∀ x ∈ s.dev.bricks, x.2.owner = some h.id → x.1.1 ∈ s.hallsOf h.pid → x.1 ∈ h.grant) ∧
  (∀ b ∈ h.grant, s.ownerOf b = none ∨ s.ownerOf b = some h.id) ∧ h.vowner.getLsbD 15 = false

/-- What VOWNER is set to where the issuing hart's vector state is not in place (R214). Bricks of several halls are ordered by hall first
(the model's choice, log entry 51). -/
structure FindsOwner (s : State) (w : Word) : Prop where
  foreign : ∀ b ∈ s.hart.grant, ∀ o, s.ownerOf b = some o → o ≠ s.hart.id →
    (∀ c ∈ s.hart.grant, ∀ k, s.ownerOf c = some k → k ≠ s.hart.id → b.1 < c.1 ∨ (b.1 = c.1 ∧ b.2 ≤ c.2)) →
    w = vownerOf (s.hart.vowner.getLsbD 15) true o
  outside : (∀ b ∈ s.hart.grant, s.ownerOf b = none ∨ s.ownerOf b = some s.hart.id) →
    (∃ x ∈ s.dev.bricks, x.2.owner = some s.hart.id ∧ x.1.1 ∈ s.hallsOf s.hart.pid ∧ x.1 ∉ s.hart.grant) →
    w = vownerOf (s.hart.vowner.getLsbD 15) true s.hart.id
  out : (∀ b ∈ s.hart.grant, s.ownerOf b = none ∨ s.ownerOf b = some s.hart.id) →
    (∀ x ∈ s.dev.bricks, x.2.owner = some s.hart.id → x.1.1 ∈ s.hallsOf s.hart.pid → x.1 ∈ s.hart.grant) →
    w = vownerOf (s.hart.vowner.getLsbD 15) false 0

/-! ## Vector instructions -/

/-- The state after the checks of a vector instruction: a re-layout that a change of the grant has left due is carried out, and the
bricks of the grant carry the hart's tag (R102, R213). -/
def State.owned (s : State) : State := State.tagGrant { s with hart := s.hart.placed }

/-- A vector instruction of len bytes leaves a strip; nothing else of the hart changes but its count of instructions and its held
response. -/
def State.vectorDone (s : State) (st : Strip) (len : Nat) : State :=
  { s with
    hart := { s.hart with
      live := { st with pc := st.pc + word len }
      pending := s.hart.pending + 1
      reply := []
      refused := []
      reading := none } }

/-- The registers per row of a group that follows SHAPE. -/
def State.q (s : State) : Nat := grpOf s.hart.live.shape

/-- A vector instruction that works on registers: its length, whether its formats are admitted (ILL where not), whether the register
count of SHAPE is (ILLSHAPE where not), its operand groups with their registers per row, the mask it writes, whether it is free of
faults of its own, and what it does to the strip. -/
structure VectorForm where
  len : Nat
  formats : Prop
  shape : Prop
  groups : List (VReg × Nat)
  mask : Option MReg
  own : Prop
  effect : Strip → Strip

/-- The registers of every group lie within NREG, and are at most 8 (R136). -/
def VectorForm.Fits (f : VectorForm) (s : State) : Prop :=
  f.shape ∧ ∀ g ∈ f.groups, rowsOf s.hart.live.shape * g.2 ≤ 8 ∧ g.1.toNat + rowsOf s.hart.live.shape * g.2 ≤ s.hart.nreg

/-- No copy is bound to the mask it writes (R192). -/
def VectorForm.MaskFree (f : VectorForm) (s : State) : Prop := ∀ m, f.mask = some m → ∀ b ∈ s.hart.bound, b.1 ≠ m

/-- No operand group touches the registers of a bound stream (R260 to R262). -/
def VectorForm.Unbound (f : VectorForm) (s : State) : Prop :=
  ∀ g ∈ f.groups, ∀ b ∈ s.hart.binds,
    b.reg.toNat + s.q ≤ g.1.toNat ∨ g.1.toNat + rowsOf s.hart.live.shape * g.2 ≤ b.reg.toNat

/-- No unreadable slot lies under the elements of its operand groups (R361). -/
def VectorForm.Intact (f : VectorForm) (s : State) : Prop :=
  ∀ g ∈ f.groups, ∀ u ∈ s.owned.hart.live.lost, readsLost (shapeOf s) g u = false

/-- Nothing stops a vector instruction: its formats and registers, the mask, the vector state in place, no stream, no unreadable slot,
no fault of its own, and the mortar not over its size (R57, R136, R192, R213, R262, R361, R146). -/
structure VectorForm.Ready (f : VectorForm) (s : State) : Prop where
  formats : f.formats
  fits : f.Fits s
  mask : f.MaskFree s
  placed : inPlace s s.hart = true
  unbound : f.Unbound s
  intact : f.Intact s
  own : f.own
  room : (mortarChunks s.hart).length ≤ mortarSize s.hart

/-- What a vector instruction leaves: its effect on the strip, and the program counter. -/
def VectorForm.result (f : VectorForm) (s : State) : State := s.owned.vectorDone (f.effect s.owned.hart.live) f.len

/-- TVAL of a trap that reports the instruction (R64). -/
def faultWord (i : Instr) : Word :=
  match encode i with
  | .word w => w.setWidth 64
  | .parcel p => p.setWidth 64
  | .none => 0

/-- The formats of reduced service (R356). -/
def offeredFormat (s : State) (ew : BitVec 6) : Prop := isReduced s = true → ew = 0x0A ∨ ew = 0x09

/-- A form whose operands follow SHAPE. -/
def shapeForm (s : State) (len : Nat) (admits : BitVec 6 → Bool) (groups : List (VReg × Nat)) (effect : Shp → Strip → Strip) :
    VectorForm :=
  let ew := ewOf s.hart.live.shape
  { len := len
    formats := offeredFormat s ew ∧ admits ew = true
    shape := rowsOf s.hart.live.shape * s.q ≤ 8
    groups := groups
    mask := none
    own := True
    effect := effect (shapeOf s) }

/-- Element e of row r of an operand that follows SHAPE. -/
def Shp.el (p : Shp) (st : Strip) (v : VReg) (r e : Nat) : Nat := getElem st p.grp v r e

/-- An element-wise instruction: the formats it admits, its predicate, its destination, its vector sources, its length in bytes, and
the value of element (row, e) from the strip before it. -/
structure ElemForm where
  admits : BitVec 6 → Bool
  m : MReg
  a : VReg
  srcs : List VReg
  len : Nat
  val : Shp → Strip → Nat → Nat → Nat

/-- A value from the destination, B and C elements. -/
abbrev Val := Shp → Nat → Nat → Nat → Nat

def formVV (ad : BitVec 6 → Bool) (o : VVV) (f : Val) : ElemForm :=
  ⟨ad, o.m, o.a, [o.b, o.c], 4, fun p st r e => f p (p.el st o.a r e) (p.el st o.b r e) (p.el st o.c r e)⟩

/-- A scalar C gives its low bits to every element (R183). -/
def formVX (s : State) (ad : BitVec 6 → Bool) (o : VVX) (f : Val) : ElemForm :=
  ⟨ad, o.m, o.a, [o.b], 4, fun p st r e => f p (p.el st o.a r e) (p.el st o.b r e) (s.xn o.c % 2 ^ p.w)⟩

def formV (ad : BitVec 6 → Bool) (o : VV) (f : Shp → Nat → Nat) : ElemForm :=
  ⟨ad, o.m, o.a, [o.b], 4, fun p st r e => f p (p.el st o.b r e)⟩

/-- A compact operation on the register of the latch, with every element active (R60). -/
def formC2 (s : State) (ad : BitVec 6 → Bool) (o : C2) (f : Val) : ElemForm :=
  let l : VReg := s.hart.live.ldl.setWidth 5
  ⟨ad, 0, o.d, [l, o.s], 2, fun p st r e => f p (p.el st o.d r e) (p.el st l r e) (p.el st o.s r e)⟩

/-- Two's complement of w bits, and the low w bits of an integer. -/
def sgn (p : Shp) (n : Nat) : Int := signedOf p.w n
def low (p : Shp) (n : Int) : Nat := (n % (2 ^ p.w : Nat)).toNat

/-- Saturation to the signed and to the unsigned range of the width. -/
def satS (p : Shp) (n : Int) : Nat := low p (max (-(2 ^ (p.w - 1) : Nat)) (min ((2 ^ (p.w - 1) : Nat) - 1) n))
def satU (p : Shp) (n : Int) : Nat := low p (max 0 (min ((2 ^ p.w : Nat) - 1) n))

def ones (p : Shp) : Nat := 2 ^ p.w - 1

def vAdd : Val := fun p _ b c => (b + c) % 2 ^ p.w
def vSub : Val := fun p _ b c => low p ((b : Int) - c)
def vMul : Val := fun p _ b c => (b * c) % 2 ^ p.w
def vMulh : Val := fun p _ b c => low p (sgn p b * sgn p c / (2 ^ p.w : Nat))
def vMulhn : Val := fun p _ b c => b * c / 2 ^ p.w % 2 ^ p.w
def vDiv : Val := fun p _ b c => if c = 0 then ones p else low p ((sgn p b).tdiv (sgn p c))
def vDivn : Val := fun p _ b c => if c = 0 then ones p else b / c
def vRem : Val := fun p _ b c => if c = 0 then b else low p ((sgn p b).tmod (sgn p c))
def vRemn : Val := fun _ _ b c => if c = 0 then b else b % c
def vMin : Val := fun p _ b c => if sgn p c < sgn p b then c else b
def vMax : Val := fun p _ b c => if sgn p b < sgn p c then c else b
def vMinn : Val := fun _ _ b c => if c < b then c else b
def vMaxn : Val := fun _ _ b c => if b < c then c else b
def vShl : Val := fun p _ b c => (b <<< (c % p.w)) % 2 ^ p.w
def vShr : Val := fun p _ b c => b >>> (c % p.w)
def vSra : Val := fun p _ b c => low p (sgn p b / (2 ^ (c % p.w) : Nat))
def vAbsd : Val := fun p _ b c =>
  if isSignedInt p.ew then (sgn p b - sgn p c).natAbs % 2 ^ p.w else ((b : Int) - c).natAbs % 2 ^ p.w

/-- The vector integer arithmetic of R184, in its vector, scalar and compact forms. -/
def intForm (s : State) : Instr → Option ElemForm
  | .vadd o => some (formVV isInt o vAdd)
  | .vsub o => some (formVV isInt o vSub)
  | .vmul o => some (formVV isInt o vMul)
  | .vmulh o => some (formVV isInt o vMulh)
  | .vmulhn o => some (formVV isInt o vMulhn)
  | .vdiv o => some (formVV isInt o vDiv)
  | .vdivn o => some (formVV isInt o vDivn)
  | .vrem o => some (formVV isInt o vRem)
  | .vremn o => some (formVV isInt o vRemn)
  | .vmin o => some (formVV isInt o vMin)
  | .vmax o => some (formVV isInt o vMax)
  | .vminn o => some (formVV isInt o vMinn)
  | .vmaxn o => some (formVV isInt o vMaxn)
  | .vand o => some (formVV isInt o fun _ _ b c => b &&& c)
  | .vor o => some (formVV isInt o fun _ _ b c => b ||| c)
  | .vxor o => some (formVV isInt o fun _ _ b c => b ^^^ c)
  | .vshl o => some (formVV isInt o vShl)
  | .vshr o => some (formVV isInt o vShr)
  | .vsra o => some (formVV isInt o vSra)
  | .vsadd o => some (formVV isInt o fun p _ b c => satS p (sgn p b + sgn p c))
  | .vsaddn o => some (formVV isInt o fun p _ b c => satU p ((b : Int) + c))
  | .vssub o => some (formVV isInt o fun p _ b c => satS p (sgn p b - sgn p c))
  | .vssubn o => some (formVV isInt o fun p _ b c => satU p ((b : Int) - c))
  | .vabsd o => some (formVV isInt o vAbsd)
  | .vmacc o => some (formVV isInt o fun p a b c => (a + b * c) % 2 ^ p.w)
  | .vaddX o => some (formVX s isInt o vAdd)
  | .vsubX o => some (formVX s isInt o vSub)
  | .vmulX o => some (formVX s isInt o vMul)
  | .vmulhX o => some (formVX s isInt o vMulh)
  | .vmulhnX o => some (formVX s isInt o vMulhn)
  | .vdivX o => some (formVX s isInt o vDiv)
  | .vdivnX o => some (formVX s isInt o vDivn)
  | .vremX o => some (formVX s isInt o vRem)
  | .vremnX o => some (formVX s isInt o vRemn)
  | .vminX o => some (formVX s isInt o vMin)
  | .vmaxX o => some (formVX s isInt o vMax)
  | .vminnX o => some (formVX s isInt o vMinn)
  | .vmaxnX o => some (formVX s isInt o vMaxn)
  | .vandX o => some (formVX s isInt o fun _ _ b c => b &&& c)
  | .vorX o => some (formVX s isInt o fun _ _ b c => b ||| c)
  | .vxorX o => some (formVX s isInt o fun _ _ b c => b ^^^ c)
  | .vshlX o => some (formVX s isInt o vShl)
  | .vshrX o => some (formVX s isInt o vShr)
  | .vsraX o => some (formVX s isInt o vSra)
  | .vsaddX o => some (formVX s isInt o fun p _ b c => satS p (sgn p b + sgn p c))
  | .vsaddnX o => some (formVX s isInt o fun p _ b c => satU p ((b : Int) + c))
  | .vssubX o => some (formVX s isInt o fun p _ b c => satS p (sgn p b - sgn p c))
  | .vssubnX o => some (formVX s isInt o fun p _ b c => satU p ((b : Int) - c))
  | .vabsdX o => some (formVX s isInt o vAbsd)
  | .vmaccX o => some (formVX s isInt o fun p a b c => (a + b * c) % 2 ^ p.w)
  | .cVadd o => some (formC2 s isInt o vAdd)
  | .cVsub o => some (formC2 s isInt o vSub)
  | .cVmul o => some (formC2 s isInt o vMul)
  | .cVand o => some (formC2 s isInt o fun _ _ b c => b &&& c)
  | .cVxor o => some (formC2 s isInt o fun _ _ b c => b ^^^ c)
  | _ => none

/-- The value of an element, and the rounding of a result in SHAPE.RND (R185). -/
def fv (p : Shp) (x : Nat) : FVal := (fmtOf p.ew).value x
def rnd (p : Shp) (v : FVal) : Nat := (fmtOf p.ew).conv p.rnd 0 false v

def vFadd : Val := fun p _ b c => rnd p (fAdd true p.rnd (fv p b) (fv p c))
def vFsub : Val := fun p _ b c => rnd p (fAdd true p.rnd (fv p b) (fNeg (fv p c)))
def vFmul : Val := fun p _ b c => rnd p (fMul (fv p b) (fv p c))
def vFdiv : Val := fun p _ b c => rnd p (fDiv (fv p b) (fv p c))
def vFmin : Val := fun p _ b c => fMinBits (fmtOf p.ew) b c
def vFmax : Val := fun p _ b c => fMaxBits (fmtOf p.ew) b c
def vFma : Val := fun p a b c => rnd p (fAdd true p.rnd (fv p a) (fMul (fv p b) (fv p c)))
def vFms : Val := fun p a b c => rnd p (fAdd true p.rnd (fv p a) (fNeg (fMul (fv p b) (fv p c))))
def vFnma : Val := fun p a b c => rnd p (fAdd true p.rnd (fNeg (fv p a)) (fNeg (fMul (fv p b) (fv p c))))

/-- The magnitude of b under a sign. -/
def signed (p : Shp) (b : Nat) (neg : Bool) : Nat := b % 2 ^ (p.w - 1) + (if neg then 2 ^ (p.w - 1) else 0)

def vFsgnj : Val := fun p _ b c => if (fv p b).isNan then b else signed p b (c.testBit (p.w - 1))
def vFsgnjn : Val := fun p _ b c => if (fv p b).isNan then b else signed p b (!c.testBit (p.w - 1))

def notF64 (ew : BitVec 6) : Bool := isIeee ew && ew != 0x0B

/-- The vector floating-point arithmetic of R186 and R187, in its vector, scalar and compact forms. -/
def fltForm (s : State) : Instr → Option ElemForm
  | .vfadd o => some (formVV isIeee o vFadd)
  | .vfsub o => some (formVV isIeee o vFsub)
  | .vfmul o => some (formVV isIeee o vFmul)
  | .vfdiv o => some (formVV isIeee o vFdiv)
  | .vfmin o => some (formVV isIeee o vFmin)
  | .vfmax o => some (formVV isIeee o vFmax)
  | .vfsgnj o => some (formVV isIeee o vFsgnj)
  | .vfsgnjn o => some (formVV isIeee o vFsgnjn)
  | .vfma o => some (formVV isIeee o vFma)
  | .vfms o => some (formVV isIeee o vFms)
  | .vfnma o => some (formVV isIeee o vFnma)
  | .vfscale o => some (formVV isIeee o fun p _ b c => fScale p b (sgn p c))
  | .vfsqrt o => some (formV isIeee o fun p b => rnd p (fSqrt (fv p b)))
  | .vfrsqrt o => some (formV notF64 o fun p b => rnd p (fRsqrt (fv p b)))
  | .vfrcp o => some (formV isIeee o fun p b => rnd p (fDiv (.fin (Frac.ofInt 1) false) (fv p b)))
  | .vfexp2 o => some (formV notF64 o fun p b => rnd p (fExp2 (fv p b)))
  | .vflog2 o => some (formV notF64 o fun p b => rnd p (fLog2 (fv p b)))
  | .vfabs o => some (formV isIeee o fun p b => signed p b false)
  | .vfneg o => some (formV isIeee o fun p b => signed p b (!b.testBit (p.w - 1)))
  | .vfclass o => some (formV isIeee o fun p b => classCode (fmtOf p.ew) b)
  | .vfaddX o => some (formVX s isIeee o vFadd)
  | .vfsubX o => some (formVX s isIeee o vFsub)
  | .vfmulX o => some (formVX s isIeee o vFmul)
  | .vfdivX o => some (formVX s isIeee o vFdiv)
  | .vfminX o => some (formVX s isIeee o vFmin)
  | .vfmaxX o => some (formVX s isIeee o vFmax)
  | .vfsgnjX o => some (formVX s isIeee o vFsgnj)
  | .vfsgnjnX o => some (formVX s isIeee o vFsgnjn)
  | .vfmaX o => some (formVX s isIeee o vFma)
  | .vfmsX o => some (formVX s isIeee o vFms)
  | .vfnmaX o => some (formVX s isIeee o vFnma)
  | .vfscaleX o => some (formVX s isIeee o fun p _ b _ => fScale p b (s.xi o.c))
  | .cVfadd o => some (formC2 s isIeee o vFadd)
  | .cVfsub o => some (formC2 s isIeee o vFsub)
  | .cVfmul o => some (formC2 s isIeee o vFmul)
  | .cVfma o => some (formC2 s isIeee o vFma)
  | .cVfmax o => some (formC2 s isIeee o vFmax)
  | .cVfmin o => some (formC2 s isIeee o vFmin)
  | _ => none

def anyFormat (_ : BitVec 6) : Bool := true

/-- The set bits of a mask below a bound that are active. -/
def maskedBits (st : Strip) (m b : MReg) (n : Nat) : List Nat := (List.range n).filter (fun i => st.active m i && st.bit b.toNat i)

/-- Moves, merges and the vectors that masks and positions give (R191, R198, R200). -/
def moveForm (s : State) : Instr → Option ElemForm
  | .viota o => some ⟨isInt, o.m, o.a, [], 4, fun p st _ e => (maskedBits st o.m o.b e).length % 2 ^ p.w⟩
  | .vidx o => some ⟨isInt, o.m, o.a, [], 4, fun p _ _ e => e % 2 ^ p.w⟩
  | .mmovv o => some ⟨isInt, o.m, o.a, [], 4, fun p st _ e => (if st.bit o.b.toNat e then 1 else 0) % 2 ^ p.w⟩
  | .vmerge o => some ⟨anyFormat, 0, o.a, [o.b, o.c], 4, fun p st r e =>
      if st.bit o.m.toNat e then p.el st o.c r e else p.el st o.b r e⟩
  | .vbcst o => some ⟨anyFormat, o.m, o.a, [], 4, fun p _ _ _ => s.xn o.b % 2 ^ p.w⟩
  | .vmov o => some ⟨anyFormat, o.m, o.a, [o.b], 4, fun p st r e => p.el st o.b r e⟩
  | .xchg o => some ⟨anyFormat, o.m, o.a, [o.b], 4, fun p st r e =>
      p.el st o.b r (if s.hart.dies ≤ 1 then e else xchgFrom s.hart (s.xn o.c % s.hart.dies) p e)⟩
  | .cVmov o => some ⟨anyFormat, 0, o.d, [o.s], 2, fun p st r e => p.el st o.s r e⟩
  | _ => none

/-- The latch that a compact vector operation needs (R61). -/
def VectorLatch (s : State) : Instr → Prop
  | .cVadd _ | .cVsub _ | .cVmul _ | .cVand _ | .cVxor _ | .cVfadd _ | .cVfsub _ | .cVfmul _ | .cVfma _ | .cVfmax _ | .cVfmin _ =>
    ∃ l, Latched s true l
  | _ => True

/-- The form of an element-wise instruction: its destination is written by the policy of R182. -/
def ElemForm.form (f : ElemForm) (s : State) : VectorForm :=
  shapeForm s f.len f.admits ((f.a :: f.srcs).map (fun v => (v, s.q)))
    (fun p st => writeRows p p.grp f.m f.a (f.val p st) st)


/-! ## Widening and conversion (R188, R178) -/

/-- The group of a wide destination: elements twice as wide, twice the registers per row. -/
def Shp.wide (p : Shp) : Grp := ⟨2 * p.w, 2 * p.q, p.m⟩

/-- f32 from the narrow formats, f64 from f32. -/
def wideFmt (p : Shp) : Fmt := if p.ew = 0x0A then fmtF64 else fmtF32

/-- A widening instruction: the value of an element from the values of its wide destination and its narrow sources. -/
def wideForm (s : State) (m : MReg) (a b : VReg) (cs : List VReg) (c : Shp → Strip → Nat → Nat → Nat)
    (f : Shp → FVal → FVal → FVal → FVal) : VectorForm :=
  shapeForm s 4 notF64 ((a, 2 * s.q) :: (b :: cs).map (fun v => (v, s.q))) (fun p st =>
    writeRows p p.wide m a (fun r e => (wideFmt p).conv p.rnd 0 false
      (f p ((wideFmt p).value (getElem st p.wide a r e)) (fv p (p.el st b r e)) (fv p (c p st r e)))) st)

def wideVV (s : State) (o : VVV) (f : Shp → FVal → FVal → FVal → FVal) : VectorForm :=
  wideForm s o.m o.a o.b [o.c] (fun p st r e => p.el st o.c r e) f

def wideVX (s : State) (o : VVX) (f : Shp → FVal → FVal → FVal → FVal) : VectorForm :=
  wideForm s o.m o.a o.b [] (fun p _ _ _ => s.xn o.c % 2 ^ p.w) f

/-- The conversion with error feedback of the active elements in linear order (R174): the residual is carried from one to the next. -/
def carryResidual (fm : Fmt) (sat : Bool) (xs : List (Bool × FVal)) (c : Word) : List Nat × Word :=
  xs.foldl (fun acc x =>
    if x.1 then let t := efbFloat fm sat acc.2 x.2; (acc.1 ++ [t.1], t.2) else (acc.1 ++ [0], acc.2)) ([], c)

/-- VCVT: Conv of every element into the destination format, in the mode of the word, of SHAPE (7), or with error feedback (6). -/
def cvtForm (s : State) (o : Cvt) : VectorForm :=
  let ew := ewOf s.hart.live.shape
  let per := fun p : Shp => Nat.max 1 (p.q * widthOf o.d / p.w)
  let base := shapeForm s 4 (fun _ => isFormat o.d) [(o.a, per (shapeOf s)), (o.b, s.q)] (fun p st =>
    let g : Grp := ⟨widthOf o.d, per p, p.m⟩
    let x := fun r e => elemValue p.ew (p.el st o.b r e)
    if o.mode = 6 then
      let t := carryResidual (fmtOf o.d) (o.sat == 1) ((positions p.rows p.vl).map (fun re => (st.active o.m re.2, x re.1 re.2))) st.efc
      writeRows p g o.m o.a (fun r e => t.1.getD (r * p.vl + e) 0) { st with efc := t.2 }
    else
      writeRows p g o.m o.a (fun r e => conv o.d (if o.mode = 7 then p.rnd else RMode.ofCode o.mode)
        (gen s.hart.live.sbase s.hart.srseed s.hart.srstream r e) (o.sat == 1) (x r e)) st)
  { base with
    formats := base.formats ∧ offeredFormat s o.d ∧
      (o.mode = 5 ∨ o.mode = 6 → isFloat ew = true ∧ isFloat o.d = true ∧ widthOf o.d < widthOf ew) }

def convertForm (s : State) : Instr → Option VectorForm
  | .vfwadd o => some (wideVV s o fun p _ b c => fAdd true p.rnd b c)
  | .vfwmul o => some (wideVV s o fun _ _ b c => fMul b c)
  | .vfwma o => some (wideVV s o fun p a b c => fAdd true p.rnd a (fMul b c))
  | .vfwaddX o => some (wideVX s o fun p _ b c => fAdd true p.rnd b c)
  | .vfwmulX o => some (wideVX s o fun _ _ b c => fMul b c)
  | .vfwmaX o => some (wideVX s o fun p a b c => fAdd true p.rnd a (fMul b c))
  | .vcvt o => some (cvtForm s o)
  | _ => none

/-! ## Permutes (R197 to R199) -/

/-- The die block that holds element e of a row; elements of different blocks of a spread hart do not meet in a permute. -/
def State.block (s : State) (p : Shp) (e : Nat) : Nat :=
  if s.hart.dies ≤ 1 then 0 else (e * p.w / 32 % p.m) / (p.m / s.hart.bricks) / (s.hart.bricks / s.hart.dies)

/-- What MSKP makes of an element that is not active: 0, or none, and it is left as it was. -/
def leftBy (p : Shp) : Option Nat := if p.mz then some 0 else none

/-- Element e of row r of a permute is active and comes from another block of bricks (R199). -/
def State.Crosses (s : State) (m : MReg) (source : Shp → Strip → Nat → Nat → Option Nat) (r e : Nat) : Prop :=
  s.owned.hart.live.active m e = true ∧
    ∃ x, source (shapeOf s) s.owned.hart.live r e = some x ∧ s.block (shapeOf s) x ≠ s.block (shapeOf s) e

/-- The condition that no active element comes from another block of bricks (R199). -/
def State.SameBlock (s : State) (m : MReg) (source : Shp → Strip → Nat → Nat → Option Nat) : Prop :=
  ∀ r e, r < (shapeOf s).rows → e < (shapeOf s).vl → ¬ s.Crosses m source r e

/-- A permute: where element e of row r comes from, and its value where it comes from none; it may be left as it was. -/
def permuteForm (s : State) (groups : List (VReg × Nat)) (m : MReg) (a b : VReg) (source : Shp → Strip → Nat → Nat → Option Nat)
    (other : Shp → Option Nat) : VectorForm :=
  { shapeForm s 4 anyFormat groups (fun p st => writeSome p p.grp m a (fun r e =>
      match source p st r e with
      | some x => some (p.el st b r x)
      | none => other p) st) with
    own := s.SameBlock m source }

/-- The elements of a selector below VL, ascending. -/
def selected (p : Shp) (st : Strip) (m : MReg) : List Nat := (List.range p.vl).filter (fun e => st.bit m.toNat e)

def permForm (s : State) : Instr → Option VectorForm
  | .vrgath o =>
    let idx := fun (p : Shp) (st : Strip) (r e : Nat) => getElem st ⟨32, Nat.max 1 (p.q * 32 / p.w), p.m⟩ o.c r e
    some (permuteForm s [(o.c, Nat.max 1 (s.q * 32 / (shapeOf s).w)), (o.a, s.q), (o.b, s.q)] o.m o.a o.b
      (fun p st r e => if idx p st r e < p.vl then some (idx p st r e) else none) (fun _ => some 0))
  | .vslup o =>
    some { shapeForm s 4 anyFormat [(o.a, s.q), (o.b, s.q)] (fun p st => writeSome p p.grp 0 o.a (fun r e =>
        if e < s.xn o.c then none
        else if st.active o.m e then some (p.el st o.b r (e - s.xn o.c))
        else leftBy p) st) with
      own := s.SameBlock o.m (fun _ _ _ e => if s.xn o.c ≤ e then some (e - s.xn o.c) else none) }
  | .vsldn o =>
    some (permuteForm s [(o.a, s.q), (o.b, s.q)] o.m o.a o.b
      (fun p _ _ e => if e + s.xn o.c < p.vl then some (e + s.xn o.c) else none) (fun _ => some 0))
  | .vcmpr o =>
    some (permuteForm s [(o.a, s.q), (o.b, s.q)] 0 o.a o.b
      (fun p st _ e => (selected p st o.m)[e]?) leftBy)
  | .vmvs o =>
    some (shapeForm s 4 anyFormat [(o.a, s.q)] fun p st => writeSome p p.grp 0 o.a (fun r e =>
      if r = 0 ∧ e = 0 then (if st.active o.m 0 then some (s.xn o.b % 2 ^ p.w) else leftBy p) else none) st)
  | .vmvx o =>
    some (shapeForm s 4 anyFormat [(o.b, s.q)] fun p st => st.setX o.a
      (if p.vl = 0 ∨ st.active o.m 0 = false then 0 else if isSignedInt p.ew then wi (sgn p (p.el st o.b 0 0)) else word (p.el st o.b 0 0)))
  | _ => none

/-- The predicate of a permute that checks its sources (R199), and where element e of row r comes from. -/
def permSource (s : State) : Instr → Option (MReg × (Shp → Strip → Nat → Nat → Option Nat))
  | .vrgath o => some (o.m, fun p st r e =>
      let x := getElem st ⟨32, Nat.max 1 (p.q * 32 / p.w), p.m⟩ o.c r e
      if x < p.vl then some x else none)
  | .vslup o => some (o.m, fun _ _ _ e => if s.xn o.c ≤ e then some (e - s.xn o.c) else none)
  | .vsldn o => some (o.m, fun p _ _ e => if e + s.xn o.c < p.vl then some (e + s.xn o.c) else none)
  | .vcmpr o => some (0, fun p st _ e => (selected p st o.m)[e]?)
  | _ => none

/-! ## Compares and masks (R189 to R192) -/

/-- A compare into a mask: one row. -/
def compareForm (s : State) (admits : BitVec 6 → Bool) (m d : MReg) (srcs : List VReg) (f : Shp → Strip → Nat → Bool) : VectorForm :=
  let base := shapeForm s 4 admits (srcs.map (fun v => (v, s.q))) (fun p st => writeMask p m d (f p st) st)
  { base with
    formats := base.formats ∧ rowsOf s.hart.live.shape = 1
    mask := some d }

abbrev Rel := Shp → Nat → Nat → Bool

def cmpVV (s : State) (admits : BitVec 6 → Bool) (o : CmpV) (rel : Rel) : VectorForm :=
  compareForm s admits o.m o.d [o.b, o.c] (fun p st e => rel p (p.el st o.b 0 e) (p.el st o.c 0 e))

def cmpVX (s : State) (admits : BitVec 6 → Bool) (o : CmpX) (rel : Rel) : VectorForm :=
  compareForm s admits o.m o.d [o.b] (fun p st e => rel p (p.el st o.b 0 e) (s.xn o.c % 2 ^ p.w))

def rEq : Rel := fun _ b c => decide (b = c)
def rNe : Rel := fun _ b c => decide (b ≠ c)
def rLt : Rel := fun p b c => decide (sgn p b < sgn p c)
def rLe : Rel := fun p b c => decide (sgn p b ≤ sgn p c)
def rLtn : Rel := fun _ b c => decide (b < c)
def rLen : Rel := fun _ b c => decide (b ≤ c)
def rFeq : Rel := fun p b c => fEqv (fv p b) (fv p c)
def rFlt : Rel := fun p b c => fLt (fv p b) (fv p c)
def rFle : Rel := fun p b c => fLe (fv p b) (fv p c)
def rFun : Rel := fun p b c => (fv p b).isNan || (fv p c).isNan

/-- An instruction on masks: it does not read SHAPE's format, and is not stopped by it. -/
def maskForm (s : State) (mask : Option MReg) (effect : Shp → Strip → Strip) : VectorForm :=
  { len := 4, formats := True, shape := True, groups := [], mask := mask, own := True, effect := effect (shapeOf s) }

def intoMask (s : State) (d : MReg) (f : Strip → Nat → Bool) : VectorForm :=
  maskForm s (some d) (fun p st => writeMask p 0 d (f st) st)

def boolForm (s : State) : Instr → Option VectorForm
  | .vceq o => some (cmpVV s isInt o rEq)
  | .vcne o => some (cmpVV s isInt o rNe)
  | .vclt o => some (cmpVV s isInt o rLt)
  | .vcle o => some (cmpVV s isInt o rLe)
  | .vcltn o => some (cmpVV s isInt o rLtn)
  | .vclen o => some (cmpVV s isInt o rLen)
  | .vfceq o => some (cmpVV s isIeee o rFeq)
  | .vfclt o => some (cmpVV s isIeee o rFlt)
  | .vfcle o => some (cmpVV s isIeee o rFle)
  | .vfcun o => some (cmpVV s isIeee o rFun)
  | .vceqX o => some (cmpVX s isInt o rEq)
  | .vcneX o => some (cmpVX s isInt o rNe)
  | .vcltX o => some (cmpVX s isInt o rLt)
  | .vcleX o => some (cmpVX s isInt o rLe)
  | .vcltnX o => some (cmpVX s isInt o rLtn)
  | .vclenX o => some (cmpVX s isInt o rLen)
  | .vfceqX o => some (cmpVX s isIeee o rFeq)
  | .vfcltX o => some (cmpVX s isIeee o rFlt)
  | .vfcleX o => some (cmpVX s isIeee o rFle)
  | .vfcunX o => some (cmpVX s isIeee o rFun)
  | .mand o => some (intoMask s o.a fun st e => st.bit o.b.toNat e && st.bit o.c.toNat e)
  | .mor o => some (intoMask s o.a fun st e => st.bit o.b.toNat e || st.bit o.c.toNat e)
  | .mxor o => some (intoMask s o.a fun st e => xor (st.bit o.b.toNat e) (st.bit o.c.toNat e))
  | .mandn o => some (intoMask s o.a fun st e => st.bit o.b.toNat e && !st.bit o.c.toNat e)
  | .mnot o => some (intoMask s o.a fun st e => !st.bit o.b.toNat e)
  | .msetx o => some (intoMask s o.a fun _ e => decide (e < 64) && (s.xr o.b).getLsbD e)
  | .mclr a => some (maskForm s none fun _ st => { st with m := st.m.set a.toNat [] })
  | .mpop o => some (maskForm s none fun p st => st.setX o.a (word (maskedBits st o.m o.b p.vl).length))
  | .mfirst o => some (maskForm s none fun p st => st.setX o.a (((maskedBits st o.m o.b p.vl).head?.map word).getD (wi (-1))))
  | _ => none

/-! ## Reductions (R193 to R196) -/

/-- The active elements of vB in linear order, each with its linear index. -/
def linear (p : Shp) (st : Strip) (m : MReg) (b : VReg) : List (Nat × Nat) :=
  (positions p.rows p.vl).filterMap (fun re =>
    if st.active m re.2 then some (re.1 * p.vl + re.2, p.el st b re.1 re.2) else none)

def reduceForm (s : State) (admits : BitVec 6 → Bool) (o : VVX) (f : Shp → Strip → List (Nat × Nat) → Word) : VectorForm :=
  shapeForm s 4 admits [(o.b, s.q)] (fun p st => st.setX o.a (f p st (linear p st o.m o.b)))

/-- A fold from the low bits of xC over the active elements, ascending; extended by sign where signed says so. -/
def foldForm (s : State) (admits : BitVec 6 → Bool) (o : VVX) (signed : Shp → Bool) (f : Shp → Nat → Nat → Nat) : VectorForm :=
  reduceForm s admits o fun p _ xs =>
    let v := xs.foldl (fun acc x => f p acc x.2) (s.xn o.c % 2 ^ p.w)
    if signed p then wi (sgn p v) else word v

/-- One rounded addition of two elements. -/
def plus (p : Shp) (a b : Nat) : Nat := rnd p (fAdd true p.rnd (fv p a) (fv p b))

/-- The pairwise tree of R195: position 2i and position 2i + 1 of a level are added; one that is absent gives the other. -/
def level (p : Shp) (f : Nat → Option Nat) (i : Nat) : Option Nat :=
  match f (2 * i), f (2 * i + 1) with
  | some x, some y => some (plus p x y)
  | some x, none => some x
  | none, y => y

def tree (p : Shp) : Nat → (Nat → Option Nat) → Option Nat
  | 0, f => f 0
  | n + 1, f => tree p n (level p f)

/-- The least index of the greatest element under an order. -/
def greatest (less : Nat → Nat → Bool) (xs : List (Nat × Nat)) (i : Nat) : Prop :=
  ∃ x ∈ xs, x.1 = i ∧ (∀ y ∈ xs, less x.2 y.2 = false) ∧ ∀ y ∈ xs, y.1 < i → less y.2 x.2 = true

def signedInt (p : Shp) : Bool := isSignedInt p.ew

def reduceForms (s : State) : Instr → Option VectorForm
  | .vrsumo o => some (foldForm s isIeee o (fun _ => false) plus)
  | .vrmaxf o => some (foldForm s isIeee o (fun _ => false) fun p => fMaxBits (fmtOf p.ew))
  | .vrminf o => some (foldForm s isIeee o (fun _ => false) fun p => fMinBits (fmtOf p.ew))
  | .vrsumt o => some (reduceForm s isIeee o fun p st _ =>
      let n := p.rows * p.vl
      let c := s.xn o.c % 2 ^ p.w
      let leaf := fun i => if i < n ∧ st.active o.m (i % p.vl) then some (p.el st o.b (i / p.vl) (i % p.vl)) else none
      ((tree p (Nat.log2 (2 * n - 1)) leaf).map (fun x => word (plus p c x))).getD (word c))
  | .vrsum o => some (foldForm s isInt o signedInt fun p a b => (a + b) % 2 ^ p.w)
  | .vrand o => some (foldForm s isInt o signedInt fun _ a b => a &&& b)
  | .vror o => some (foldForm s isInt o signedInt fun _ a b => a ||| b)
  | .vrxor o => some (foldForm s isInt o signedInt fun _ a b => a ^^^ b)
  | .vrmax o => some (foldForm s isInt o (fun _ => true) fun p a b => if sgn p a < sgn p b then b else a)
  | .vrmin o => some (foldForm s isInt o (fun _ => true) fun p a b => if sgn p b < sgn p a then b else a)
  | .vrmaxn o => some (foldForm s isInt o (fun _ => false) fun _ a b => max a b)
  | .vrminn o => some (foldForm s isInt o (fun _ => false) fun _ a b => min a b)
  | _ => none

/-- The reductions that give an index: what they admit, which elements take part, and their order. -/
def indexForm : Instr → Option (VVX × (BitVec 6 → Bool) × (Shp → Nat → Bool) × (Shp → Nat → Nat → Bool))
  | .vrmaxfi o => some (o, isIeee, fun p x => !(fv p x).isNan, fun p a b => fLess (fv p a) (fv p b))
  | .vrmaxi o => some (o, isInt, fun _ _ => true, fun p a b => if signedInt p then decide (sgn p a < sgn p b) else decide (a < b))
  | _ => none

/-! ## Tiles (R201 to R203) -/

/-- Column c of row r of a tile. -/
def Strip.tile (st : Strip) (t r c : Nat) : Nat :=
  (((st.t.toList.getD t (Vector.replicate 16 [])).toList.getD r []).getD c 0).toNat

/-- An element of TMAC: the accumulator and eight products, rounded once; integers modulo 2^32. -/
def macc (p : Shp) (acc : Nat) (b c : Nat → Nat) : Nat :=
  if isInt p.ew then
    let v := fun x => if signedInt p then signedOf 8 x else ((x % 256 : Nat) : Int)
    (((List.range 8).foldl (fun t k => t + v (b k) * v (c k)) (signedOf 32 acc)) % (2 ^ 32 : Nat)).toNat
  else
    fmtF32.conv p.rnd 0 false ((List.range 8).foldl (fun t k => fAdd true p.rnd t (fMul (fv p (b k)) (fv p (c k)))) (fmtF32.value acc))

/-- An instruction on tiles with one row and one register per row, VL within the columns, and no unreadable slot that it reads (R361). A
slot is a register and its slot, or the row 32 + 16 × tile + row and its column. -/
def tileForm (s : State) (admits : BitVec 6 → Bool) (least : Nat) (groups : List (VReg × Nat)) (read : Shp → Nat × Nat → Prop)
    (effect : Shp → Strip → Strip) : VectorForm :=
  let base := shapeForm s 4 admits groups effect
  { base with
    formats := isReduced s = false ∧ base.formats ∧ rowsOf s.hart.live.shape = 1 ∧ s.q = 1
    own := least ≤ (shapeOf s).cap ∧ (shapeOf s).vl ≤ s.hart.bricks * s.hart.lmod * 16 ∧
      ∀ u ∈ s.owned.hart.live.lost, ¬ read (shapeOf s) u }

/-- The formats of TMAC and of the tile rows (R181). -/
def tmacFormat (ew : BitVec 6) : Bool :=
  decide (ew = 0x00 ∨ ew = 0x04 ∨ ew = 0x08 ∨ ew = 0x09 ∨ ew = 0x0A ∨ isBinary8 ew = true)

def rowFormat (ew : BitVec 6) : Bool := decide (ew = 0x02 ∨ ew = 0x06 ∨ ew = 0x0A)

/-- What an instruction on tiles does: which elements of which tiles it writes, by tile, row and column, and their values. -/
structure TileForm where
  form : VectorForm
  writes : Shp → Strip → Nat → Nat → Nat → Bool
  val : Shp → Strip → Nat → Nat → Nat → Nat

/-- The instructions that write tiles. -/
def tileForms (s : State) : Instr → Option TileForm
  | .tmac o =>
    some {
      form := tileForm s tmacFormat 128 [(o.b, 2 ^ o.r.toNat), (o.c, 8)]
        (fun p u => (32 + 16 * o.t.toNat ≤ u.1 ∧ u.1 < 32 + 16 * (o.t.toNat + 2 ^ o.r.toNat) ∧ u.2 < p.vl) ∨
          (o.b.toNat ≤ u.1 ∧ u.1 < o.b.toNat + 2 ^ o.r.toNat ∧ u.2 * 32 < 128 * p.w) ∨
          (o.c.toNat ≤ u.1 ∧ u.1 < o.c.toNat + 8 ∧ u.2 * 32 < p.vl * p.w)) (fun _ st => st)
      writes := fun p _ t _ c => decide (o.t.toNat ≤ t ∧ t < o.t.toNat + 2 ^ o.r.toNat ∧ c < p.vl)
      val := fun p st t r c =>
        macc p (st.tile t r c) (fun k => getElem st p.grp (BitVec.ofNat 5 (o.b.toNat + (t - o.t.toNat))) 0 (8 * r + k))
          (fun k => getElem st p.grp (BitVec.ofNat 5 (o.c.toNat + k)) 0 c) }
  | .tzero t0 =>
    some {
      form := { maskForm s none (fun _ st => st) with formats := isReduced s = false }
      writes := fun _ _ t _ _ => decide (t = t0.toNat)
      val := fun _ _ _ _ _ => 0 }
  | .tsetrow o =>
    some {
      form := tileForm s rowFormat 0 [(o.b, s.q)] (fun _ _ => False) (fun _ st => st)
      writes := fun p st t r c => decide (t = o.t.toNat ∧ r = s.xn o.c % 16 ∧ c < p.vl) && st.active o.m c
      val := fun p st _ _ c => p.el st o.b 0 c }
  | _ => none

/-- TROW moves a row of a tile to a vector. -/
def trowForm (s : State) (o : Trw) : VectorForm :=
  tileForm s rowFormat 0 [(o.a, s.q)] (fun p u => u.1 = 32 + 16 * o.t.toNat + s.xn o.c % 16 ∧ u.2 < p.vl)
    (fun p st => writeRows p p.grp o.m o.a (fun _ e => st.tile o.t.toNat (s.xn o.c % 16) e) st)

/-- The capacity that an instruction on tiles needs (R202, R203). -/
def tileLeast : Instr → Option Nat
  | .tmac _ => some 128
  | .trow _ | .tsetrow _ => some 0
  | _ => none

/-! ## All register forms, and vector memory accesses -/

/-- Every vector instruction that works on registers alone, with its form. -/
def vectorForm (s : State) (i : Instr) : Option VectorForm :=
  ((intForm s i).map (·.form s)) <|> ((fltForm s i).map (·.form s)) <|> ((moveForm s i).map (·.form s)) <|>
  convertForm s i <|> permForm s i <|> boolForm s i <|> reduceForms s i <|> ((tileForms s i).map (·.form)) <|>
  (match i with
    | .trow o => some (trowForm s o)
    | _ => none) <|>
  (indexForm i).map (fun x => reduceForm s x.2.1 x.1 (fun _ _ _ => 0))

/-- A vector access: its predicate, its data register, its offset vector, and the address of element e of row r, whose linear index
is r × VL + e (R148, R150). -/
structure AccessForm where
  m : MReg
  a : VReg
  off : Option VReg
  addr : Shp → Strip → Nat → Nat → Word

def unitForm (s : State) (o : VM2) : AccessForm := ⟨o.m, o.a, none, fun p _ r e => s.xr o.b + word ((r * p.vl + e) * (p.w / 8))⟩
def strideForm (s : State) (o : VM3) : AccessForm := ⟨o.m, o.a, none, fun p _ r e => s.xr o.b + word (r * p.vl + e) * s.xr o.c⟩
def offsetForm (s : State) (o : VMK3) : AccessForm :=
  ⟨o.m, o.a, some o.c, fun p st r e => s.xr o.b + word (getElem st ⟨32, Nat.max 1 (p.q * 32 / p.w), p.m⟩ o.c r e)⟩
def rowsForm (s : State) (o : VM3) : AccessForm :=
  ⟨o.m, o.a, none, fun p _ r e => s.xr o.b + word r * s.xr o.c + word (e * (p.w / 8))⟩

def vectorLoad (s : State) : Instr → Option AccessForm
  | .vldu o => some (unitForm s o)
  | .vlds o => some (strideForm s o)
  | .vldx o => some (offsetForm s o)
  | .vld2d o => some (rowsForm s o)
  | _ => none

def vectorStore (s : State) : Instr → Option AccessForm
  | .vstu o => some (unitForm s o)
  | .vsts o => some (strideForm s o)
  | .vstx o => some (offsetForm s o)
  | .vstuu o => some (unitForm s o)
  | .vstxu o => some (offsetForm s o)
  | .vst2d o => some (rowsForm s o)
  | _ => none

/-- The operand groups of an access, and what must hold before it. -/
def AccessForm.form (f : AccessForm) (s : State) : VectorForm :=
  shapeForm s 4 anyFormat ((f.a, s.q) :: f.off.toList.map (fun c => (c, Nat.max 1 (s.q * 32 / (shapeOf s).w)))) (fun _ st => st)

/-- The active elements of an access, in linear order. -/
def AccessForm.elts (f : AccessForm) (s : State) : List Elt :=
  let p := shapeOf s
  let st := s.owned.hart.live
  (positions p.rows p.vl).filterMap (fun re => if st.active f.m re.2 then some ⟨re.1, re.2, f.addr p st re.1 re.2⟩ else none)

/-- The value of an element of n bytes as the hart sees it: memory, or the bytes that have come from another device, under its own
stores (R72, R333). -/
def State.elementAt (t : State) (loc : Loc) (n : Nat) : Nat :=
  if isRemote loc.key then leNat (t.hart.unperformed.foldl (overlay loc.key) ((t.hart.replied loc.key n).getD []))
  else leNat (visible t loc.key n)

/-- Every byte that some elements of n bytes need of another device has come, and none was refused (R333, R334). -/
def State.HasCome (t : State) (n : Nat) (locs : List (Elt × Loc)) : Prop :=
  ∀ x ∈ locs, isRemote x.2.key = true → t.hart.refusedByte x.2.key n = none ∧ (t.hart.replied x.2.key n).isSome = true

/-- A place of n bytes can be read: no damaged word lies under it in memory, or its bytes have come from another device (R333, R361). -/
def State.CanRead (t : State) (loc : Loc) (n : Nat) : Prop :=
  (isRemote loc.key = false → damagedByte t loc.key n = none) ∧
  (isRemote loc.key = true → t.hart.refusedByte loc.key n = none ∧ (t.hart.replied loc.key n).isSome = true)

/-- The addresses of the stores of an access, and whether they fit beside what the mortar holds (R145); chunks are counted by virtual
address (the model's choice, log entry 25). -/
def AccessForm.addrs (f : AccessForm) (s : State) : List Word := (f.elts s).map (·.addr)

def StoresFit (s : State) (as : List Word) : Prop :=
  (mortarChunks s.hart).length + (newChunks s.hart as).length ≤ mortarSize s.hart

/-- The strip after a load: element (r, e) takes val r e. -/
def AccessForm.loaded (f : AccessForm) (s : State) (val : Nat → Nat → Nat) (st : Strip) : Strip :=
  writeRows (shapeOf s) (shapeOf s).grp f.m f.a val st

/-- A fault of an element: it traps at element 0 and in a strip that no SETVL opened, and else trims the strip (R152). -/
def State.elementFault (t : State) (f : EFault) : State :=
  if f.e ≠ 0 ∧ t.hart.ckptSetvl = true then
    { t with
      hart := { t.hart.rollback with
        trim := some (match t.hart.trim with
          | some k => min f.e k
          | none => f.e)
        status := .ready } }
  else takeTrap f.cause (word f.e) f.addr t

/-! ## Vector configuration and streams (R136 to R140, R256 to R263) -/

/-- The elements that a row holds under a shape (R136). -/
def Hart.capacity (h : Hart) (shape : BitVec 15) : Nat :=
  h.bricks * h.lmod * 8 * 32 * 32 * grpOf shape / h.nreg / widthOf (ewOf shape)

/-- A closing instruction is to take a grant: its strip is closed, and the trim limit is the one a re-run keeps (R144, R209). -/
def State.atGrant (s : State) : State :=
  { s.closed with
    hart := { s.closed.hart with
      trim := if s.hart.ckptSetvl = true ∧ s.hart.rerun = false then none else s.hart.trim
      atSetvl := true } }

/-- What the issuing hart is to hold in its hall: its share now, and in a gang of several what the phase in progress has fixed, if it
has (R96, R98). -/
def State.phaseTarget (s : State) : Nat :=
  let now := shareOf s s.hart.hall s.hart.pid s.hart.gkey
  match s.gang with
  | some g => if 1 < g.declared then g.phaseGrant.getD now else now
  | none => now

/-- The groups in which a SETVL takes bricks, the lowest first: with its own tag, free, others (R213). -/
def State.takingGroup (s : State) (x : Nat × Nat) : Nat :=
  if s.ownerOf x = some s.hart.id then 0 else if s.ownerOf x = none then 1 else 2

/-- The bricks of its hall that a hart can hold: usable ones that it has, and offered ones that no live hart has (R96, R98). -/
def State.reachable (s : State) : List Nat :=
  (List.range Config.bricksPerHall).filter (fun b =>
    let x := (s.hart.hall, b)
    s.usable x && (s.hart.grant.contains x || (decide (b < offered s) && s.harts.all (fun g => !(g.isLive && g.grant.contains x)))))

/-- What the taking of a grant by a hart that is not spread leaves (R96, R98, R213): k is what it is to hold in its hall, its share or, in
a gang of several, what the phase in progress has fixed. -/
structure State.TakesGrant (s u : State) (goes : Bool) : Prop where
  others : ∀ x, x.1 ≠ s.hart.hall → (x ∈ u.hart.grant ↔ x ∈ s.hart.grant)
  usable : ∀ x ∈ u.hart.grant, x.1 = s.hart.hall → x.2 < Config.bricksPerHall → s.usable x = true
  most : (u.hart.holds s.hart.hall).length ≤ s.phaseTarget
  keeps : ∀ x ∈ ((s.hart.holds s.hart.hall).filter s.usable).take s.phaseTarget, x ∈ u.hart.grant
  takes : ∀ x ∈ u.hart.grant, x ∉ s.hart.grant → ∀ g ∈ s.harts, g.isLive = true → x ∉ g.grant
  inOrder : ∀ x ∈ u.hart.grant, x ∉ s.hart.grant → ∀ y, y.1 = s.hart.hall → y.2 < offered s → s.usable y = true →
    (∀ g ∈ s.harts, g.isLive = true → y ∉ g.grant) →
    s.takingGroup y < s.takingGroup x ∨ (s.takingGroup y = s.takingGroup x ∧ y.2 < x.2) → y ∈ u.hart.grant
  asMany : (u.hart.holds s.hart.hall).length < s.phaseTarget → ∀ y, y.1 = s.hart.hall → y.2 < offered s → s.usable y = true →
    y ∈ u.hart.grant ∨ ∃ g ∈ s.harts, g.isLive = true ∧ y ∈ g.grant
  goesOn : goes = true ↔ 0 < (u.hart.holds s.hart.hall).length ∧ (s.gang.elim 1 (·.min)) ≤ (u.hart.holds s.hart.hall).length ∧
    ((∃ g, s.gang = some g ∧ 1 < g.declared) → s.phaseTarget ≤ (u.hart.holds s.hart.hall).length)

/-- The least of a number and a limit, where there is one. -/
def limited (n : Nat) : Option Nat → Nat
  | none => n
  | some k => min n k

/-- The bytes at an address as an engine reads them at issue, as one number; none where the read fails. -/
def State.recordAt (s : State) (a : Word) (n : Nat) : Option Nat :=
  match engineRead a.toNat n s with
  | .ok bs _ => some (leNat bs)
  | .error _ _ => none

/-- Bits lo to lo + n - 1 of a record's doubleword at a byte offset. -/
def field (r off lo n : Nat) : Nat := r / 2 ^ (8 * off + lo) % 2 ^ n

/-- The limits of a binding record (R256). -/
def StreamRecord (r : Nat) : Prop :=
  isFormat (BitVec.ofNat 6 (field r 24 0 8)) = true ∧ field r 24 0 8 < 64 ∧
  field r 0 0 64 % (widthOf (BitVec.ofNat 6 (field r 24 0 8)) / 8) = 0 ∧ field r 16 0 64 ≤ 2 ^ 48 ∧ field r 24 8 8 ≤ 1 ∧
  field r 24 16 8 ≤ 16 ∧ field r 24 24 40 = 0 ∧ (field r 32 0 64 = 0 → field r 40 0 64 = 0 ∧ field r 24 16 8 = 0) ∧
  field r 48 0 64 ≤ field r 16 0 64 ∧ field r 56 0 64 = 0

/-- The binding of a register that a record describes. -/
def describedStream (v : VReg) (a : Word) (r : Nat) : Binding :=
  { reg := v
    base := word (field r 0 0 64)
    stride := word (field r 8 0 64)
    len := field r 16 0 64
    fmt := BitVec.ofNat 6 (field r 24 0 8)
    store := decide (field r 24 8 8 = 1)
    sblog := field r 24 16 8
    scale := word (field r 32 0 64)
    sstride := word (field r 40 0 64)
    recVa := a }

/-- An engine instruction is free to go on: full service, nothing holds its strip's close back, and its queue has room (R356, R88,
R7). -/
structure EngineReady (s : State) (e : EngineKind) : Prop where
  full : isReduced s = false
  quiet : s.Quiet
  room : s.hart.queueFull e = false

/-- The position of a binding moved. -/
def State.withPos (s : State) (v : VReg) (n : Nat) : State :=
  { s with
    hart := { s.hart with
      live := { s.hart.live with pos := assocSet s.hart.live.pos v n } } }

/-- The elements that a stream gives to or takes from a strip (R260, R261). -/
def streamElements (b : Binding) (pos vl : Nat) : List Elt :=
  (List.range vl).map (fun e => ⟨0, e, b.base + word (pos + e) * b.stride⟩)

/-- The scale bytes of the elements of a strip (R256, R260). -/
def streamScales (b : Binding) (pos vl : Nat) : List Elt :=
  (List.range vl).map (fun e => ⟨0, e, b.scale + word ((pos + e) / 2 ^ b.sblog) * b.sstride⟩)

/-- The checks of n elements of a stream pass, and of their scale bytes where it has any: the places, and the state they leave (R260,
R261, R333). -/
def StreamChecked (load : Bool) (b : Binding) (pos n : Nat) (s : State) (locs scs : List (Elt × Loc)) (t : State) : Prop :=
  let size := widthOf b.fmt / 8
  ∃ u, checkElems (if load then .load else .store) size (streamElements b pos n) s = .ok (locs, none) u ∧
    (load = true → u.HasCome size locs) ∧ (b.scale = 0 → scs = [] ∧ t = u) ∧
    (b.scale ≠ 0 → checkElems .load 1 (streamScales b pos n) u = .ok (scs, none) t ∧ t.HasCome 1 scs)

/-- The scale byte of element e, none without a scale stream. -/
def ScaleIs (t : State) (scs : List (Elt × Loc)) (e : Nat) (c : Option Nat) : Prop :=
  (scs = [] ∧ c = none) ∨ ∃ y ∈ scs, y.1.e = e ∧ c = some (t.elementAt y.2 1)

/-- A stream element in another format: its value times its scale 2^(c − 127) on the way in, divided by it on the way out, rounded once; the
scale byte 255 gives NaN. Without a scale a value of the same format keeps its bits (R175). -/
def streamValue (src dst : BitVec 6) (load : Bool) (c : Option Nat) (bits : Nat) : Nat :=
  let op := fun q : Frac => if load then fMul (elemValue src bits) (.fin q false) else fDiv (elemValue src bits) (.fin q false)
  match c with
  | none => if src = dst then bits else convStream dst (op (Frac.ofInt 1))
  | some k => if k = 255 then convStream dst .nan else convStream dst (op (Frac.pow2 ((k : Int) - 127)))

/-- A strip whose register v has taken its next elements, with its tail by SHAPE.TAIL (R260). -/
def Strip.filled (p : Shp) (v : VReg) (val : Nat → Nat) (st : Strip) : Strip :=
  let st := (List.range p.vl).foldl (fun st e => setElem st p.grp v 0 e (val e)) st
  if p.tz then zeroTail p.grp v p.vl 1 st else st

/-- The strip that a SETVL opens: its checkpoint is the SETVL with the new VL, before xA is written (R138). -/
def Hart.opened (h : Hart) (a : XReg) (vl : Nat) : Hart :=
  let at_ : Strip := { h.live with vl := BitVec.ofNat 32 vl }
  { h with
    ckpt := at_
    ckptSetvl := true
    rerun := false
    atSetvl := true
    pages := []
    stale := false
    pending := 1
    live := { at_ with
      x := if a = 0 then at_.x else at_.x.set a.toNat (word vl)
      ldl := 0b10#2 ++ a
      pc := h.live.pc + 4 } }

/-! ## The vector save area (R217) -/

/-- Four bytes at an offset, and bit e of the bytes from an offset up. -/
def wordAt (bs : List Byte) (off : Nat) : Nat := leNat ((bs.drop off).take 4)
def bitAt (bs : List Byte) (off e : Nat) : Bool := (bs.getD (off + e / 8) 0).getLsbD (e % 8)

/-- Slot i of register r, and bit e of mask j. -/
def Strip.slotOf (st : Strip) (r i : Nat) : Slot := (st.v.toList.getD r []).getD i 0
def Strip.maskBit (st : Strip) (j e : Nat) : Bool := (st.m.toList.getD j []).getD e false

/-- Bytes are the save area of a hart's vector state on b bricks with l lanes each (R217). -/
structure SaveLayout (h : Hart) (b l : Nat) (bs : List Byte) : Prop where
  size : bs.length = 128 + 6144 * b * l
  header : let n := leNat (bs.take 128)
    field n 0 0 32 = 1 ∧ field n 4 0 8 = h.nreg % 2 ^ 8 ∧ field n 5 0 24 = 0 ∧ field n 8 0 16 = h.id % 2 ^ 16 ∧
      field n 10 0 16 = b % 2 ^ 16 ∧ field n 12 0 8 = l % 2 ^ 8 ∧ field n 13 0 8 = h.dies % 2 ^ 8 ∧ field n 14 0 16 = 0 ∧
      field n 16 0 32 = b * l * 256 / h.nreg % 2 ^ 32 ∧ field n 20 0 32 = b * l * 1024 % 2 ^ 32 ∧
      field n 24 0 32 = b * l * 16 % 2 ^ 32 ∧ field n 28 0 32 = 0 ∧ field n 32 0 768 = 0
  registers : ∀ r i, r < h.nreg → i < b * l * 256 / h.nreg →
    wordAt bs (128 + 4 * (b * l * 256 / h.nreg * r + i)) = (h.live.slotOf r i).toNat
  masks : ∀ j e, j < 8 → e < b * l * 1024 → bitAt bs (128 + 1024 * b * l + b * l * 128 * j) e = h.live.maskBit j e
  tiles : ∀ t r c, t < 4 → r < 16 → c < b * l * 16 →
    wordAt bs (128 + 2048 * b * l + 4 * (b * l * 16 * (16 * t + r) + c)) = h.live.tile t r c

/-- A hart with the vector state of a save area, whose header gives n registers of m slots, masks of mc bits and tiles of tc columns: what
lies within its own geometry, and zero beyond what was saved; bound masks are as they were (R216). -/
structure RestoredFrom (n m mc tc : Nat) (bs : List Byte) (h t : Hart) : Prop where
  frame : t = { h with
    nreg := n
    cut := none
    live := { h.live with
      v := t.live.v
      m := t.live.m
      t := t.live.t
      lost := [] } }
  registers : ∀ r i, r < 32 → t.live.slotOf r i =
    if r < n ∧ i < m ∧ i < h.bricks * h.lmod * 256 / n then BitVec.ofNat 32 (wordAt bs (4 * (m * r + i))) else 0
  masks : ∀ j e, j < 8 → t.live.maskBit j e =
    if h.bound.any (fun b => decide (b.1.toNat = j)) then h.live.maskBit j e
    else decide (e < mc ∧ e < h.bricks * h.lmod * 1024) && bitAt bs (4 * m * n + mc / 8 * j) e
  tiles : ∀ q r c, q < 4 → r < 16 → t.live.tile q r c =
    if c < tc ∧ c < h.bricks * h.lmod * 16 then wordAt bs (4 * m * n + mc / 8 * 8 + 4 * (tc * (16 * q + r) + c)) else 0

/-! ## Harts (R84 to R95) -/

/-- The limits on a lease (R86). -/
def leaseFits (min pref prio ceiling : Nat) : Prop := 1 ≤ min ∧ min ≤ pref ∧ pref ≤ 12 ∧ prio ≤ ceiling

/-- A spawn record that is malformed, or that asks for what its spawner may not give (R86, R89). -/
def badRecord (s : State) (r : Nat) : Prop :=
  field r 32 51 13 ≠ 0 ∨ field r 40 48 16 ≠ 0 ∨ field r 0 0 1 ≠ 0 ∨ field r 56 0 3 ≠ 0 ∨ (field r 32 50 1 = 1 ∧ s.hart.mode = .user) ∨
  (field r 40 0 32 = 0 ∧ field r 32 48 1 = 1 ∧ 1 < field r 32 40 8)

/-- The lease or the hall of a new gang is not admitted. -/
def badLease (s : State) (r : Nat) : Prop :=
  ¬ leaseFits (field r 32 0 16) (field r 32 16 16) (field r 32 32 8) s.hart.prio.toNat ∨ hallOf s (field r 40 32 16) = none ∨
  (isReduced s = true ∧ (4 < field r 32 0 16 ∨ field r 32 48 1 = 1))

/-- The gang that a record names; none for a record of a new gang. -/
def joinedGang (s : State) (r : Nat) : Option Gang := if field r 40 0 32 = 0 then none else s.gangNamed (field r 40 0 32)

/-- The gang that a record names has no place for a member in its hall; of several gangs whose first members have had the id, it
names the one formed last (the model's choice, log entry 52). -/
def badGang (s : State) (r : Nat) : Prop :=
  ∀ g, s.gangNamed (field r 40 0 32) = some g →
    g.declared ≤ g.joined ∨ hallOf s (field r 40 32 16) ≠ some g.hall

/-- Whether a record forms a new gang. -/
def newGangRecord (r : Nat) : Prop := field r 40 0 32 = 0

/-- The hart that a spawn creates: the registers of its record, what it copies from its spawner, its gang's priority, and the rest as
at reset (R87). -/
def childOf (s : State) (id hall r : Nat) : Hart :=
  let st : Strip := { Strip.zero with
    pc := word (field r 0 0 64)
    x := ((Strip.zero.x.set 1 (word (field r 8 0 64))).set 2 (word (field r 24 0 64))).set 3 (word (field r 16 0 64)) }
  { Hart.absent with
    pid := s.hart.pid
    id := id
    serial := s.part.nextSerial
    status := if (freeSlot s hall).isSome then .ready else .off .slot
    mode := if field r 32 50 1 = 1 then .supervisor else .user
    live := st
    ckpt := st
    ptroot := s.hart.ptroot
    domain := s.hart.domain
    tvec := s.hart.tvec
    tscr := s.hart.tscr
    wdog := s.hart.wdog
    frnd := s.hart.frnd
    wtime := s.hart.wtime
    rad := s.hart.rad
    prio := BitVec.ofNat 2 ((joinedGang s r).elim (field r 32 32 8) (·.prio))
    cybud := word (field r 48 0 64)
    gang := if field r 40 0 32 = 0 then id else field r 40 0 32
    gkey := (joinedGang s r).elim s.part.nextAge (·.age)
    hall := hall
    slot := freeSlot s hall
    spread := decide (field r 40 0 32 = 0 ∧ field r 32 48 1 = 1)
    detached := decide (field r 32 49 1 = 1)
    exitVa := word (field r 56 0 64) }

/-- The gang that a record forms, or its gang with one more member (R85). -/
def gangsAfter (s : State) (id hall r : Nat) : List Gang :=
  if field r 40 0 32 = 0 then
    s.part.gangs ++ [{
      id := id
      declared := field r 32 40 8
      joined := 1
      size := field r 32 40 8
      hall := hall
      min := field r 32 0 16
      pref := field r 32 16 16
      prio := field r 32 32 8
      age := s.part.nextAge
      phase := 0
      arrived := []
      phaseGrant := none }]
  else s.part.gangs.map (fun g => if (joinedGang s r).any (fun k => decide (g.age = k.age)) then { g with joined := g.joined + 1 } else g)

/-- The machine with a spawned hart and its gang. -/
def State.withChild (s : State) (h : Hart) (gangs : List Gang) (new : Bool) : State :=
  { s with
    harts := s.harts.filter (fun g => g.status != .absent) ++ [h]
    part := { s.part with
      gangs := gangs
      nextAge := if new then s.part.nextAge + 1 else s.part.nextAge
      nextSerial := s.part.nextSerial + 1 } }

/-- The partition's gangs changed in one place: a gang is known by its age, which no two of a partition share. -/
def State.withGang (s : State) (age : Nat) (f : Gang → Gang) : State :=
  { s with
    part := { s.part with gangs := s.part.gangs.map (fun g => if g.age = age then f g else g) } }

/-- A gang whose barrier phase is complete if all its members have arrived: the next phase begins, and the bricks each member is to
hold in it are what the arbiter gives it now (R94, R95, R98). -/
def Gang.settled (share : Nat) (g : Gang) : Gang :=
  if g.arrived.length = g.size ∧ 0 < g.size then
    { g with
      phase := g.phase + 1
      arrived := []
      phaseGrant := g.phaseGrant.map (fun _ => share) }
  else g

/-- Members of a gang that wait at its barrier issue again. -/
def State.gangWoken (s : State) (p : PartId) (age : Nat) : State :=
  s.mapHarts (fun h =>
    if h.pid = p ∧ h.gkey = age ∧ (h.status = .waiting .arrive ∨ h.status = .waiting .phase) then { h with status := .ready } else h)

/-- The barrier phase of a gang is completed if all its members have arrived, and those who wait there issue again. -/
def State.phaseSettled (s : State) (age : Nat) : State :=
  (s.withGang age (fun g => g.settled (shareOf s g.hall s.part.cfg.pid age))).gangWoken s.part.cfg.pid age

/-- What a lease word holds (R92). -/
def leaseWord (g : Gang) : Word := word (g.min + g.pref * 2 ^ 16 + g.prio * 2 ^ 32)

/-! ## The end of a hart (R90, R95, R99, R208, R255) -/

/-- The exit word of the issuing hart waits for nothing: there is none, or its translation needs no table of another device that has not
come, and its page is marked without one (R90, R157, R161, R333). -/
def State.ExitReady (s : State) : Prop :=
  s.hart.exitVa = 0 ∨ (∃ u loc, xlate .store s.hart.exitVa s = (u, .ok loc) ∧ (u.leafMarked loc).hart.acks = []) ∨
  (∃ u c, xlate .store s.hart.exitVa s = (u, .error (.cause c))) ∨ ∃ u f, xlate .store s.hart.exitVa s = (u, .error (.stop f))

/-- A hart that has ended: it holds no brick, slot, binding, announcement or request; a detached one is no more. -/
def Hart.gone (h : Hart) : Hart :=
  { h with
    status := if h.detached ∧ h.id ≠ 0 then .absent else .ended
    slot := none
    grant := []
    announce := none
    binds := []
    bound := []
    mortar := []
    preempt := none
    pages := []
    stale := false
    asked := none
    reading := none }

/-- Another hart after one has ended: it joins it no more, and a hart that waited to join it issues again. -/
def Hart.releasedBy (p : PartId) (id : Nat) (g : Hart) : Hart :=
  { g with
    claim := if g.pid = p ∧ g.claim = some id then none else g.claim
    status := if g.pid = p ∧ g.status = .waiting (.join id) then .ready else g.status }

/-- The machine once the issuing hart, its exit word done, has left its gang, whose phase is complete if it was the last to arrive, and
has left its copies that are over, its tags, its bricks and its slot. -/
def State.withoutHart (s : State) : State :=
  let h := s.hart
  let t := (s.withGang h.gkey (fun g => { g with
    size := g.size - 1
    arrived := g.arrived.filter (· ≠ h.id) })).phaseSettled h.gkey
  let t := { t with part := { t.part with
    gangs := t.part.gangs.filter (fun g => decide (g.size ≠ 0))
    copies := t.part.copies.filter (fun (c : Copy) => decide (c.by_.serial ≠ h.serial) || decide (c.state = CopyState.running)) } }
  let t := t.freeTags (t.tagged h.pid h.id) h.id
  { t with
    hart := t.hart.gone.releasedBy h.pid h.id
    harts := t.harts.map (Hart.releasedBy h.pid h.id) }

/-- The launch of a task that ends: the task holds no point any more, and where it held one the launch has failed and is cancelled
(R305). -/
def Launch.lostTask (l : Launch) (id : Nat) : Launch :=
  let lost := l.tasks.any (fun t => decide (t.hart = id) && !t.ended && t.held.isSome)
  { l with
    tasks := l.tasks.map (fun t => if t.hart = id then { t with ended := true, held := none } else t)
    waiting := l.waiting.filter (· ≠ id)
    failed := l.failed || lost
    state := if lost ∧ l.state = .running then .cancelling else l.state }

/-! ## Engines: copies and blocks (R222 to R255) -/

/-- What the checks of an instruction read, where none of them fails; they change nothing. -/
def State.reads {α : Type} (s : State) (m : M α) : Option α :=
  match m s with
  | .ok x _ => some x
  | .error _ _ => none

/-- The copy that a record describes (R246). -/
def copyRecord (by_ : Issuer) (epoch : Word) (r : Nat) : Copy :=
  { handle := 0
    by_ := by_
    epoch := epoch
    src := word (field r 0 0 64)
    dst := word (field r 8 0 64)
    bytes := field r 16 0 64
    rows := field r 48 0 32
    stride := field r 52 0 32
    strDst := decide (field r 24 16 1 = 1)
    chunkLog := field r 24 0 8
    mask := BitVec.ofNat 3 (field r 24 8 8)
    intr := decide (field r 24 17 1 = 1)
    cword := word (field r 32 0 64)
    cval := word (field r 40 0 64)
    state := .running
    status := 0
    srcMap := []
    dstMap := []
    done := []
    failed := [] }

/-- The bytes a record moves, and its chunks (R247). -/
def copyTotal (r : Nat) : Nat := max 1 (field r 48 0 32) * field r 16 0 64
def copyChunks (r : Nat) : Nat := (copyTotal r + 2 ^ field r 24 0 8 - 1) / 2 ^ field r 24 0 8

/-- The limits of a copy record (R246, R247). -/
def CopyRecordOk (r : Nat) : Prop :=
  field r 16 0 64 ≤ 2 ^ 40 ∧ 8 ≤ field r 24 0 8 ∧ field r 24 0 8 ≤ 16 ∧ field r 24 18 46 = 0 ∧ field r 32 0 64 ≠ 0 ∧
  field r 32 0 64 % 8 = 0 ∧ field r 40 62 2 = 0 ∧ (field r 48 0 32 ≤ 1 ∨ field r 16 0 64 ≤ field r 52 0 32) ∧ field r 56 0 64 = 0 ∧
  copyTotal r ≤ 2 ^ 40 ∧ (field r 24 8 8 = 0 ∨ copyChunks r ≤ 1024)

/-- Two ranges of bytes share one. -/
def meets (a n b m : Nat) : Prop := 0 < n ∧ 0 < m ∧ a < b + m ∧ b < a + n

/-- The source, the destination and the completion word of a record share bytes (R248). -/
def CopyOverlaps (r : Nat) : Prop :=
  let strided := if copyTotal r = 0 then 0 else (max 1 (field r 48 0 32) - 1) * field r 52 0 32 + field r 16 0 64
  let n := if field r 24 16 1 = 1 then copyTotal r else strided
  let m := if field r 24 16 1 = 1 then strided else copyTotal r
  meets (field r 0 0 64) n (field r 8 0 64) m ∨ meets (field r 32 0 64) 8 (field r 0 0 64) n ∨
  meets (field r 32 0 64) 8 (field r 8 0 64) m

/-- The bytes that a copy has finished (R255). -/
def Copy.bytesDone (c : Copy) : Nat := (c.done.map (fun e => min (c.total - e * 2 ^ c.chunkLog) (2 ^ c.chunkLog))).sum

def copyStateCode : CopyState → Word
  | .running => 0
  | .complete => 1
  | .faulted => 2
  | .cancelled => 3

/-- A block command is free to go on: its engine is ready, the pool is valid, and no reclamation is under way (R223, R240). -/
structure PoolReady (s : State) : Prop where
  engine : EngineReady s .blk
  valid : poolValid s.part = true
  clear : s.part.reclaim = none

/-- An id names an allocated block with its metadata (R231). -/
def IsBlock (s : State) (id : Word) (m : Meta) : Prop := id.toNat < poolBlocks s.part ∧ m = metaOf s id.toNat ∧ m.st ≠ 0

/-- The metadata of an id cannot be read: the block engine raises UNCOR at it (the model's reading, log entry 54). -/
def UnreadMeta (s : State) (id : Word) : Prop := id.toNat < poolBlocks s.part ∧ metaDamaged s id.toNat = true

/-- The metadata of an id, or a table that its translation needs, lies on another device and has not come (R333). -/
def AbsentMeta (s : State) (id : Word) (key n : Nat) : Prop :=
  id.toNat < poolBlocks s.part ∧ metaMissing s id.toNat = some (key, n)

/-- The hart waits with its command in the queue of an engine that does not accept it yet (R7). -/
def State.queuedUp (s : State) (e : EngineKind) (w : Wait) : State :=
  { s with
    hart := { s.hart with
      status := .waiting w
      pages := []
      stale := false
      queued := s.hart.queued ++ [e] } }

/-- A block with one reference fewer: the last one retires it with the epoch as its stamp (R233). -/
def Meta.released (m : Meta) (epoch : Word) : Meta :=
  if m.count = 1 then
    { m with
      count := 0
      ret := true
      stamp := epoch.toNat }
  else { m with count := m.count - 1 }

/-- The partition with one thing changed. -/
def State.withPart (s : State) (p : Partition) : State := { s with part := p }

/-- The issuing hart holds back until its command's work is done. -/
def State.holding (s : State) (h : Hold) : State :=
  { s with
    hart := { s.hart with hold := some h } }

/-- The form of VXLAT and VXLATF for their checks: pred is the predicate, and the mask receives the block faults (R227, R228). -/
def xlatForm (s : State) (o : VVX) (mask : Option MReg) : VectorForm :=
  let base := shapeForm s 4 (fun ew => decide (ew = 0x06 ∨ ew = 0x07)) [(o.a, s.q), (o.b, s.q)] (fun _ st => st)
  { base with
    formats := base.formats ∧ rowsOf s.hart.live.shape = 1
    mask := mask }

/-! ## The span index engine (R268 to R292) -/

/-- The object that a handle names for the issuing hart's domain (R269, R273). -/
def State.readableObject (s : State) (h : Word) : Option IxObj :=
  s.part.objects.find? (fun x => decide (x.handle.setWidth 64 = h) && x.readable s.hart.domain)

/-- No stored sequence of some objects waits for bytes of another device (R333). -/
def State.HasStorage (s : State) (xs : List IxObj) : Prop := xs.findSome? (missingStorage s) = none

/-- The cursor that a handle names for the issuing hart's domain (R273). -/
def State.cursorNamed (s : State) (h : Word) : Option Cursor :=
  s.part.cursors.find? (fun c => decide (c.handle.setWidth 64 = h) && c.domain == s.hart.domain)

/-- The token words at an address, each below 2^24 (R273, R274). -/
def State.TokensAt (s : State) (a : Word) (ts : List Slot) : Prop :=
  a.toNat % 4 = 0 ∧ (∃ v, s.recordAt a (4 * ts.length) = some v ∧
    ∀ i (h : i < ts.length), ts[i].toNat = field v (4 * i) 0 32) ∧ ∀ t ∈ ts, t.toNat < 2 ^ 24

/-- The token run at an address (R274). -/
def State.RunAt (s : State) (a : Word) (ts : List Slot) : Prop :=
  a.toNat % 16 = 0 ∧ ∃ r, s.recordAt a 16 = some r ∧ field r 8 0 64 = ts.length ∧ ts.length ≤ 2 ^ 20 ∧
    s.TokensAt (word (field r 0 0 64)) ts

/-- An object with tokens after its sequence; the bytes of its storage are the engine's own (R271). -/
def IxObj.appended (x : IxObj) (ts : List Slot) : IxObj := { x with tokens := x.tokens ++ ts }

/-- A cursor with nothing fed (R282). -/
def Cursor.new (h d : Slot) (linked : Option Slot) : Cursor :=
  { handle := h
    domain := d
    w := []
    slots := Vector.replicate 4 none
    linked := linked
    proposal := none
    mark := none
    accDrafts := 0
    acceptances := 0
    proposed := 0
    proposals := 0
    committed := 0 }

/-- An occurrence of the last l tokens of W in S that ends at position i, with a token after it (R284). -/
def EndsAt (w s : List Slot) (l i : Nat) : Prop :=
  l ≤ w.length ∧ l ≤ 65535 ∧ l ≤ i ∧ i < s.length ∧ (s.take i).drop (i - l) = w.drop (w.length - l)

/-- The match length of W against S: the greatest length that occurs, 0 where none does (R284). -/
def IsMatch (w s : List Slot) (l : Nat) : Prop :=
  (l = 0 ∨ ∃ i, EndsAt w s l i) ∧ ∀ m i, EndsAt w s m i → m ≤ l

/-- The greatest match length among the readable slots of a cursor, 0 where it has none (R285). -/
def IsBestMatch (s : State) (c : Cursor) (l : Nat) : Prop :=
  (l = 0 ∨ ∃ i x, i < 4 ∧ c.useSlot s i = some x ∧ IsMatch c.w x.tokens l) ∧
  ∀ i x m, i < 4 → c.useSlot s i = some x → IsMatch c.w x.tokens m → m ≤ l

/-- One candidate of a proposal: match length, slot and end position (R286). -/
structure Candidate where
  len : Nat
  slot : Nat
  pos : Nat

/-- What the candidates of a cursor are (R286). -/
def Candidate.Of (s : State) (c : Cursor) (lmin : Nat) (x : Candidate) (o : IxObj) : Prop :=
  x.slot < 4 ∧ c.useSlot s x.slot = some o ∧ lmin ≤ x.len ∧ EndsAt c.w o.tokens x.len x.pos

/-- The order of the candidates: length descending, slot ascending, end position descending (R286). -/
def Candidate.Before (a b : Candidate) : Prop :=
  b.len < a.len ∨ (a.len = b.len ∧ (a.slot < b.slot ∨ (a.slot = b.slot ∧ b.pos < a.pos)))

/-- The chains of a proposal, each kept for its candidate: the chains begin with distinct tokens, each candidate is the first of its
next token, they stand in the order, and every next token before the last is kept, up to k (R286). -/
structure Proposes (s : State) (c : Cursor) (lmin k d : Nat) (cs : List Chain) (of : List Candidate) : Prop where
  one : of.length = cs.length ∧ cs.length ≤ k
  each : ∀ h (hc : h < cs.length) (ho : h < of.length), ∃ o, Candidate.Of s c lmin of[h] o ∧
    cs[h] = ⟨(o.tokens.drop of[h].pos).take d, of[h].slot, of[h].len⟩
  order : of.Pairwise Candidate.Before
  distinct : cs.Pairwise (fun a b => a.tokens.head? ≠ b.tokens.head?)
  first : ∀ x o, Candidate.Of s c lmin x o →
    (∃ h, ∃ hc : h < cs.length, ∃ ho : h < of.length, cs[h].tokens.head? = o.tokens[x.pos]? ∧
      (of[h] = x ∨ Candidate.Before of[h] x)) ∨
    (cs.length = k ∧ ∀ y ∈ of, Candidate.Before y x)

/-- The agreement of a chain with the model's tokens is the greatest prefix they share (R288). -/
def Agrees (y : List Slot) (cs : List Chain) (h a : Nat) : Prop :=
  let d := ((cs[h]?.map Chain.tokens).getD [])
  a ≤ d.length ∧ d.take a = (y.drop (65 * h)).take a ∧ ∀ b, b ≤ d.length → d.take b = (y.drop (65 * h)).take b → b ≤ a

/-- The chain accepted is the least of those that agree longest (R288). -/
def Accepts (y : List Slot) (cs : List Chain) (h a : Nat) : Prop :=
  h < max cs.length 1 ∧ Agrees y cs h a ∧
  (∀ g b, g < max cs.length 1 → Agrees y cs g b → b ≤ a) ∧ ∀ g, g < h → ¬ Agrees y cs g a

/-! ## The frontier engine and the gang switch (R297 to R353) -/

/-- Component k of dependence vector j of a launch record (R297, R298). -/
def depOf (r j k : Nat) : Int :=
  let v := field r (32 + 3 * j + k) 0 8
  if v < 128 then v else (v : Int) - 256

/-- The rows of the space of a launch record (R297). -/
def launchRows (r : Nat) : Nat :=
  if field r 0 0 8 = 1 then 1 else if field r 0 0 8 = 2 then field r 16 0 64 else field r 16 0 64 * field r 24 0 64

def launchTasks (r : Nat) : Nat := field r 0 24 4 + 1

/-- The limits of a launch record (R297). -/
def LaunchFields (r ceiling : Nat) : Prop :=
  let dims := field r 0 0 8
  let ext := fun k => field r (8 + 8 * k) 0 64
  let area := field r 64 0 64
  let word := field r 72 0 64
  1 ≤ dims ∧ dims ≤ 3 ∧ field r 0 8 8 ≤ 4 ∧ field r 0 16 8 ≤ 3 ∧ field r 0 29 3 = 0 ∧
  leaseFits (field r 0 32 16) (field r 0 48 16) (field r 0 16 8) ceiling ∧
  (∀ k, k < 3 → (k < dims → 1 ≤ ext k ∧ ext k < 2 ^ 21) ∧ (dims ≤ k → ext k = 0)) ∧ launchRows r ≤ 4096 ∧
  field r 44 0 32 = 0 ∧ field r 96 0 256 = 0 ∧ field r 48 0 1 = 0 ∧ field r 64 0 6 = 0 ∧ word ≠ 0 ∧ word % 8 = 0 ∧ field r 80 62 2 = 0 ∧
  ¬ (area < word + 8 ∧ word < area + (320 + 16 * launchRows r))

/-- The limits of the dependence vectors (R298). -/
def LaunchDeps (r : Nat) : Prop :=
  (∀ j, j < field r 0 8 8 → (∀ k, k < 3 → -8 ≤ depOf r j k ∧ depOf r j k ≤ 8 ∧ (field r 0 0 8 ≤ k → depOf r j k = 0)) ∧
    ∃ k, k < 3 ∧ 0 < depOf r j k ∧ ∀ m, k < m → m < 3 → depOf r j m = 0) ∧
  ∀ j, field r 0 8 8 ≤ j → j < 4 → ∀ k, k < 3 → depOf r j k = 0

/-- The launch that a record describes (R297, R310): every tread and every window is 0. -/
def launchOf (r : Nat) (h : Slot) (by_ : Issuer) (pages : List (Nat × Nat)) (cword : Loc) (ids : List Nat) : Launch :=
  { handle := h
    by_ := by_
    dims := field r 0 0 8
    deps := (List.range (field r 0 8 8)).map (fun j => (depOf r j 0, depOf r j 1, depOf r j 2))
    ext := (field r 8 0 64, field r 16 0 64, field r 24 0 64)
    prio := field r 0 16 8
    intr := decide (field r 0 28 1 = 1)
    saveVa := word (field r 64 0 64)
    savePages := pages
    cwordKey := cword.key
    cwordHs := cword.hs
    cwordVa := word (field r 72 0 64)
    cval := word (field r 80 0 64)
    state := .running
    rows := List.replicate (launchRows r) (0, 0)
    tasks := ids.map (fun i => ⟨i, none, false⟩)
    waiting := []
    saveBy := 0
    failed := false
    wordWritten := false }

/-- The task harts of a launch record: each a detached gang of one in user mode (R304). -/
def taskOf (r : Nat) (h : Slot) : SpawnRec :=
  { pc := word (field r 48 0 64)
    arg0 := word (field r 56 0 64)
    arg1 := h.setWidth 64
    stack := 0
    lease := ⟨field r 0 32 16, field r 0 48 16, field r 0 16 8⟩
    size := 1
    spread := false
    detached := true
    super := false
    gang := 0
    hallIdx := 0xFFFF
    budget := word (field r 88 0 64)
    exitVa := 0
    reserved := false }

/-- The live launch that a handle names (R306). -/
def State.launchNamed (s : State) (h : Word) : Option Launch := s.part.launches.find? (fun l => decide (l.handle.setWidth 64 = h))

/-- The live task that the issuing hart is (R309). -/
def State.taskNamed (s : State) (l : Launch) : Option Task := l.tasks.find? (fun t => decide (t.hart = s.hart.id) && !t.ended)

/-- One point comes before another in row-major order (R300). -/
def Point.Before (l : Launch) (q p : Point) : Prop := l.rowOf q < l.rowOf p ∨ (l.rowOf q = l.rowOf p ∧ q.p0 < p.p0)

/-- A point lies in the space of a launch (R299). -/
def Point.In (l : Launch) (p : Point) : Prop := p.p0 < l.e0 ∧ p.p1 < l.e1 ∧ p.p2 < l.e2

/-- A point of a launch is done: before its tread, or with its window bit (R301). -/
def PointDone (l : Launch) (p : Point) : Prop :=
  let e := l.rows.getD (p.p1 + l.e1 * p.p2) (0, 0)
  p.p0 < e.1 ∨ (e.1 ≤ p.p0 ∧ p.p0 < e.1 + 64 ∧ e.2.getLsbD (p.p0 - e.1) = true)

/-- A point has been handed out and not finished. -/
def PointHeld (l : Launch) (p : Point) : Prop := ∃ t ∈ l.tasks, t.held = some p.pack

/-- A point is ready (R302). -/
def PointReady (l : Launch) (p : Point) : Prop :=
  ¬ PointDone l p ∧ ¬ PointHeld l p ∧ p.p0 < (l.rows.getD (p.p1 + l.e1 * p.p2) (0, 0)).1 + 64 ∧
  ∀ d ∈ l.deps, ∀ q : Point, Point.In l q → (q.p0 : Int) = p.p0 - d.1 → (q.p1 : Int) = p.p1 - d.2.1 → (q.p2 : Int) = p.p2 - d.2.2 →
    PointDone l q

/-- The partition with one launch changed. -/
def State.withLaunch (s : State) (l : Launch) : State :=
  { s with
    part := { s.part with launches := s.part.launches.map (fun k => if k.handle = l.handle then l else k) } }

/-- A save area as FRESUME admits it for a launch, whose table it then holds (R316, R318). k is the launch with that table. -/
structure AreaOk (l : Launch) (bs : List Byte) (k : Launch) : Prop where
  table : k = { l with
    rows := (List.range l.rows.length).map (fun i =>
      let e := leNat ((bs.drop (320 + 16 * i)).take 16)
      (field e 0 0 32, word (field e 8 0 64)))
    state := if l.failed then .cancelling else .running }
  names : let n := leNat (bs.take 320)
    field n 0 0 32 = 1 ∧ field n 4 0 8 = l.tasks.length ∧ field n 8 0 32 = l.handle.toNat ∧ field n 16 0 32 = l.rows.length ∧
      field n 20 0 8 = l.dims ∧ field n 24 0 64 = (word k.doneCount).toNat
  zeros : let n := leNat (bs.take 320)
    field n 7 0 8 = 0 ∧ field n 12 0 32 = 0 ∧ field n 21 0 24 = 0 ∧ field n 32 0 256 = 0 ∧
      ∀ i, i < l.rows.length → leNat ((bs.drop (324 + 16 * i)).take 4) = 0
  tasks : (bs.drop 64).take 256 = taskBytes l
  normal : ∀ r ∈ k.rows, r.1 ≤ l.e0 ∧ (r.1 = l.e0 ∨ r.2.getLsbD 0 = false) ∧ ∀ i, i < 64 → l.e0 ≤ r.1 + i → r.2.getLsbD i = false
  held : ∀ t ∈ l.tasks, ∀ v p, t.held = some v → l.unpack v = some p → ¬ PointDone k p

/-- A switch record (R345) that passes the checks of R346, up to the state of its job. -/
def SwitchRecordOk (s : State) (r : Nat) : Prop :=
  field r 0 0 16 ≠ 0 ∧ BitVec.ofNat 16 (field r 0 0 16) ∈ s.part.cfg.ctrlTags ∧ field r 0 17 47 = 0 ∧ field r 16 62 2 = 0 ∧ field r 24 0 64 = 0

/-- The command of a switch record taken by its job: this device is the job's home from then on (R345, R348). -/
def Job.taken (s : State) (va : Word) (r : Nat) : Job :=
  let tag : BitVec 16 := BitVec.ofNat 16 (field r 0 0 16)
  { s.job tag with
    home := s.dev.node
    recVa := va
    ctrl := s.part.cfg.pid
    by_ := s.issuer .fab (s.hart.ordinal .fab)
    intr := decide (field r 0 16 1 = 1)
    cword := word (field r 8 0 64)
    cval := word (field r 16 0 64) }

/-! ## Events -/

/-- The events that concern one hart. -/
noncomputable def hartEventsOf (r : HartRef) : List Instr :=
  [.setvlGrantWaitEnd r, .forcedShrink r, .preemption r, .watchdogExpiry r, .residencyEviction r, .engineQueueAdmit r, .waitaWake r,
    .waitTimeout r, .haltResume r, .haltTimeout r, .tlbinvComplete r, .curattResult r, .bcowCopyDone r, .ixdropStorageReleased r,
    .curpropOutputWritten r]

/-- The open strip of a hart holds nothing yet (R211). -/
def Hart.AtCommit (h : Hart) : Prop := h.live = h.ckpt ∧ h.mortar = [] ∧ h.pending = 0

/-- A hart past rolling back: it awaits the response of an atomic in another device's memory (R333), or it ends, or it is no more. -/
def Hart.InFlight (h : Hart) : Prop :=
  (∃ k n rd, h.status = .waiting (.atomic k n rd)) ∨ (∃ v, h.status = .waiting (.ending v)) ∨ h.isLive = false

/-- A hart is to make way in its hall (R101): it is resident with target 0, every other resident hart there outranks it, and one
that waits for a slot with a target above 0 outranks it. -/
def MakesWay (s : State) (h : Hart) : Prop :=
  let other := fun (g : Hart) => g ∈ s.allHarts ∧ g.hall = h.hall ∧ g.isLive = true ∧ ¬ (g.pid = h.pid ∧ g.id = h.id)
  h.slot ≠ none ∧ h.share s = 0 ∧ (∀ g, other g → g.slot = none ∨ outranks s g h = true) ∧
  ∃ g, other g ∧ g.status = .off .slot ∧ 0 < g.share s ∧ outranks s g h = true

/-- A hart as an arbiter may leave it: its place, its bricks and its run state may change, and with its bricks its geometry and the
re-layout that is due. Its registers, its program counter and everything else are as they were (R21, R99 to R102, R213). -/
def Hart.Rearranged (g h : Hart) : Prop :=
  h = { g with
    status := h.status
    slot := h.slot
    grant := h.grant
    bricks := h.bricks
    dies := h.dies
    lmod := h.lmod
    vlgrant := h.vlgrant
    cut := h.cut }

/-- A hart as it leaves its bricks: its registers and its strip are as they were, but for the answer of a CURATT that it waits for; what
has come for it, its place in queues and its grant are gone, and a FNEXT in which it waits is withdrawn (R212, R283, R311). -/
def Hart.Leaves (h g : Hart) : Prop :=
  g = { h.answered with
    status := g.status
    slot := g.slot
    accepted := match h.status with
      | .waiting (.fnext _ _) => h.accepted.erase .front
      | _ => h.accepted
    preempt := none
    grant := []
    asked := none
    reply := []
    refused := []
    reading := none
    queued := [] }

/-- A hart with what its command held back released. -/
def State.freed (s : State) (h : Hart) : State := s.modHartOf h.pid h.id (fun g => { g with hold := none })

/-- A copy with one more chunk finished or failed, and what follows: the copy ends with its last chunk (R252, R255). -/
def State.withChunk (s : State) (c : Copy) : State :=
  let u := s.setCopy c
  if c.done.length + c.failed.length < c.chunks then u
  else if c.failed = [] then finishCopy c .complete 0 c.cval u
  else finishCopy c .faulted 0x60 0x8000000000000060 u

/-- A stream of packets expects its next one (R330). -/
def State.expects (s : State) (p : Packet) (n : Word) : State :=
  { s with
    dev := { s.dev with rxSeq := assocSet s.dev.rxSeq (p.job, p.src, p.vc) n } }

/-- The device with one thing changed. -/
def State.withDev (s : State) (d : Device) : State := { s with dev := d }

/-- A slot of a hart's registers, or a column of its tiles, that lies in a logical lane of the i-th brick of its vector state (R108, R201).
A unit is a register, or 32 and more a tile row; where a register has fewer slots than a tile has columns, these start again at its first
slot (the model's choice, log entry 46). -/
def Hart.LiesIn (h : Hart) (i lane u k : Nat) : Prop :=
  let m := h.bricks * h.lmod * 256 / h.nreg
  ((u < h.nreg ∧ k < m) ∨ (32 ≤ u ∧ u < 96 ∧ k < h.bricks * h.lmod * 16)) ∧ k % m / (m / h.bricks) = i ∧ k % m % h.lmod = lane

/-- What an uncorrectable error in a physical lane of a brick does to a hart: nothing where the brick does not hold its vector state, where the
lane is retired or lies beyond its geometry; else one of the slots that lie there is unreadable from then on (R361). -/
structure Struck (s : State) (b : Nat × Nat) (lane : Nat) (h g : Hart) : Prop where
  spared : h.isLive = false ∨ b ∉ placeBricks s h ∨ (s.brickAt b.1 b.2).retired.getLsbD lane = true → g = h
  loses : ∀ i, h.isLive = true → (placeBricks s h)[i]? = some b → (∀ j, j < i → (placeBricks s h)[j]? ≠ some b) →
    (s.brickAt b.1 b.2).retired.getLsbD lane = false →
    let l := ((List.range lane).filter (fun j => !(s.brickAt b.1 b.2).retired.getLsbD j)).length
    ((∀ u k, ¬ h.LiesIn i l u k) → g = h) ∧
    ((∃ u k, h.LiesIn i l u k) → ∃ u k, h.LiesIn i l u k ∧ g = { h with
      live := { h.live with lost := (u, k) :: h.live.lost }
      ckpt := { h.ckpt with lost := (u, k) :: h.ckpt.lost } })

/-- A response of this device to a packet (R333, R334). -/
def State.answersPacket (s : State) (p : Packet) (kind len : Nat) (payload : List Byte) : State :=
  s.sendAs p.job s.dev.node 0 p.src kind 1 p.addr len payload

/-- DEVSTAT with a phase and a failure code (R354). -/
def withPhase (d : Word) (phase fail : Nat) : Word :=
  (d &&& 0x0000FF0000FFFFFE) ||| word (phase * 2 ^ 32 + fail * 2 ^ 24 + (if phase = 2 then 1 else 0))

/-- A device that has failed: no partition, no hart and no job remain, and MR2 is extended where the table held one (R355, R358). -/
def State.failedWith (s : State) (code : Nat) : State :=
  let d := if s.allParts.any (·.configured) then { s.dev with mr := s.dev.mr.set 2 (extendMr s.dev.mr[2] (sha256 [])) } else s.dev
  { s with
    part := Partition.fresh PartCfg.none false
    parts := []
    hart := Hart.absent
    harts := []
    dev := { d with
      devstat := withPhase (s.dev.devstat &&& ~~~(8 : Word)) 4 code
      jobs := []
      contexts := [] } }

/-- A measurement register extended by a digest (R358). -/
def State.extended (s : State) (i : Fin 4) (d : List Byte) : State :=
  s.withDev { s.dev with mr := s.dev.mr.set i (extendMr s.dev.mr[i] d) }

/-! ## Translation (R155 to R162, R332) -/

/-- The bits of an address below the page of a leaf at a level: 1 TiB, 256 MiB or 64 KiB (R155). -/
def leafBits (level : Nat) : Nat := if level = 0 then 40 else if level = 1 then 28 else 16

/-- The address of the entry that a table at t holds for an address: twelve of its bits pick it (R155, R157). -/
def entryAt (level t a : Nat) : Nat := t + 8 * (a / 2 ^ leafBits level % 2 ^ 12)

/-- The table that a root or a pointer names. -/
def tableOf (w : Word) : Nat := w.toNat / 2 ^ 15 % 2 ^ 33 * 2 ^ 15

/-- An entry is valid, with its reserved bits 0 (R156). -/
def ValidEntry (e : Word) : Prop := e.getLsbD 0 = true ∧ e.toNat / 2 ^ 48 = 0 ∧ e.toNat / 2 ^ 11 % 2 ^ 4 = 0

/-- An entry is a leaf of a level: it gives a permission, W only with R, and its address is a multiple of the page size (R156, R157). -/
def LeafEntry (level : Nat) (e : Word) : Prop :=
  ValidEntry e ∧ (e.getLsbD 1 = true ∨ e.getLsbD 2 = true ∨ e.getLsbD 3 = true) ∧ e.getLsbD 15 = false ∧
  (e.getLsbD 2 = true → e.getLsbD 1 = true) ∧ e.toNat / 2 ^ 16 % 2 ^ 32 * 2 ^ 16 % 2 ^ leafBits level = 0

/-- An entry points to a table of the next level: it gives no permission, and bits 10:4 are 0 (R156, R157). -/
def PointerEntry (level : Nat) (e : Word) : Prop :=
  ValidEntry e ∧ e.getLsbD 1 = false ∧ e.getLsbD 2 = false ∧ e.getLsbD 3 = false ∧ e.toNat / 2 ^ 4 % 2 ^ 7 = 0 ∧ level < 2

/-- An entry of a partition's tables can be read: in memory, or as the bytes that have come from another device (R157, R332, R333). key is
the key it lies at. -/
def EntryIs (s : State) (p : PartId) (pa key : Nat) (e : Word) : Prop :=
  (pa.testBit 47 = false ∧ pa < s.part.cfg.memSize ∧ s.damagedAt (physKey p pa) 8 = false ∧ key = physKey p pa ∧ e = s.peekWord key) ∨
  (pa.testBit 47 = true ∧ ∃ w, windowOf s.part.cfg pa = some w ∧ w.r = true ∧ key = remoteKey s.part.cfg w pa ∧
    s.hart.refused.contains key = false ∧ ∃ bs, s.hart.replied key 8 = some bs ∧ e = word (leNat bs))

/-- The tables that the walk of an address comes to, by level, from a root (R157). -/
inductive Reaches (s : State) (p : PartId) (root : Word) (a : Nat) : Nat → Nat → Prop where
  | root : Reaches s p root a 0 (tableOf root)
  | next {level t key : Nat} {e : Word} : Reaches s p root a level t → EntryIs s p (entryAt level t a) key e → PointerEntry level e →
    Reaches s p root a (level + 1) (tableOf e)

/-- What a walk answers at the last table that it comes to: the leaf, or why there is none (R157, R332, R334, R361). -/
structure WalkEnds (s : State) (p : PartId) (root : Word) (a : Nat) : Prop where
  leaf : ∀ level t, Reaches s p root a level t → ∀ key e, EntryIs s p (entryAt level t a) key e →
    (LeafEntry level e → walk s p root a = .ok ⟨level, key, e⟩) ∧
    (¬ LeafEntry level e → ¬ PointerEntry level e → walk s p root a = .error (.cause .page))
  here : ∀ level t, Reaches s p root a level t → let pa := entryAt level t a
    pa.testBit 47 = false → (s.part.cfg.memSize ≤ pa → walk s p root a = .error (.stop (.beyondMemory pa))) ∧
      (pa < s.part.cfg.memSize → s.damagedAt (physKey p pa) 8 = true → walk s p root a = .error (.cause .uncor))
  away : ∀ level t, Reaches s p root a level t → let pa := entryAt level t a
    pa.testBit 47 = true → (windowOf s.part.cfg pa = none → walk s p root a = .error (.cause .page)) ∧
      ∀ w, windowOf s.part.cfg pa = some w → let k := remoteKey s.part.cfg w pa
        (w.r = false → walk s p root a = .error (.cause .prot)) ∧
        (w.r = true → s.hart.refused.contains k = true → walk s p root a = .error (.cause .uncor)) ∧
        (w.r = true → s.hart.refused.contains k = false → s.hart.replied k 8 = none → walk s p root a = .error (.remote k 8))

/-- What a leaf permits (R158): its R, W and X bits, U pages to user mode, every page but for fetches from U pages to the supervisor; an
atomic needs both R and W (R123). -/
def Permitted (e : Word) (mode : Mode) (k : Kind) : Prop :=
  let u := e.getLsbD 4 = true
  let reached := u ∨ mode = .supervisor
  match k with
  | .load => e.getLsbD 1 = true ∧ reached
  | .store => e.getLsbD 2 = true ∧ reached
  | .atomic => e.getLsbD 1 = true ∧ e.getLsbD 2 = true ∧ reached
  | .fetch => e.getLsbD 3 = true ∧ (u ↔ mode = .user)

/-- An access writes. -/
def Kind.writes (k : Kind) : Prop := k = .store ∨ k = .atomic

/-- What a leaf gives for an address (R156 to R158, R332, R336): its place, or the failure. That page 0 of another device fails here is the
model's choice (log entry 23). -/
structure LeafGives (s : State) (mode : Mode) (k : Kind) (a : Nat) (l : Leaf) : Prop where
  prot : ¬ Permitted l.ent mode k → resolve s mode k a l = .error (.cause .prot)
  here : Permitted l.ent mode k → let pa := l.ent.toNat / 2 ^ 16 % 2 ^ 32 * 2 ^ 16 + a % 2 ^ leafBits l.level
    pa.testBit 47 = false →
      (pa < 2 ^ 16 → k.writes → resolve s mode k a l = .error (.cause .prot)) ∧
      (¬ (pa < 2 ^ 16 ∧ k.writes) → pa < s.part.cfg.memSize → resolve s mode k a l = .ok ⟨physKey s.part.cfg.pid pa, some l⟩) ∧
      (¬ (pa < 2 ^ 16 ∧ k.writes) → s.part.cfg.memSize ≤ pa → resolve s mode k a l = .error (.stop (.beyondMemory pa)))
  away : Permitted l.ent mode k → let pa := l.ent.toNat / 2 ^ 16 % 2 ^ 32 * 2 ^ 16 + a % 2 ^ leafBits l.level
    pa.testBit 47 = true →
      (windowOf s.part.cfg pa = none → resolve s mode k a l = .error (.cause .page)) ∧
      ∀ w, windowOf s.part.cfg pa = some w →
        let allowed := (k = .store ∨ w.r = true) ∧ (k.writes → w.w = true ∧ 2 ^ 16 ≤ (w.base + word (pa % 2 ^ 36)).toNat)
        (allowed → resolve s mode k a l = .ok ⟨remoteKey s.part.cfg w pa, some l⟩) ∧
        (¬ allowed → resolve s mode k a l = .error (.cause .prot))

/-- The translation of an access of the issuing hart (R157 to R162): the scratchpad window, the cached leaf, or the leaf of the walk, which
is then cached with its A bit set by a load or a fetch. -/
structure Translates (s : State) (k : Kind) (a : Word) : Prop where
  above : Config.padEnd ≤ a.toNat → xlate k a s = (s, .error (.cause .page))
  window : Config.padBase ≤ a.toNat → a.toNat < Config.padEnd → let off := a.toNat - Config.padBase
    xlate k a s = (s, if off < Config.padSize then .ok ⟨padKey s.hart.hall off, none⟩ else .error (.cause .page))
  cached : a.toNat < Config.padBase → ∀ l, tlbFind s s.hart.hall s.hart.pid s.hart.ptroot a.toNat = some l →
    ∃ t, xlate k a s = (t, resolve s s.hart.mode k a.toNat l) ∧ t = { s with
      hart := { s.hart with pages := t.hart.pages } }
  walked : a.toNat < Config.padBase → tlbFind s s.hart.hall s.hart.pid s.hart.ptroot a.toNat = none →
    (∀ e, walk s s.hart.pid s.hart.ptroot a.toNat = .error e → xlate k a s = (s, .error e)) ∧
    ∀ l, walk s s.hart.pid s.hart.ptroot a.toNat = .ok l →
      (∀ e, resolve s s.hart.mode k a.toNat l = .error e → xlate k a s = (s, .error e)) ∧
      ∀ loc, resolve s s.hart.mode k a.toNat l = .ok loc → ∃ t, xlate k a s = (t, .ok loc) ∧ AccessOnly s t (some l) ∧
        (isRemote l.key = false → s.damagedAt l.key 8 = false → k = .load ∨ k = .fetch → l.ent.getLsbD 6 = false →
          t.mem = (s.pokeWord l.key (s.peekWord l.key ||| 0x40)).mem) ∧
        (k.writes ∨ l.ent.getLsbD 6 = true → t.mem = s.mem)

/-! ## The lane arbiter (R96) and the re-layout of a grant (R102) -/

/-- The order of the candidates of a hall: priority, then age, then gang id (R96). -/
def Cand.Outranks (a b : Cand) : Prop :=
  b.prio < a.prio ∨ (a.prio = b.prio ∧ (a.age < b.age ∨ (a.age = b.age ∧ a.gang ≤ b.gang)))

/-- A candidate of a hall: a gang with members that take part, in its own hall, or in a partner hall where it is spread (R96, R103). -/
def Cand.Of (s : State) (hall : Nat) (c : Cand) : Prop :=
  ∃ p ∈ s.allParts, ∃ g ∈ p.gangs, membersOf s p.cfg.pid g.age ≠ [] ∧
    (g.hall = hall ∨ ((∃ h ∈ membersOf s p.cfg.pid g.age, h.spread = true) ∧ hall ∈ partnersOf p.cfg g.hall)) ∧
    c = ⟨p.cfg.pid, g.id, g.size, g.min, g.pref, g.prio, g.age⟩

/-- The targets of R96 from n bricks: each candidate in its order first has its minimum where it is left, and then what is left of its
preferred number, in whole bricks for each member. base and extra are what the two passes give. -/
structure TwoPasses (n : Nat) (ts : List (Cand × Nat)) (base extra : List Nat) : Prop where
  lengths : base.length = ts.length ∧ extra.length = ts.length
  minimum : ∀ i c t, ts[i]? = some (c, t) →
    base.getD i 0 = if c.u * c.min ≤ n - (base.take i).sum then c.u * c.min else 0
  preferred : ∀ i c t, ts[i]? = some (c, t) → extra.getD i 0 =
    if base.getD i 0 = 0 then 0 else min (c.u * c.pref - base.getD i 0) (n - base.sum - (extra.take i).sum) / c.u * c.u
  target : ∀ i c t, ts[i]? = some (c, t) → t = base.getD i 0 + extra.getD i 0
  within : base.sum + extra.sum ≤ n

/-- What the arbiter of a hall gives (R96): the candidates in their order, their targets by the two passes from the bricks that are offered
and not retired, and to each member of a gang its part. -/
structure Arbitrates (s : State) (hall : Nat) : Prop where
  order : (targets s hall).Pairwise (fun a b => a.1.Outranks b.1)
  candidates : ∀ c, (∃ t, (c, t) ∈ targets s hall) ↔ c.Of s hall
  passes : ∃ base extra, TwoPasses ((List.range (offered s)).filter (fun b => s.usable (hall, b))).length (targets s hall) base extra
  share : ∀ c t, (c, t) ∈ targets s hall → (∀ x ∈ targets s hall, x.1.pid = c.pid → x.1.age = c.age → x = (c, t)) →
    shareOf s hall c.pid c.age = t / c.u
  absent : ∀ p age, (∀ x ∈ targets s hall, ¬ (x.1.pid = p ∧ x.1.age = age)) → shareOf s hall p age = 0

/-- A strip of nreg registers on n lanes: slots, mask bits and tile columns within them are kept, and what lies beyond reads zero (R102). -/
structure CutTo (n nreg : Nat) (a b : Strip) : Prop where
  frame : b = { a with
    v := b.v
    m := b.m
    t := b.t
    lost := a.lost.filter (fun u => decide (u.2 < if u.1 < 32 then n * 256 / nreg else n * 16)) }
  slots : ∀ r i, r < 32 → b.slotOf r i = if i < n * 256 / nreg then a.slotOf r i else 0
  masks : ∀ j e, j < 8 → b.maskBit j e = (decide (e < n * 1024) && a.maskBit j e)
  tiles : ∀ t r c, t < 4 → r < 16 → b.tile t r c = if c < n * 16 then a.tile t r c else 0

/-- The re-layout that a change of the grant leaves due is carried out when the state is next in place: the strip and its checkpoint are
cut to the least number of lanes that the hart has held since (R102, R213; the model's reading, log entry 51). -/
structure Hart.PlacedBy (h g : Hart) : Prop where
  kept : h.cut = none → g = h
  due : ∀ n, h.cut = some n → CutTo n h.nreg h.live g.live ∧ CutTo n h.nreg h.ckpt g.ckpt ∧ g = { h with
    live := g.live
    ckpt := g.ckpt
    cut := none }

/-! ## What engines read, write and move (R225 to R237, R362) -/

/-- Steps of one kind, one for each entry of a list, in its order. -/
inductive Steps {α : Type} (r : α → State → State → Prop) : List α → State → State → Prop where
  | nil (s : State) : Steps r [] s s
  | cons {x : α} {xs : List α} {s t u : State} : r x s t → Steps r xs t u → Steps r (x :: xs) s u

/-- An engine reads a piece of memory here through page tables: its bytes as they stand (R362). -/
def EngineReads (b : Issuer) (s : State) (p : Nat × Nat) (bs : List Byte) : Prop :=
  ∃ loc, engineXlate s b .load (word p.1) = .ok loc ∧ isRemote loc.key = false ∧ s.damagedAt loc.key p.2 = false ∧
    bs = s.mem.read loc.key p.2

/-- An engine writes a piece of memory here through page tables. -/
def EngineWrites (b : Issuer) (p : Nat × List Byte) (s t : State) : Prop :=
  ∃ loc, engineXlate s b .store (word p.1) = .ok loc ∧ isRemote loc.key = false ∧ t = s.poke loc.key p.2

/-- Bytes cut into the pieces of a range. -/
def cutAt : List (Nat × Nat) → List Byte → List (Nat × List Byte)
  | [], _ => []
  | (a, n) :: rest, bs => (a, bs.take n) :: cutAt rest (bs.drop n)

/-- An engine reads pieces one after the other. -/
inductive EngineReadsAll (b : Issuer) (s : State) : List (Nat × Nat) → List Byte → Prop where
  | nil : EngineReadsAll b s [] []
  | cons {p : Nat × Nat} {rest : List (Nat × Nat)} {bs more : List Byte} : EngineReads b s p bs → EngineReadsAll b s rest more →
    EngineReadsAll b s (p :: rest) (bs ++ more)

/-- An engine reads a range, page by page, and writes one. -/
def EngineLoads (b : Issuer) (a n : Nat) (s : State) (bs : List Byte) : Prop := EngineReadsAll b s (spanOf a n) bs

def EngineSaves (b : Issuer) (a : Nat) (bs : List Byte) (s t : State) : Prop :=
  Steps (EngineWrites b) (cutAt (spanOf a bs.length) bs) s t

/-- Sixty-four bytes of one block copied to the same place of another (R234). -/
def CopiesUnit (b : Issuer) (src dst i : Nat) (s t : State) : Prop :=
  let p := s.part
  let at_ := fun id : Nat => p.bpbase.toNat + id * 2 ^ poolLog p + 64 * i
  ∃ bs, EngineLoads b (at_ src) 64 s bs ∧ EngineSaves b (at_ dst) bs s t

/-- A whole block copied to another, through the partition's root (R225, R234). -/
def CopiesBlock (by_ : Issuer) (src dst : Nat) (s t : State) : Prop :=
  Steps (CopiesUnit (poolIssuer s.part by_) src dst) (List.range (2 ^ poolLog s.part / 64)) s t

/-- The metadata entry of an id has come and can be read. -/
def Known (s : State) (id : Nat) (m : Meta) : Prop := id < poolBlocks s.part ∧ metaRead s id = .entry m

/-- The entry of a compaction's table at an index. -/
def TableEntry (c : Compaction) (j : Nat) (s : State) (id : Nat) : Prop :=
  ∃ bs, EngineLoads c.by_ (c.table + word (4 * j)).toNat 4 s bs ∧ id = leNat bs

def SetsTableEntry (c : Compaction) (j id : Nat) (s t : State) : Prop :=
  EngineSaves c.by_ (c.table + word (4 * j)).toNat (leBytes 4 id) s t

/-- The block at a table index is made private: it is already, or it is copied to the lowest FREE block, which the table then names, and has
one reference fewer (R234, R237). d: the block that the table names afterwards. -/
def Privatises (c : Compaction) (j : Nat) (s : State) (d : Nat) (t : State) : Prop :=
  ∃ id m, TableEntry c j s id ∧ Known s id m ∧ m.st = 1 ∧ m.count ≠ 0 ∧
    ((m.count = 1 ∧ d = id ∧ t = s) ∨
      (m.count ≠ 1 ∧ missingMeta s (searched s) = none ∧ badMeta s (searched s) = none ∧ lowestFree s = some d ∧
        ∃ u, CopiesBlock c.by_ id d ((s.setMeta c.by_ d ⟨1, 1, false, 0⟩).setMeta c.by_ id { m with count := m.count - 1 }) u ∧
          SetsTableEntry c j d u t))

/-- Entry k of the accepted chain moved into place (R237): its block is made private, and the slot of its position takes the bytes of the
slot of the chain's position. -/
def MovesEntry (c : Compaction) (k : Nat) (s t : State) : Prop :=
  let p := s.part
  let at_ := fun id pos : Nat => p.bpbase.toNat + id * 2 ^ poolLog p + pos % p.tpb.toNat * p.tokb.toNat
  let dst := c.p0 + k
  let src := c.p0 + c.chain * c.stride + k
  ∃ d u sid m bs, Privatises c (dst / p.tpb.toNat) s d u ∧ TableEntry c (src / p.tpb.toNat) u sid ∧ Known u sid m ∧ m.st = 1 ∧
    EngineLoads (poolIssuer p c.by_) (at_ sid src) p.tokb.toNat u bs ∧ bs.length = p.tokb.toNat ∧
    EngineSaves (poolIssuer p c.by_) (at_ d dst) bs u t

/-- A table index withdrawn: its block loses a reference, as in BFREE, and the table names none there (R237). -/
def WithdrawsEntry (c : Compaction) (j : Nat) (s t : State) : Prop :=
  ∃ id, TableEntry c j s id ∧ ((id = 0xFFFFFFFF ∧ t = s) ∨
    (id ≠ 0xFFFFFFFF ∧ ∃ m, Known s id m ∧ m.st ≠ 0 ∧ m.count ≠ 0 ∧
      SetsTableEntry c j 0xFFFFFFFF (s.setMeta c.by_ id (m.released s.part.epoch)) t))

/-- The whole work of a compaction (R237): chain 0 moves nothing; then every index from the one past the accepted entries up to the last of
the chains is withdrawn. -/
def Compacts (c : Compaction) (s t : State) : Prop :=
  ∃ u, ((c.chain = 0 ∧ u = s) ∨ (c.chain ≠ 0 ∧ Steps (MovesEntry c) (List.range c.accepted) s u)) ∧
    let n := u.part.tpb.toNat
    let up := fun k : Nat => (k + n - 1) / n
    let first := up (c.p0 + c.accepted)
    Steps (WithdrawsEntry c) ((List.range (up (c.p0 + c.chains * c.stride) - first)).map (fun j => j + first)) u t

/-- An element of b bytes is read: its checks pass, and its bytes have come (R151, R333). -/
def ElementGives (b : Nat) (x : Elt) (s : State) (v : Nat) (t : State) : Prop :=
  ∃ loc, loadElems b [x] s = .ok ([(x, loc)], none) t ∧ v = t.elementAt loc b

/-- The address of a position's table entry (R228). -/
def tableEntryVa (s : State) (base : Word) (pos : Nat) : Word := base + word (4 * (pos / s.part.tpb.toNat))

/-- What a position translates to (R228, R229): the address or the offset of its slot in a RESIDENT block, BDAMAGE for a DAMAGED one, PAGE
for any other and for an offset that 32 bits do not hold. -/
def PositionGives (base : Word) (w e pos : Nat) (s : State) (x : Xlat) (t : State) : Prop :=
  let p := s.part
  ∃ u id, ElementGives 4 ⟨0, e, tableEntryVa s base pos⟩ s id u ∧
    ((poolBlocks p ≤ id ∧ x = .fault .page ∧ t = u) ∨
      (id < poolBlocks p ∧ ∃ n, ElementGives 16 ⟨0, e, word (p.bpbase.toNat + poolBlocks p * 2 ^ poolLog p + 16 * id)⟩ u n t ∧
        let st := n / 2 ^ 32 % 2 ^ 8
        let o := id * 2 ^ poolLog p + pos % p.tpb.toNat * p.tokb.toNat
        x = if st = 4 then .fault .bdamage
          else if st ≠ 1 then .fault .page
          else if w = 32 then (if 2 ^ 32 ≤ o then .fault .page else .value o)
          else .value ((p.bpbase.toNat + o) % 2 ^ 64)))

/-- Positions translated one after the other, each for its element. -/
inductive PositionsGive (base : Word) (w : Nat) : List (Nat × Nat) → State → List (Nat × Xlat) → State → Prop where
  | nil (s : State) : PositionsGive base w [] s [] s
  | cons {e pos : Nat} {rest : List (Nat × Nat)} {s t u : State} {x : Xlat} {l : List (Nat × Xlat)} :
    PositionGives base w e pos s x t → PositionsGive base w rest t l u → PositionsGive base w ((e, pos) :: rest) s ((e, x) :: l) u

/-- What the translation of a list of positions answers (R228, R229, R152): the values, up to the first fault that is raised: any memory
element fault, and with stop (VXLATF) a block fault too, whose address is that of the table entry. -/
structure XlatAnswers (base : Word) (w : Nat) (stop : Bool) : Prop where
  all : ∀ els s l u, PositionsGive base w els s l u → (stop = true → ∀ x ∈ l, x.2.isFault = false) →
    xlatElements base w stop els s = .ok (l, none) u
  stops : stop = true → ∀ pre e pos post s l u c v, PositionsGive base w pre s l u → (∀ x ∈ l, x.2.isFault = false) →
    PositionGives base w e pos u (.fault c) v →
    xlatElements base w stop (pre ++ (e, pos) :: post) s = .ok (l, some ⟨e, 0, c, tableEntryVa u base pos⟩) v
  table : ∀ pre e pos post s l u locs f v, PositionsGive base w pre s l u → (stop = true → ∀ x ∈ l, x.2.isFault = false) →
    loadElems 4 [⟨0, e, tableEntryVa u base pos⟩] u = .ok (locs, some f) v →
    xlatElements base w stop (pre ++ (e, pos) :: post) s = .ok (l, some f) v
  entry : ∀ pre e pos post s l u id y locs f v, PositionsGive base w pre s l u → (stop = true → ∀ x ∈ l, x.2.isFault = false) →
    ElementGives 4 ⟨0, e, tableEntryVa u base pos⟩ u id y → id < poolBlocks u.part →
    loadElems 16 [⟨0, e, word (metaVa u.part id)⟩] y = .ok (locs, some f) v →
    xlatElements base w stop (pre ++ (e, pos) :: post) s = .ok (l, some f) v

/-- A hart's block command waits for metadata that lies on another device, and reads it anew where another command of its engine changes it
meanwhile (R8, R333). -/
def State.awaitsObjects (s : State) (e : EngineKind) (key n : Nat) : State :=
  let u := s.hasAsked key 1 n [] (.remote key n)
  { u with hart := { u.hart with reading := some e } }

/-- A copy without its completion, which waited. -/
def State.withoutCompletion (s : State) (h : Slot) : State :=
  s.withPart { s.part with completions := s.part.completions.filter (fun d => d.copy.all (fun x => x.1 != h)) }

end Sys2Proof.Machine
end

