-- ==== Sys2Proof/Certificates/Slice0/Obligations.lean ====
section
/-! DEFINITION. The statements for the provers. Each says in its docstring which rules of the manual it formalises. -/

open Sys2Proof Sys2Proof.Machine

/-- O1. Words that the manual writes out decode to the instructions they stand for. Words of the manual's encoding tables
and examples, of the scalar, compact, atomic, system, vector, tile, stream, hart, copy, block, index, launch and
fabric families, decode to the instruction and operands that the manual prints beside them; a word of a reserved
major, and a parcel of a reserved compact operation, are refused. (R36, R38, R39, R41, R45, R48, R52, R54, R137, R147,
R259) -/
def Obligations.DecodedWords : Prop :=
  (∀ p ∈ ([(0x00001282, .add ⟨0, 1, 5⟩), (0x00001A04, .addi ⟨0, 1, 20⟩), (0x00505290, .shli ⟨40, 5, 5⟩), (0x01800312, .lui ⟨0x1800, 6⟩),
    (0x000140A2, .ldwn ⟨0, 20, 1⟩), (0x0015442A, .std ⟨8, 10, 20⟩), (0x00010FAE, .jal ⟨16, 31⟩), (0x0001F030, .jalr ⟨0, 31, 0⟩),
    (0x00C610B2, .fdiv ⟨0, 0, 3, 1, 1⟩), (0x070C5534, .aaddD ⟨3, 4, 6, 5, 10⟩), (0x100C103A, .wrcr ⟨0x806, 1, 0⟩),
    (0x10020AB8, .rdcr ⟨0x801, 21⟩), (0x000A003C, .trap 5), (0x00009440, .setvl ⟨9, 8⟩), (0x00C20040, .vconf 1),
    (0x100850C4, .vldx ⟨0, 0, 4, 5, 1⟩), (0xB018824C, .vfwma ⟨0, 0, 0, 12, 8, 4⟩), (0xE0142250, .vcvt ⟨7, 0, 0, 0, 0x0A, 2, 4⟩),
    (0xB80620D2, .vfcltX ⟨0, 0, 3, 2, 1⟩), (0x280012D4, .mpop ⟨0, 1, 5⟩), (0x00001556, .vrsumo ⟨0, 0, 0, 1, 10⟩),
    (0x1A008258, .vcmpr ⟨2, 0, 8, 4⟩), (0x0020885A, .tmac ⟨0, 0, 16, 8, 2, 0⟩), (0x000061DC, .vbind ⟨6, 3⟩), (0x0040B060, .hexit 11),
    (0x000062E2, .cpystart ⟨6, 5⟩), (0x000062E4, .balloc ⟨6, 5⟩), (0x01B1B2E8, .curatt ⟨24, 27, 5⟩), (0x0094306A, .fdone ⟨10, 3⟩),
    (0x0000606C, .gswitch 6)] : List (Nat × Instr)), decodeTableWord 32 p.1 = some p.2) ∧
  (∀ p ∈ ([(0x3943, .cAdd ⟨7, 5⟩), (0x420F, .cAddi ⟨8, 8⟩), (0x1251, .cLdd ⟨2, 9⟩)] : List (Nat × Instr)), decodeTableWord 16 p.1 = some p.2) ∧
  decodeTableWord 32 0 = none ∧ decodeTableWord 16 0x3957 = none

/-- O2. Decoding and encoding agree in both directions, on bytes. For every well-formed instruction that has words of its
own (not an event, and not one of the four rows that only name words of another row), decoding its encoded bytes,
followed by any bytes, gives the instruction with every operand, and leaves the bytes that follow. Whatever bytes
decode to an instruction are the bytes of its encoding: the instruction is well-formed, no bit of its words is
dropped, and no two words decode to one instruction. (R36, R37, R38, R39, R60) -/
def Obligations.DecodeAndEncodeAgree : Prop :=
  (∀ (i : Instr) (rest : List Byte), i.wf = true → i.isAlias = false → encode i ≠ .none →
    decodeBytes ((encode i).bytes ++ rest) = .ok (i, rest)) ∧
  ∀ (bs rest : List Byte) (i : Instr), decodeBytes bs = .ok (i, rest) →
    i.wf = true ∧ i.isAlias = false ∧ encode i ≠ .none ∧ bs = (encode i).bytes ++ rest

/-- O3. A step fetches at the program counter, decodes, and runs exactly that instruction. A hart context that has still
to be saved is written first: bytes of the partition's hart-context region that nothing constrains. Then, with no turn
scheduled and a hart that may issue: a pre-emption request that is due at a commit point is taken; else a spent budget
is the step of BUDGET; else, where the parcels at the program counter can be fetched from this device and decode to i,
the step is exec of i after the time it takes has passed (an instruction that carries operands between the blocks of a
spread hart stays where the gallery rate is 0); what is refused is the step of its reserved encoding, a fetch that
fails that of its fault, and one from another device waits for its bytes. A scheduled event is the step of that event
after its time; a scheduled hart that may issue issues. Time changes only CYCLE, CYBUD and the counter of free values.
Which hart issues when the schedule is empty, the free number of ticks, a fetch of memory as it stands, and the free
bytes of the region are the model's choices (log entries 3, 4, 10 and 52). (R36, R37, R41, R57, R105, R129, R211,
R212, R341) -/
def Obligations.StepRunsDecoded : Prop :=
  (∀ (s : State) (p : PartId) (rest : List PartId), s.dev.contexts = p :: rest → ∃ t, step s = .next t ∧
    t = { s with
      mem := t.mem
      dev := { s.dev with
        contexts := rest
        damaged := t.dev.damaged
        freeIdx := t.dev.freeIdx } } ∧
    ∀ q, s.allParts.find? (fun q => q.configured && q.cfg.pid == p) = some q → ∀ k,
      (∀ i, i < q.cfg.ctxSize → k = physKey p q.cfg.ctxBase + i → t.mem.get k = Config.contextByte (s.dev.freeIdx + i)) ∧
      (k < physKey p q.cfg.ctxBase ∨ physKey p q.cfg.ctxBase + q.cfg.ctxSize ≤ k → t.mem.get k = s.mem.get k)) ∧
  ∀ (s : State), s.dev.contexts = [] →
    let open_ := fun (u : State) (i : Instr) => blockedAtGallery u i = false
    (s.sched = [] → schedulable s s.hart = true → ∀ why, preemptDue s.hart = some why → step s = .next (takeAway why s.hart s)) ∧
    (s.sched = [] → schedulable s s.hart = true → preemptDue s.hart = none →
      (budgetDue s.hart = true → step s = exec .budget s) ∧
      (budgetDue s.hart = false → ∀ t lo, xlate .fetch s.pc s = (t, .ok lo) → isRemote lo.key = false → t.damagedAt lo.key 2 = false →
        ((t.peekNat lo.key 2).testBit 0 = true → ∀ i, decodeBytes (t.peek lo.key 2) = .ok (i, []) → open_ t i → step s = exec i t.charge) ∧
        ((t.peekNat lo.key 2).testBit 0 = false → ∀ u hi, xlate .fetch (s.pc + 2) t = (u, .ok hi) → isRemote hi.key = false →
          u.damagedAt hi.key 2 = false → ∀ i, decodeBytes (t.peek lo.key 2 ++ u.peek hi.key 2) = .ok (i, []) →
            (open_ u i → step s = exec i u.charge) ∧
            (crossesBlocks i = true → 1 < s.hart.dies → bitsOf s.part.cfg.limits.toNat 0 16 = 0 → step s = .next u.charge))) ∧
      (budgetDue s.hart = false → ∀ t w e, fetchInstr s = (t, .word w) → decode32 w = .error e → step s = exec (.reservedEncoding w) t.charge) ∧
      (budgetDue s.hart = false → ∀ t f, fetchInstr s = (t, .fault f) → step s = exec (.fetchFault f) t.charge) ∧
      (budgetDue s.hart = false → ∀ t k n, fetchInstr s = (t, .remote k n) → step s = .next (awaitRemote k n t))) ∧
    (∀ i rest, s.sched = .event i :: rest → isEvent i = true → step s = exec i ({ s with sched := rest } : State).tick) ∧
    (∀ h rest u, s.sched = .hart h :: rest → ({ s with sched := rest } : State).focusHart h.pid h.id.toNat = some u →
      schedulable u u.hart = true → step s = issue u) ∧
    s.charge = { s with
      hart := { s.hart with
        cybud := if s.hart.cybud = BitVec.allOnes 64 then s.hart.cybud
          else word (s.hart.cybud.toNat - Config.ticks s.dev.freeIdx) }
      dev := { s.dev with
        cycle := s.dev.cycle + word (Config.ticks s.dev.freeIdx)
        freeIdx := s.dev.freeIdx + 1 } }

/-- O4. What the machine holds right after reset. After reset no partition is configured and no hart exists; DEVSTAT is in
phase 0 with the stepping code of B0; the measurement registers are zero; no packet, job or link is there, and the
gallery inputs of the four dies are open; every byte of memory reads 0. The hart registers hold the values of their
field maps: NREG 32, RAD 2, WDOG 16384, TSTAT 0xFFFFFFFF00000000, every x register and every other listed register 0.
CYBUD all ones and LMOD, BRICKS and DIES 0 are the model's choice (log entry 1), and so is the 0 of unwritten memory
(log entry 2). (R16, R206, R136, R354, R355, R358) -/
def Obligations.ResetValues : Prop :=
  let s := State.reset
  s.mem = [] ∧ (∀ k, s.mem.get k = 0) ∧ s.hart.status = .absent ∧ s.harts = [] ∧ s.part.configured = false ∧ s.parts = [] ∧
  s.sched = [] ∧ s.dev.devstat = 0x0000B00000000000 ∧ phaseOf s = 0 ∧ s.dev.mr = Vector.replicate 4 0 ∧ s.dev.jobs = [] ∧ s.dev.contexts = [] ∧ s.dev.entering = [] ∧
  s.dev.egress = [] ∧ s.dev.upstream = [] ∧ s.dev.outstanding = [] ∧ s.dev.ports = galleryPorts ∧ s.dev.withdrawn = 0 ∧ s.hart.mode = .supervisor ∧ s.hart.live.x = Vector.replicate 32 0 ∧
  ∀ r ∈ crTable s, r.2 = (([(0x006, 32), (0x00C, 2), (0x012, 1), (0x800, 0xFFFFFFFF00000000), (0x808, 16384),
    (0x809, 0xFFFFFFFFFFFFFFFF)] : List (BitVec 12 × Word)).lookup r.1).getD 0

/-- O5. The memory of the reset state has its canonical form. Memory at reset has the canonical form that every step
keeps: ascending addresses, no byte listed that an unlisted address reads as. (R355) -/
def Obligations.ResetMemoryIsCanonical : Prop :=
  State.reset.MemOk

/-- O6. Every step keeps the canonical form of memory. For every state whose memory lists ascending addresses and no byte
that an unlisted address reads as, whatever a step does (an instruction, a trap, an event of an engine, the fabric or
the management plane), the state after it has the same form: equal memories stay equal data. (R72, R161, R252, R364) -/
def Obligations.StepKeepsMemoryCanonical : Prop :=
  ∀ (s t : State), s.MemOk → step s = .next t → t.MemOk

/-- O7. Results and frame of the scalar arithmetic instructions. ADD, SUB, MUL, MULH, MULHN, DIV, DIVN, REM, REMN, ADDW
and SUBW answer a next state from every state: xA holds the value of R110 or R111 computed on integers and taken
modulo 2^64, division by zero included; the latch names xA; the program counter moves past the word; nothing else
changes but the count of the open strip and the held response. (R110, R111, R59, R129) -/
def Obligations.ScalarArithmeticResults : Prop :=
  ∀ (o : R3) (s : State),
    exec (.add o) s = .next (s.wrote o.a (wi (s.xi o.b + s.xi o.c)) 4) ∧
    exec (.sub o) s = .next (s.wrote o.a (wi (s.xi o.b - s.xi o.c)) 4) ∧
    exec (.mul o) s = .next (s.wrote o.a (wi (s.xi o.b * s.xi o.c)) 4) ∧
    exec (.mulh o) s = .next (s.wrote o.a (wi (s.xi o.b * s.xi o.c / 2 ^ 64)) 4) ∧
    exec (.mulhn o) s = .next (s.wrote o.a (word (s.xn o.b * s.xn o.c / 2 ^ 64)) 4) ∧
    exec (.div o) s = .next (s.wrote o.a (if s.xi o.c = 0 then wi (-1) else wi ((s.xi o.b).tdiv (s.xi o.c))) 4) ∧
    exec (.divn o) s = .next (s.wrote o.a (if s.xn o.c = 0 then wi (-1) else word (s.xn o.b / s.xn o.c)) 4) ∧
    exec (.rem o) s = .next (s.wrote o.a (if s.xi o.c = 0 then s.xr o.b else wi ((s.xi o.b).tmod (s.xi o.c))) 4) ∧
    exec (.remn o) s = .next (s.wrote o.a (if s.xn o.c = 0 then s.xr o.b else word (s.xn o.b % s.xn o.c)) 4) ∧
    exec (.addw o) s = .next (s.wrote o.a (wi ((s.xi o.b + s.xi o.c).bmod (2 ^ 32))) 4) ∧
    exec (.subw o) s = .next (s.wrote o.a (wi ((s.xi o.b - s.xi o.c).bmod (2 ^ 32))) 4)

/-- O8. Results and frame of the scalar logic, shift, compare and count instructions. AND, OR, XOR, ANDN, SHL, SHR, SRA,
ROL, ROR, SLT, SLTN, MIN, MAX, MINN, MAXN, CLZ, CTZ, POPC, SEXT and ZEXT (of the widths 8, 16 and 32) answer a next
state from every state, with the value of R110 in xA: shifts and rotates take the amount from bits 5:0 of xC, SRA is
the floor of the signed quotient, the N forms compare unsigned. The frame is that of the scalar arithmetic. (R110,
R43, R59, R129) -/
def Obligations.ScalarLogicResults : Prop :=
  ∀ (s : State),
    (∀ (o : R3),
      let n := s.xn o.c % 64
      exec (.and o) s = .next (s.wrote o.a (s.xr o.b &&& s.xr o.c) 4) ∧
      exec (.or o) s = .next (s.wrote o.a (s.xr o.b ||| s.xr o.c) 4) ∧
      exec (.xor o) s = .next (s.wrote o.a (s.xr o.b ^^^ s.xr o.c) 4) ∧
      exec (.andn o) s = .next (s.wrote o.a (s.xr o.b &&& ~~~s.xr o.c) 4) ∧
      exec (.shl o) s = .next (s.wrote o.a (word (s.xn o.b * 2 ^ n)) 4) ∧
      exec (.shr o) s = .next (s.wrote o.a (word (s.xn o.b / 2 ^ n)) 4) ∧
      exec (.sra o) s = .next (s.wrote o.a (wi (s.xi o.b / 2 ^ n)) 4) ∧
      exec (.rol o) s = .next (s.wrote o.a (word (s.xn o.b * 2 ^ n) ||| word (s.xn o.b / 2 ^ (64 - n))) 4) ∧
      exec (.ror o) s = .next (s.wrote o.a (word (s.xn o.b / 2 ^ n) ||| word (s.xn o.b * 2 ^ (64 - n))) 4) ∧
      exec (.slt o) s = .next (s.wrote o.a (if s.xi o.b < s.xi o.c then 1 else 0) 4) ∧
      exec (.sltn o) s = .next (s.wrote o.a (if s.xn o.b < s.xn o.c then 1 else 0) 4) ∧
      exec (.min o) s = .next (s.wrote o.a (wi (min (s.xi o.b) (s.xi o.c))) 4) ∧
      exec (.max o) s = .next (s.wrote o.a (wi (max (s.xi o.b) (s.xi o.c))) 4) ∧
      exec (.minn o) s = .next (s.wrote o.a (word (min (s.xn o.b) (s.xn o.c))) 4) ∧
      exec (.maxn o) s = .next (s.wrote o.a (word (max (s.xn o.b) (s.xn o.c))) 4)) ∧
    (∀ (o : R2),
      (∃ n, IsClz (s.xr o.b) n ∧ exec (.clz o) s = .next (s.wrote o.a (word n) 4)) ∧
      (∃ n, IsCtz (s.xr o.b) n ∧ exec (.ctz o) s = .next (s.wrote o.a (word n) 4)) ∧
      exec (.popc o) s = .next (s.wrote o.a (word ((List.range 64).countP (fun i => (s.xr o.b).getLsbD i))) 4)) ∧
    (∀ (o : RW), o.w.toNat ≤ 2 →
      exec (.sext o) s = .next (s.wrote o.a (wi ((s.xi o.b).bmod (2 ^ (8 * 2 ^ o.w.toNat)))) 4) ∧
      exec (.zext o) s = .next (s.wrote o.a (word (s.xn o.b % 2 ^ (8 * 2 ^ o.w.toNat))) 4))

/-- O9. Results and frame of the scalar immediate instructions. ADDI, ANDI, ORI, XORI, SLTI, SLTNI with the immediate
sign-extended (SLTNI compares it read as unsigned), SHLI, SHRI, SRAI, RORI, LUI and ADDPC answer a next state from
every state with the value of R112 or R113 in xA. The frame is that of the scalar arithmetic. (R112, R113, R59, R129) -/
def Obligations.ScalarImmediateResults : Prop :=
  ∀ (s : State),
    (∀ (o : I15),
      exec (.addi o) s = .next (s.wrote o.a (wi (s.xi o.b + o.imm.toInt)) 4) ∧
      exec (.andi o) s = .next (s.wrote o.a (s.xr o.b &&& wi o.imm.toInt) 4) ∧
      exec (.ori o) s = .next (s.wrote o.a (s.xr o.b ||| wi o.imm.toInt) 4) ∧
      exec (.xori o) s = .next (s.wrote o.a (s.xr o.b ^^^ wi o.imm.toInt) 4) ∧
      exec (.slti o) s = .next (s.wrote o.a (if s.xi o.b < o.imm.toInt then 1 else 0) 4) ∧
      exec (.sltni o) s = .next (s.wrote o.a (if s.xn o.b < (wi o.imm.toInt).toNat then 1 else 0) 4)) ∧
    (∀ (o : Sh),
      exec (.shli o) s = .next (s.wrote o.a (word (s.xn o.b * 2 ^ o.n.toNat)) 4) ∧
      exec (.shri o) s = .next (s.wrote o.a (word (s.xn o.b / 2 ^ o.n.toNat)) 4) ∧
      exec (.srai o) s = .next (s.wrote o.a (wi (s.xi o.b / 2 ^ o.n.toNat)) 4) ∧
      exec (.rori o) s = .next (s.wrote o.a (word (s.xn o.b / 2 ^ o.n.toNat) ||| word (s.xn o.b * 2 ^ (64 - o.n.toNat))) 4)) ∧
    (∀ (o : U20),
      exec (.lui o) s = .next (s.wrote o.a (wi (o.imm.toInt * 2 ^ 12)) 4) ∧
      exec (.addpc o) s = .next (s.wrote o.a (wi (s.pc.toInt + o.imm.toInt * 2 ^ 12)) 4))

/-- O10. Where the branches and jumps go, and what they leave. BEQ, BNE, BLT, BGE, BLTN, BGEN go to PC + 2 × OFF where
their comparison holds and to PC + 4 where it does not, and write no register; JAL writes PC + 4 to xA and goes to PC
+ 2 × OFF; JALR reads xB before it writes xA, writes PC + 4 and goes to xB + sext(IMM15), or traps with ALIGN and TVAL
the target where that is odd. All answer a next state from every state. (R116, R59, R64) -/
def Obligations.BranchAndJumpResults : Prop :=
  ∀ (s : State),
    (∀ (o : Br),
      let there := s.jumped (wi (s.pc.toInt + 2 * o.off.toInt))
      let past := s.jumped (s.pc + 4)
      exec (.beq o) s = .next (if s.xr o.b = s.xr o.c then there else past) ∧
      exec (.bne o) s = .next (if s.xr o.b = s.xr o.c then past else there) ∧
      exec (.blt o) s = .next (if s.xi o.b < s.xi o.c then there else past) ∧
      exec (.bge o) s = .next (if s.xi o.b < s.xi o.c then past else there) ∧
      exec (.bltn o) s = .next (if s.xn o.b < s.xn o.c then there else past) ∧
      exec (.bgen o) s = .next (if s.xn o.b < s.xn o.c then past else there)) ∧
    (∀ (o : J20), exec (.jal o) s = .next (s.wroteTo o.a (s.pc + 4) (wi (s.pc.toInt + 2 * o.off.toInt)))) ∧
    (∀ (o : I15), (s.offset o.b o.imm).toNat % 2 = 0 →
      exec (.jalr o) s = .next (s.wroteTo o.a (s.pc + 4) (s.offset o.b o.imm))) ∧
    (∀ (o : I15), (s.offset o.b o.imm).toNat % 2 = 1 →
      exec (.jalr o) s = .next (takeTrap .align (s.offset o.b o.imm) 0 s))

/-- O11. The compact scalar instructions and their latch. c.mov answers a next state from every state; c.add, c.sub,
c.and, c.or, c.xor, c.shl, c.addi, c.mul and c.slt do so where the latch names a scalar register l, with L = xl: they
are two bytes long and write xD. Where the latch is invalid or names a vector register, these nine and c.ldd trap with
ILL, TVAL the zero-extended parcel. (R60, R61, R59, R64) -/
def Obligations.CompactScalarResults : Prop :=
  ∀ (o : C2) (s : State),
    exec (.cMov o) s = .next (s.wrote o.d (s.xr o.s) 2) ∧
    (∀ l, Latched s false l →
      exec (.cAdd o) s = .next (s.wrote o.d (wi (s.xi l + s.xi o.s)) 2) ∧
      exec (.cSub o) s = .next (s.wrote o.d (wi (s.xi l - s.xi o.s)) 2) ∧
      exec (.cAnd o) s = .next (s.wrote o.d (s.xr l &&& s.xr o.s) 2) ∧
      exec (.cOr o) s = .next (s.wrote o.d (s.xr l ||| s.xr o.s) 2) ∧
      exec (.cXor o) s = .next (s.wrote o.d (s.xr l ^^^ s.xr o.s) 2) ∧
      exec (.cShl o) s = .next (s.wrote o.d (word (s.xn l * 2 ^ (s.xn o.s % 64))) 2) ∧
      exec (.cAddi o) s = .next (s.wrote o.d (wi (s.xi l + o.s.toInt)) 2) ∧
      exec (.cMul o) s = .next (s.wrote o.d (wi (s.xi l * s.xi o.s)) 2) ∧
      exec (.cSlt o) s = .next (s.wrote o.d (if s.xi l < s.xi o.s then 1 else 0) 2)) ∧
    ((∀ l, ¬ Latched s false l) →
      ∀ i ∈ [Instr.cAdd o, .cSub o, .cAnd o, .cOr o, .cXor o, .cShl o, .cAddi o, .cLdd o, .cMul o, .cSlt o],
        ∃ p : Parcel, encode i = .parcel p ∧ exec i s = .next (takeTrap .ill (p.setWidth 64) 0 s))

/-- O12. Every outcome of a scalar load, and what it leaves unchanged. For LDB, LDH, LDW, LDD, LDBN, LDHN, LDWN and c.ldd
(its latch serving it): an address that the size does not divide traps with ALIGN; a translation that fails with a
cause traps with it and with TVAL the address; a damaged word under a byte that no store of the hart covers traps with
UNCOR (that a covered byte does not is the model's choice, log entry 56); otherwise xA holds the little-endian bytes
the hart sees, extended. A completed load changes only xA, the latch, the program counter and what a translation may
change: every byte of memory outside the leaf entry is as before, and so is every other register. The translation is
that of R157 to R162: the scratchpad window above the page tables; else the cached leaf, or that of the walk from
PTROOT through at most three levels, whose entry is valid, gives a permission and is a multiple of its page; what the
leaf permits to the mode decides between its place and PROT. (R114, R60, R61, R64, R72, R361, R155, R156, R157, R158,
R160, R162) -/
def Obligations.ScalarLoadOutcomes : Prop :=
  (∀ (s : State) (k : Kind) (a : Word), Translates s k a ∧ (∀ p root, WalkEnds s p root a.toNat) ∧
    ∀ mode l, LeafGives s mode k a.toNat l) ∧
  ∀ (i : Instr) (s : State) (f : LoadForm), loadForm s i = some f → LatchServes s i →
    (f.addr.toNat % f.n ≠ 0 → exec i s = .next (takeTrap .align f.addr 0 s)) ∧
    (f.addr.toNat % f.n = 0 → ∀ t,
      (∀ c, xlate .load f.addr s = (t, .error (.cause c)) → exec i s = .next (takeTrap c f.addr 0 t)) ∧
      (∀ loc, xlate .load f.addr s = (t, .ok loc) → isRemote loc.key = false → AccessOnly s t loc.leaf ∧
        ((damagedByte t loc.key f.n).isSome = true → exec i s = .next (takeTrap .uncor f.addr 0 t)) ∧
        (damagedByte t loc.key f.n = none →
          exec i s = .next (t.wrote f.a (f.ext (leNat (visible t loc.key f.n))) f.len))))

/-- O13. A scalar load from another device waits for its response. For LDB, LDH, LDW, LDD, LDBN, LDHN, LDWN and c.ldd of
an aligned address that lies in a remote window: where bytes are missing the hart sends a read of them to the node of
the window and waits, the machine but for that request as before, to issue the load again with the response; with all
bytes held the load completes with them under the hart's own stores; a refused byte raises UNCOR with TVAL the
address. A table entry that lies on another device is asked for in the same way. The request leaves through the egress
queue of the die of the hart's hall: at once where nothing waits before it and the queue has room. Its target is that
of its window: the window's node, and its base plus the low 36 bits of the remote physical address. (R332, R333, R334,
R114) -/
def Obligations.RemoteLoadOutcomes : Prop :=
  (∀ (c : PartCfg) (pa : Nat) (w : Window), (c.windows.map (·.index)).Nodup → windowOf c pa = some w →
    w.index.toNat = pa / 2 ^ 36 % 2 ^ 11 ∧ isRemote (remoteKey c w pa) = true ∧
    remoteTarget c (remoteKey c w pa) = (w.dest, w.base + word (pa % 2 ^ 36))) ∧
  ∀ (i : Instr) (s t : State) (f : LoadForm) (loc : Loc), loadForm s i = some f → LatchServes s i → f.addr.toNat % f.n = 0 →
    (∀ k m, xlate .load f.addr s = (t, .error (.remote k m)) → exec i s = .next (s.hasAsked k 1 m [] (.remote k m))) ∧
    (xlate .load f.addr s = (t, .ok loc) → isRemote loc.key = true →
    (t.hart.refusedByte loc.key f.n = none → ∀ k m, t.hart.missing loc.key f.n = some (k, m) →
      exec i s = .next (s.hasAsked k 1 m [] (.remote k m)) ∧
      let e := (BitVec.ofNat 2 (dieOf s.hart.hall), s.packetFor k 1 m [])
      (s.dev.upstream = [] → s.dev.mayEnter e = true → (s.hasAsked k 1 m [] (.remote k m)).dev.egress = s.dev.egress ++ [e])) ∧
    (∀ bs, t.hart.refusedByte loc.key f.n = none → t.hart.replied loc.key f.n = some bs →
      exec i s = .next (t.wrote f.a (f.ext (leNat (t.hart.unperformed.foldl (overlay loc.key) bs))) f.len)) ∧
    ((t.hart.refusedByte loc.key f.n).isSome = true → exec i s = .next (takeTrap .uncor f.addr 0 t)))

/-- O14. Every outcome of a scalar store, and what it leaves unchanged. For STB, STH, STW and STD: where the mortar has no
room for the store and the open strip is not fresh, the strip closes first, and the instruction is issued again. Else
a misaligned address traps with ALIGN; a translation that fails traps with its cause and TVAL the address; otherwise
the low bytes of xC, little-endian, go to the end of the mortar at the place that xB + sext(offset) names. Memory
itself, every register, the latch and every other hart are unchanged until the strip commits. That room is looked at
before faults, is counted in chunks by virtual address, and that the implicit commit is a step of its own are the
model's choices (log entry 25). (R114, R145, R143, R64) -/
def Obligations.ScalarStoreOutcomes : Prop :=
  ∀ (i : Instr) (s : State) (n : Nat) (a v : Word), storeForm s i = some (n, a, v) →
    (¬ HasRoom s a → s.hart.isFresh = false → exec i s = .next (closeStrip false s).1 ∧ (s.Quiet → exec i s = .next s.closed)) ∧
    (HasRoom s a ∨ s.hart.isFresh = true → a.toNat % n ≠ 0 → exec i s = .next (takeTrap .align a 0 s)) ∧
    (HasRoom s a ∨ s.hart.isFresh = true → a.toNat % n = 0 → ∀ t,
      (∀ c, xlate .store a s = (t, .error (.cause c)) → exec i s = .next (takeTrap c a 0 t)) ∧
      (∀ loc, xlate .store a s = (t, .ok loc) →
        let st : Store := ⟨a, loc.key, leBytes n v.toNat, loc.leaf.map (·.key)⟩
        t.mem = s.mem ∧ t.hart.live = s.hart.live ∧ t.hart.mortar = s.hart.mortar ∧
        exec i s = .next (t.stored st 4) ∧ (t.stored st 4).mem = s.mem))

/-- O15. Closing a strip performs its stores, in order and behind acknowledgements, and opens a continuation strip. From a
state in which nothing holds a commit back, closing the open strip goes on, and leaves: every byte of memory outside
the leaf entries of the pages stored to as the stores of the mortar make it, the last store over a byte deciding, and
as before where no store covers it; an empty mortar; the registers of the strip as they stand, which are the new
checkpoint; the instructions of the strip counted into INSTRET; the other registers of the hart, the partition, all
other harts and partitions as before. In any state, stores are performed in order up to the first that must wait: one
to this device waits for every acknowledgement, one to another device for those of other nodes; what is performed here
is what the bytes of memory show, and a write to another device is sent as a packet whose acknowledgement is awaited.
Bytes that have come from other devices are read again after a store. A closing instruction waits where a store is
left, and a release where any acknowledgement is, of a write of the hart or of payload that an engine has written for
it. (R142, R143, R161, R129, R72, R73, R75, R333) -/
def Obligations.CommitPerformsStores : Prop :=
  ∀ (s : State) (release : Bool), (s.Quiet →
    closeStrip release s = (s.closed, true) ∧
    s.closed.hart = { s.hart with
      ckpt := s.hart.live, ckptSetvl := false, rerun := false, atSetvl := false, trim := none, pages := [], stale := false
      instret := s.hart.instret + word s.hart.pending, pending := 0, mortar := [], outgoing := [], staleOut := false
      reply := if s.hart.mortar = [] then s.hart.reply else []
      refused := if s.hart.mortar = [] then s.hart.refused else [] } ∧
    s.closed = { s with
      mem := s.closed.mem, hart := s.closed.hart
      dev := { s.dev with tlb := s.closed.dev.tlb, damaged := s.closed.dev.damaged } } ∧
    ∀ k, (∀ st ∈ s.hart.mortar, ∀ l, st.leaf = some l → k < l ∨ l + 8 ≤ k) →
      s.closed.mem.get k = storedByte (s.mem.get k) s.hart.mortar k) ∧
    (∀ sts, ∃ done, sts = done ++ (drainStores sts s).2 ∧
      (∀ k, (drainStores sts s).1.mem.get k = storedByte (s.mem.get k) (done.filter (fun st => !isRemote st.key)) k) ∧
      ∀ st rest, (drainStores sts s).2 = st :: rest →
        (isRemote st.key = false → (drainStores sts s).1.hart.acks ≠ []) ∧
        (isRemote st.key = true → ∃ a ∈ (drainStores sts s).1.hart.acks, a.1 ≠ (remoteTarget s.part.cfg st.key).1)) ∧
    (∀ key bs, 0 < bs.length → bs.length ≤ Config.packetBytes → s.hartWrite key bs = s.hasWritten key bs) ∧
    (s.hart.outgoing ≠ [] ∨ (release = true ∧ (s.hart.acks ≠ [] ∨ s.hart.owes s = true)) →
      afterCommit release s = (s.waits .acks, false)) ∧
    (s.hart.owes s = true ↔ ∃ r ∈ s.dev.outstanding, r.pid = s.part.cfg.pid ∧ r.kind = 3 ∧
      ∃ b : Issuer, r.from_ = .engine b none ∧ b.hart = s.hart.id ∧ b.serial = s.hart.serial)

/-- O16. Results and frame of the scalar floating-point operations that round. FADD, FSUB, FMUL, FDIV, FSQRT, FMADD,
FCVTF, FCVTFN and FCVTP answer a next state from every state: outside EFB mode xA holds the exact value of R118
rounded once in the mode of the rounding field (7 takes it from FRND), with the generator word of position (0, 0) for
STO, zero-extended. In EFB mode the residual in EFC is carried in, the sum is rounded RNE, and EFC holds what was
left, or +0 in the special cases of R122. Only xA, the latch, the program counter and, in EFB mode, EFC change. (R117,
R118, R121, R122, R171) -/
def Obligations.FpRoundedResults : Prop :=
  ∀ (i : Instr) (s : State) (f : RoundedForm), roundedForm s i = some f →
    let fm := fpFormat f.p
    let c := fmtF64.value s.hart.live.efc.toNat
    (s.fpMode f.r ≠ .efb →
      exec i s = .next (s.wrote f.a
        (word (fm.conv (s.fpMode f.r) (gen s.hart.live.sbase s.hart.srseed s.hart.srstream 0 0) false (f.exact (s.fpMode f.r)))) 4)) ∧
    (s.fpMode f.r = .efb →
      let x := f.exact .efb
      let out := fm.conv .rne 0 false (fAdd false .rne x c)
      ∃ e : Word, exec i s = .next ((s.withEfc e).wrote f.a (word out) 4) ∧
        (∀ p q r sp sq sr, x = .fin p sp → c = .fin q sq → fm.value out = .fin r sr →
          e = word (fmtF64.conv .rne 0 false (.ofFrac ((p.add q).sub r)))) ∧
        ((∀ p sp, x ≠ .fin p sp) ∨ (∀ q sq, c ≠ .fin q sq) ∨ (∀ r sr, fm.value out ≠ .fin r sr) → e = 0))

/-- O17. Results and frame of FCVTI, FCVTN and the operations that never round. Each answers a next state from every
state. Outside EFB mode the operand is rounded to an integer in the mode of the rounding field and saturated to the
signed or the unsigned 64-bit range; a NaN gives 0 and an infinity the bound on its side. In EFB mode the value with
the carried residual takes the operand's place, rounded RNE, and EFC is rewritten: with what was left where both are
finite and nothing was saturated, else with +0. FMIN and FMAX give the other operand of a NaN and the default NaN of
two, and order −0 below +0; FEQ, FLT and FLE hold of numbers alone; FCLASS gives the class code; FSGNJ the bits of xB
under the sign of xC. Only xA, the latch, the program counter and, in EFB mode, EFC change. (R117, R118, R119, R120,
R122) -/
def Obligations.FpIntegerAndExactResults : Prop :=
  (∀ (o : F2) (s : State),
    let m := s.fpMode o.r
    let z := gen s.hart.live.sbase s.hart.srseed s.hart.srstream 0 0
    let x := s.fp o.p o.b
    let c := fmtF64.value s.hart.live.efc.toNat
    let y := if m = .efb then fAdd false .rne x c else x
    let signed := fun m z => match y with
      | .nan => wi 0
      | .inf neg => if neg then wi (-2 ^ 63) else wi (2 ^ 63 - 1)
      | .fin q _ => wi (max (-2 ^ 63) (min (2 ^ 63 - 1) (roundInt m z q)))
    let unsigned := fun m z => match y with
      | .nan => wi 0
      | .inf neg => if neg then wi 0 else wi (2 ^ 64 - 1)
      | .fin q _ => wi (max 0 (min (2 ^ 64 - 1) (roundInt m z q)))
    let left := fun (lo hi : Int) (e : Word) =>
      (∀ p q sp sq, x = .fin p sp → c = .fin q sq →
        let n := roundInt .rne 0 (p.add q)
        (lo ≤ n ∧ n ≤ hi → e = word (fmtF64.conv .rne 0 false (.ofFrac ((p.add q).sub (Frac.ofInt n))))) ∧
        (n < lo ∨ hi < n → e = 0)) ∧
      ((∀ p sp, x ≠ .fin p sp) ∨ (∀ q sq, c ≠ .fin q sq) → e = 0)
    (m ≠ .efb →
      exec (.fcvti o) s = .next (s.wrote o.a (signed m z) 4) ∧
      exec (.fcvtn o) s = .next (s.wrote o.a (unsigned m z) 4)) ∧
    (m = .efb →
      (∃ e, exec (.fcvti o) s = .next ((s.withEfc e).wrote o.a (signed .rne 0) 4) ∧ left (-2 ^ 63) (2 ^ 63 - 1) e) ∧
      (∃ e, exec (.fcvtn o) s = .next ((s.withEfc e).wrote o.a (unsigned .rne 0) 4) ∧ left 0 (2 ^ 64 - 1) e))) ∧
  ∀ (s : State),
    (∀ (o : F3N),
      let fm := fpFormat o.p
      let x := s.fp o.p o.b
      let y := s.fp o.p o.c
      let b := s.fpBits o.p o.b
      let c := s.fpBits o.p o.c
      let least := if x.isNan ∧ y.isNan then fm.nanBits else if x.isNan then c else if y.isNan then b else if fLess y x then c else b
      let most := if x.isNan ∧ y.isNan then fm.nanBits else if x.isNan then c else if y.isNan then b else if fLess x y then c else b
      exec (.fmin o) s = .next (s.wrote o.a (word least) 4) ∧
      exec (.fmax o) s = .next (s.wrote o.a (word most) 4) ∧
      exec (.feq o) s = .next (s.wrote o.a (if fEqv x y then 1 else 0) 4) ∧
      exec (.flt o) s = .next (s.wrote o.a (if fLt x y then 1 else 0) 4) ∧
      exec (.fle o) s = .next (s.wrote o.a (if fLt x y ∨ fEqv x y then 1 else 0) 4) ∧
      exec (.fsgnj o) s = .next (s.wrote o.a
        (word (b % 2 ^ (fm.width - 1) + (if c.testBit (fm.width - 1) then 2 ^ (fm.width - 1) else 0))) 4)) ∧
    (∀ (o : F2N), exec (.fclass o) s = .next (s.wrote o.a (word (classCode (fpFormat o.p) (s.fpBits o.p o.b))) 4))

/-- O18. The two neighbours of a value, and which of them a mode takes. For every floating format and every magnitude q ≥
0, the split of q names two neighbouring magnitudes of the format's grid, the lower at or below q and the upper above
it. RTZ takes the lower; RDN and RUP take the upper exactly where q is inexact and the sign sends it away from zero;
RNA takes the upper from the midpoint on; RNE takes the upper above the midpoint, and at it where the lower code is
odd. (R167, R169, R170) -/
def Obligations.RoundingTakesANeighbour : Prop :=
  ∀ (fm : Fmt) (q : Frac) (z : Word) (neg : Bool), 0 ≤ q.num → 0 < q.den →
    let s := splitMag fm.f fm.emin q
    let lower := fm.magOf s.code
    let upper := fm.magOf (s.code + 1)
    lower.le q = true ∧ q.lt upper = true ∧
    roundsUp .rtz z neg s = false ∧
    roundsUp .rdn z neg s = (neg && !(lower.eq q)) ∧
    roundsUp .rup z neg s = (!neg && !(lower.eq q)) ∧
    (roundsUp .rna z neg s = true ↔ (lower.add upper).le (q.add q) = true) ∧
    (roundsUp .rne z neg s = true ↔
      (lower.add upper).lt (q.add q) = true ∨ ((lower.add upper).eq (q.add q) = true ∧ s.code % 2 = 1))

/-- O19. Results, stores and frame of the read-modify-write atomics. For the thirteen read-modify-write atomics on an
address that the size divides, from a state in which nothing holds the commit back: the strip closes; where the
location translates, lies on this device and is undamaged, xA holds the sign-extended old value, the value of R123 is
stored at the location (ACAS stores only where the old value equals the low bits of xA, read before it is written),
and a continuation strip opens past the word. Every byte of memory outside the location and the leaf entry is as the
commit left it. A location on another device is sent the atomic as a packet with the code, the size and both operands,
and the hart waits for the response, which gives xA its value; a refused one raises UNCOR. A page whose leaf lies on
another device is marked by a packet, and the instruction waits for its answer before it stores, to be issued again
(R161). A misaligned address traps with ALIGN and a failed translation with its cause, after the close. The layout of
the packet is the model's choice (log entry 13). (R123, R76, R75, R142, R143, R64, R333, R334) -/
def Obligations.AtomicResults : Prop :=
  ∀ (i : Instr) (s : State) (f : AtomicForm), atomicForm i = some f → s.Quiet →
    let a := s.xr f.o.b
    (a.toNat % f.n ≠ 0 → exec i s = .next (takeTrap .align a 0 s.closed)) ∧
    (a.toNat % f.n = 0 → ∀ u,
      (∀ c, xlate .atomic a s.closed = (u, .error (.cause c)) → exec i s = .next (takeTrap c a 0 u)) ∧
      (∀ loc, xlate .atomic a s.closed = (u, .ok loc) → isRemote loc.key = false → AccessOnly s.closed u loc.leaf ∧
        (u.damagedAt loc.key f.n = true → exec i s = .next (takeTrap .uncor a 0 u)) ∧
        (u.damagedAt loc.key f.n = false →
          let old := u.peekNat loc.key f.n
          let new := f.new old (s.xn f.o.c % 2 ^ (8 * f.n)) (s.xn f.o.a % 2 ^ (8 * f.n))
          let result := wi (signedOf (8 * f.n) old)
          (new = none → exec i s = .next (u.answered f.o.a result)) ∧
          (∀ v, new = some v → (u.leafMarked loc).hart.acks ≠ [] → exec i s = .next ((u.leafMarked loc).waits .acks)) ∧
          (∀ v, new = some v → (u.leafMarked loc).hart.acks = [] →
            exec i s = .next ((u.performed loc (leBytes f.n v)).answered f.o.a result) ∧
            PerformedOnly u (u.performed loc (leBytes f.n v)) loc (leBytes f.n v)))) ∧
      (∀ loc, xlate .atomic a s.closed = (u, .ok loc) → isRemote loc.key = true →
        (u.hart.refused.contains loc.key = true → exec i s = .next (takeTrap .uncor a 0 u)) ∧
        (u.hart.refused.contains loc.key = false →
          let w := Wait.atomic loc.key f.n f.o.a
          let m := u.leafMarked loc
          (m.hart.acks = [] → exec i s = .next ((m.waits w).hasAsked loc.key 5 f.n
            (leBytes 1 f.op ++ leBytes 1 f.n ++ leBytes f.n (s.xn f.o.c) ++ leBytes f.n (s.xn f.o.a)) w)) ∧
          (m.hart.acks ≠ [] → exec i s = .next (m.waits .acks)))) ∧
      (∀ loc, xlate .atomic a s.closed = (u, .ok loc) → (∀ l, loc.leaf = some l → isRemote l.key = false) →
        (u.leafMarked loc).hart.acks = []) ∧
      (∀ k m, xlate .atomic a s.closed = (u, .error (.remote k m)) → exec i s = .next (s.closed.hasAsked k 1 m [] (.remote k m))))

/-- O20. Results, stores and frame of LDAQ and STRL. LDAQ.D and LDAQ.W close the strip, load the aligned location and
write xA, sign-extended; STRL.D and STRL.W close it and store the low bytes of xC at once. Each completes from every
state in which nothing holds the commit back and its aligned address translates to an undamaged place on this device;
memory outside the stored bytes and the leaf entry is as the commit left it. A load from another device asks for the
bytes that are missing and waits, completes with those that have come, and raises UNCOR for a refused one; a store to
another device is sent as a write whose acknowledgement is awaited; where the marking of its page must be acknowledged
first, the store waits for it. A misaligned address traps with ALIGN, a failed translation with its cause, a damaged
word with UNCOR, after the close. (R75, R123, R142, R143, R64, R333, R334, R361) -/
def Obligations.LoadAcquireStoreRelease : Prop :=
  ∀ (s u : State) (loc : Loc), s.Quiet →
    (∀ (o : Laq) (n : Nat) (i : Instr), (i, n) ∈ [(Instr.ldaqD o, 8), (Instr.ldaqW o, 4)] →
      let a := s.xr o.b
      (a.toNat % n ≠ 0 → exec i s = .next (takeTrap .align a 0 s.closed)) ∧
      (∀ c, a.toNat % n = 0 → xlate .load a s.closed = (u, .error (.cause c)) → exec i s = .next (takeTrap c a 0 u)) ∧
      (a.toNat % n = 0 → xlate .load a s.closed = (u, .ok loc) → isRemote loc.key = false → u.damagedAt loc.key n = false →
        exec i s = .next (u.answered o.a (wi (signedOf (8 * n) (u.peekNat loc.key n)))) ∧ AccessOnly s.closed u loc.leaf) ∧
      (a.toNat % n = 0 → xlate .load a s.closed = (u, .ok loc) → isRemote loc.key = false → u.damagedAt loc.key n = true →
        exec i s = .next (takeTrap .uncor a 0 u)) ∧
      (a.toNat % n = 0 → xlate .load a s.closed = (u, .ok loc) → isRemote loc.key = true →
        ((u.hart.refusedByte loc.key n).isSome = true → exec i s = .next (takeTrap .uncor a 0 u)) ∧
        (u.hart.refusedByte loc.key n = none →
          (∀ k m, u.hart.missing loc.key n = some (k, m) → exec i s = .next (s.closed.hasAsked k 1 m [] (.remote k m))) ∧
          ∀ bs, u.hart.replied loc.key n = some bs → exec i s = .next (u.answered o.a (wi (signedOf (8 * n) (leNat bs))))))) ∧
    (∀ (o : Srl) (n : Nat) (i : Instr), (i, n) ∈ [(Instr.strlD o, 8), (Instr.strlW o, 4)] →
      let a := s.xr o.b
      let bs := leBytes n (s.xn o.c)
      (a.toNat % n ≠ 0 → exec i s = .next (takeTrap .align a 0 s.closed)) ∧
      (∀ c, a.toNat % n = 0 → xlate .atomic a s.closed = (u, .error (.cause c)) → exec i s = .next (takeTrap c a 0 u)) ∧
      (a.toNat % n = 0 → xlate .atomic a s.closed = (u, .ok loc) → (u.leafMarked loc).hart.acks ≠ [] →
        exec i s = .next ((u.leafMarked loc).waits .acks)) ∧
      (a.toNat % n = 0 → xlate .atomic a s.closed = (u, .ok loc) → (u.leafMarked loc).hart.acks = [] → isRemote loc.key = false →
        exec i s = .next (u.performed loc bs).completed ∧ AccessOnly s.closed u loc.leaf ∧
        PerformedOnly u (u.performed loc bs) loc bs) ∧
      (a.toNat % n = 0 → xlate .atomic a s.closed = (u, .ok loc) → (u.leafMarked loc).hart.acks = [] → isRemote loc.key = true →
        exec i s = .next ((u.leafMarked loc).hasWritten loc.key bs).completed))

/-- O21. WAITA and WAITAW complete on a difference and wait on equality. From a state in which nothing holds the commit
back, WAITA (8 bytes) and WAITAW (4 bytes) close the strip. With an aligned address that translates for a load to an
undamaged place on this device, or to one on another device whose bytes have come: where memory differs from the low
bytes of xC they write it, sign-extended, to xA and complete; where it is equal the hart waits, holding the location,
with its program counter and registers as they were. Memory outside the leaf entry is as the commit left it. Bytes of
another device that are missing are asked for, and the instruction is issued again with them; a refused byte or a
damaged word raises UNCOR, a misaligned address ALIGN, a failed translation its cause. How the wait of WAITA goes on
is the model's reading (log entry 27). (R125, R142, R143, R333, R334, R64, R361) -/
def Obligations.WaitInstructionsCompareMemory : Prop :=
  ∀ (o : R3) (n : Nat) (i : Instr) (s u : State) (loc : Loc), (i, n) ∈ [(Instr.waita o, 8), (Instr.waitaw o, 4)] → s.Quiet →
    let a := s.xr o.b
    let c := s.xn o.c % 2 ^ (8 * n)
    (a.toNat % n ≠ 0 → exec i s = .next (takeTrap .align a 0 s.closed)) ∧
    (∀ c, a.toNat % n = 0 → xlate .load a s.closed = (u, .error (.cause c)) → exec i s = .next (takeTrap c a 0 u)) ∧
    (a.toNat % n = 0 → xlate .load a s.closed = (u, .ok loc) →
      AccessOnly s.closed u loc.leaf ∧
      (∀ m, (isRemote loc.key = false ∧ u.damagedAt loc.key n = false ∧ m = u.peekNat loc.key n) ∨
          (isRemote loc.key = true ∧ u.hart.refusedByte loc.key n = none ∧ ∃ bs, u.hart.replied loc.key n = some bs ∧ m = leNat bs) →
        (m ≠ c → exec i s = .next (u.answered o.a (wi (signedOf (8 * n) m)))) ∧
        (m = c → exec i s = .next { u with
          hart := { u.hart with
            status := .waiting (.value loc.key n (word c) o.a)
            pages := []
            stale := false
            reply := []
            refused := [] } })) ∧
      ((isRemote loc.key = false ∧ u.damagedAt loc.key n = true) ∨
          (isRemote loc.key = true ∧ (u.hart.refusedByte loc.key n).isSome = true) →
        exec i s = .next (takeTrap .uncor a 0 u)) ∧
      (isRemote loc.key = true → u.hart.refusedByte loc.key n = none → ∀ k m, u.hart.missing loc.key n = some (k, m) →
        exec i s = .next (s.closed.hasAsked k 1 m [] (.remote k m))))

/-- O22. YIELD has no architectural effect and does not close the strip. From every state YIELD answers the next state in
which only the program counter has moved past it and the open strip counts it: the mortar, the checkpoint, every
register, memory and every other hart are as before. (R127) -/
def Obligations.YieldHasNoEffect : Prop :=
  ∀ (s : State), exec .yield s = .next (s.jumped (s.pc + 4)) ∧ (s.jumped (s.pc + 4)).hart.ckpt = s.hart.ckpt ∧
    (s.jumped (s.pc + 4)).hart.mortar = s.hart.mortar ∧ (s.jumped (s.pc + 4)).mem = s.mem

/-- O23. FENCE and ICSYNC close the strip and do nothing else; a held commit completes nothing. With nothing holding the
commit back, FENCE (of any kinds and scope) and ICSYNC perform the mortar and open a continuation strip past
themselves with the same VL; no register but INSTRET changes. Where committed stores wait for acknowledgements of
remote stores before them, or a release has acknowledgements outstanding, its own or of an engine's payload, FENCE, a
release, performs what it may and its hart waits, the program counter still at it; where a pre-emption request is
pending and nothing is outstanding, the hart is taken off instead. (R124, R133, R142, R143, R333, R211) -/
def Obligations.ClosingInstructions : Prop :=
  (∀ (s : State), s.Quiet →
    (∀ o : Fnc, exec (.fence o) s = .next s.closed.completed) ∧ exec .icsync s = .next s.closed.completed ∧
    s.closed.completed.hart.live = { s.hart.live with pc := s.hart.live.pc + 4 } ∧ s.closed.completed.hart.mortar = []) ∧
  ∀ (o : Fnc) (s : State),
    ((s.closed.hart.outgoing ≠ [] ∨ s.closed.hart.acks ≠ [] ∨ s.closed.hart.owes s.closed = true) →
      exec (.fence o) s = .next (s.closed.waits .acks) ∧ (s.closed.waits .acks).pc = s.closed.pc) ∧
    (s.closed.hart.outgoing = [] → s.closed.hart.acks = [] → s.closed.hart.owes s.closed = false → ∀ why, s.closed.hart.preempt = some why →
      exec (.fence o) s = .next (takeAway why s.closed.hart s.closed))

/-- O24. RDCR reads every listed register, and is refused elsewhere. For each of the 42 control registers of the table
with its value: RDCR writes the value to xA, from every state for a number below 0x800 and in supervisor mode from
0x800 on, and changes nothing but xA, the latch and the program counter. In user mode a listed number from 0x800 on
traps with PRIV, and a number that is not listed traps with ILL, TVAL the instruction word. (R62, R63, R128, R64, R93) -/
def Obligations.ControlRegisterReads : Prop :=
  ∀ (s : State) (a : XReg),
    (∀ r ∈ crTable s, (r.1.toNat < 0x800 ∨ s.isSuper) → exec (.rdcr ⟨r.1, a⟩) s = .next (s.wrote a r.2 4)) ∧
    (∀ r ∈ crTable s, 0x800 ≤ r.1.toNat → s.hart.mode = .user →
      exec (.rdcr ⟨r.1, a⟩) s = .next (takeTrap .priv (faultWord (.rdcr ⟨r.1, a⟩)) 0 s)) ∧
    (∀ n : BitVec 12, (∀ r ∈ crTable s, r.1 ≠ n) →
      exec (.rdcr ⟨n, a⟩) s = .next (takeTrap .ill (faultWord (.rdcr ⟨n, a⟩)) 0 s))

/-- O25. WRCR writes the writable registers by their field maps and returns the old value. For each writable control
register without behaviour of its own, WRCR stores the value of xB by the register's field map and writes the old
value to xA; nothing else changes but the latch and the program counter. It does so from every state for a number
below 0x800, and in supervisor mode from 0x800 on and for the pool registers. A read-only register traps with ILL
where its number is below 0x800 or the mode is supervisor; in user mode a listed number from 0x800 on traps with PRIV,
and so do the pool registers; a number that is not listed traps with ILL. (R62, R63, R128, R206, R58, R224) -/
def Obligations.ControlRegisterWrites : Prop :=
  ∀ (s : State) (a b : XReg),
    (∀ r ∈ crWrites s (s.xr b), (r.1.toNat < 0x800 ∨ s.isSuper) →
      exec (.wrcr ⟨r.1, b, a⟩) s = .next (r.2.wrote a (crValue s r.1) 4)) ∧
    (∀ n ∈ crReadOnly, (n.toNat < 0x800 ∨ s.isSuper) →
      exec (.wrcr ⟨n, b, a⟩) s = .next (takeTrap .ill (faultWord (.wrcr ⟨n, b, a⟩)) 0 s)) ∧
    (∀ r ∈ crTable s, 0x800 ≤ r.1.toNat ∨ r.1 ∈ [0x030, 0x031, 0x032, 0x033] → s.hart.mode = .user →
      exec (.wrcr ⟨r.1, b, a⟩) s = .next (takeTrap .priv (faultWord (.wrcr ⟨r.1, b, a⟩)) 0 s)) ∧
    (∀ n : BitVec 12, (∀ r ∈ crTable s, r.1 ≠ n) →
      exec (.wrcr ⟨n, b, a⟩) s = .next (takeTrap .ill (faultWord (.wrcr ⟨n, b, a⟩)) 0 s))

/-- O26. The control registers whose writes have behaviour of their own. A write of FRND leaves it where bits 2:0 are 7;
the pool registers BPBASE, BSZLOG, TPB and TOKB (supervisor) take the fields of their maps only while the pool is
idle, and wait for metadata that lies on another device; DOMAINW and PTROOT (supervisor) replace the domain and the
root and touch no cached translation; PRIO (supervisor) leaves a value above 3 unwritten, and otherwise sets the
ceiling, lowers the lease priority to it and is an arbitration event of the gang's halls. Each completes with the old
value in xA, as WRCR and as the row of its own. (R121, R224, R268, R159, R363, R97, R128, R333) -/
def Obligations.SpecialRegisterWrites : Prop :=
  ∀ (s : State) (o : R2),
    let v := s.xr o.b
    let low := fun k : Nat => word (v.toNat % 2 ^ k)
    let frnd := if v.toNat % 8 = 7 then s else { s with hart := { s.hart with frnd := v.setWidth 3 } }
    let pool := fun p : Partition => if poolIdle s then { s with part := p } else s
    let pools := [(0, 0x030, s.part.bpbase, pool { s.part with bpbase := low 52 }),
      (1, 0x031, s.part.bszlog, pool { s.part with bszlog := v &&& 0xFFFFFFFF0000001F }),
      (2, 0x032, s.part.tpb, pool { s.part with tpb := low 17 }), (3, 0x033, s.part.tokb, pool { s.part with tokb := low 20 })]
    let prio := { s with
      hart := { s.hart with prio := v.setWidth 2 }
      part := { s.part with gangs := s.part.gangs.map (fun g => if g.age = s.hart.gkey then { g with prio := min g.prio v.toNat } else g) } }
    exec (.frndWrite o) s = .next (frnd.wrote o.a (s.hart.frnd.setWidth 64) 4) ∧
    exec (.wrcr ⟨0x00D, o.b, o.a⟩) s = .next (frnd.wrote o.a (s.hart.frnd.setWidth 64) 4) ∧
    (s.isSuper →
      (∀ r ∈ (pools : List (BitVec 2 × BitVec 12 × Word × State)),
        ∀ i ∈ [Instr.poolRegisterWrite ⟨r.1, o.b, o.a⟩, .wrcr ⟨r.2.1, o.b, o.a⟩],
          (missingMeta s (poolBlocks s.part) = none → exec i s = .next (r.2.2.2.wrote o.a r.2.2.1 4)) ∧
          (∀ k m, missingMeta s (poolBlocks s.part) = some (k, m) → ∃ u : State, u = s.hasAsked k 1 m [] (.remote k m) ∧
            exec i s = .next { u with hart := { u.hart with reading := some .blk } })) ∧
      (s.part.cfg.windows = [] → missingMeta s (poolBlocks s.part) = none) ∧
      (∀ i ∈ [Instr.domainwWrite o, .wrcr ⟨0x80B, o.b, o.a⟩], exec i s = .next
        (({ s with hart := { s.hart with domain := v.setWidth 32 } } : State).wrote o.a (s.hart.domain.setWidth 64) 4)) ∧
      (∀ i ∈ [Instr.ptrootWrite o, .wrcr ⟨0x80A, o.b, o.a⟩], exec i s = .next
        (({ s with hart := { s.hart with ptroot := v &&& 0x0000FFFFFFFF8000 } } : State).wrote o.a s.hart.ptroot 4)) ∧
      ∀ i ∈ [Instr.prioWrite o, .wrcr ⟨0x80C, o.b, o.a⟩],
        (4 ≤ v.toNat → exec i s = .next (s.wrote o.a (s.hart.prio.setWidth 64) 4)) ∧
        (v.toNat < 4 → exec i s = .next
          ((arbitrateGang s.hart.pid s.hart.gkey prio).wrote o.a (s.hart.prio.setWidth 64) 4)))

/-- O27. What taking a trap saves and where the hart goes; without a handler it ends the hart. A trap other than TRAPI and
BREAK, taken where TVEC is not 0 and no trap is being handled: the strip rolls back to its checkpoint, bound masks
kept; TEPC is the checkpoint address, TSTAT.SK says whether a SETVL opened the strip, TSTAT.TRIM holds its trim limit,
TCAUSE, TVAL and TVALX are written, TLDL is the restored latch, TSTAT.PM is the mode, TSTAT.TK is set; the hart is in
supervisor mode at TVEC in a continuation strip with nothing in its mortar. Memory, the partition, the other harts
and, but for UNCOR, the device are as before; UNCOR sets DEVSTAT.UNC. A trap of any cause while TSTAT.TK is set or
TVEC is 0 runs no handler: the strip is rolled back (but after TRAPI and BREAK), the trap registers are written, one
entry of kind 1 with the cause, TVAL and TEPC is posted to the fault queue, and the hart ends with the exit value
0x8000000000000000 OR its cause, at once where no store of it and no payload of an engine for it is outstanding and
its exit word waits for nothing of another device, and else once these are performed and acknowledged. (R207, R205,
R206, R58, R208, R90, R161, R333) -/
def Obligations.TrapEntry : Prop :=
  (∀ (s : State) (c : Cause) (val valx : Word), c ≠ .trapi → c ≠ .brk → s.hart.hasHandler →
    takeTrap c val valx s = { s with
      hart := s.hart.inHandler c.code val valx
      dev := if c = .uncor then { s.dev with devstat := s.dev.devstat ||| 4 } else s.dev }) ∧
  ∀ (s : State) (c : Cause) (val valx : Word), ¬ s.hart.hasHandler →
    let h := s.hart.unhandled (decide (c = .trapi ∨ c = .brk)) c.code val valx
    let dev := if c = .uncor then { s.dev with devstat := s.dev.devstat ||| 4 } else s.dev
    let t := postHart false 1 c.code val h.tepc 0 { s with hart := h, dev := dev }
    let v : Word := 0x8000000000000000 ||| c.code.setWidth 64
    takeTrap c val valx s = endAfterStores v t ∧ (t.hart.settled t = true → t.ExitReady → endAfterStores v t = endHart v t) ∧
    (t.hart.settled t = false → endAfterStores v t = t.waits (.ending v))

/-- O28. TRAP and BREAK commit the strip and enter the handler; TRET returns from it. From a state in which nothing holds
the commit back: where a handler takes the trap, TRAP n and BREAK close the strip and enter the handler in supervisor
mode at TVEC: TEPC is the address after the instruction, TCAUSE is 0x0B with TVAL n, or 0x0C with TVAL 0, TSTAT.SK is
0 and TSTAT.TRIM all ones, TLDL is the latch, TSTAT.PM the mode; no register of the strip but the program counter
changes. In supervisor mode TRET closes the handler's strip and restores the mode from TSTAT.PM, clears TSTAT.TK,
restores the latch from TLDL, the trim limit from TSTAT.TRIM where TSTAT.SK is set and unlimited otherwise, and goes
on at TEPC in a continuation strip with the current VL; nothing else changes after the close. In user mode TRET traps
with PRIV, TVAL the word 0x0080003C, and closes nothing. (R130, R207, R209, R47, R64, R206) -/
def Obligations.TrapInstructionsAndReturn : Prop :=
  (∀ (s : State) (n : BitVec 5), s.Quiet → s.hart.hasHandler →
    exec (.trap n) s = .next { s.closed with hart := s.closed.hart.afterCall 0x0B (n.setWidth 64) } ∧
    exec .brk s = .next { s.closed with hart := s.closed.hart.afterCall 0x0C 0 }) ∧
  ∀ (s : State),
    (s.isSuper → s.Quiet → exec .tret s = .next { s.closed with hart := s.closed.hart.returned }) ∧
    (s.hart.mode = .user → exec .tret s = .next (takeTrap .priv 0x0080003C 0 s))

/-- O29. HALT stops its hart, TLBINV invalidates what it names, and user mode may run neither. In user mode TRET, HALT,
VSAVE, VRESTORE and TLBINV (and, in full service, FSAVE, FRESUME, GSWITCH and GRESUME after their strip is closed)
trap with PRIV, TVAL the instruction word. In supervisor mode with nothing holding the commit back: HALT closes the
strip, and its hart waits for the next entry posted, keeping its bricks and every register. TLBINV closes the strip
and removes from the translation cache exactly the translations of the partition that it names (kind 0 those of the
address in xB, kind 1 those of the current root without the G bit, kind 2 all); every hart of the partition whose open
strip holds one of them is marked, and so is one with stores on their way; where no other hart is so marked it
completes, and else its hart waits. Neither changes a byte of memory after the close, nor the strip of any hart. That
a store which has left its strip counts as made under an invalidated translation is the model's choice (log entry 27).
(R131, R132, R47, R63, R64, R346) -/
def Obligations.SupervisorInstructions : Prop :=
  (∀ (s : State) (b : XReg) (o : Tlb), s.hart.mode = .user →
    (∀ i ∈ [Instr.tret, .halt, .vsave b, .vrestore b, .tlbinv o], exec i s = .next (takeTrap .priv (faultWord i) 0 s)) ∧
    (isReduced s = false → s.Quiet → ∀ i ∈ [Instr.fsave b, .fresume b, .gswitch b, .gresume b],
      exec i s = .next (takeTrap .priv (faultWord i) 0 s.closed))) ∧
  ∀ (s : State), s.isSuper → s.Quiet →
    exec .halt s = .next (s.closed.waits (.halt s.closed.part.posted)) ∧
    ∀ (o : Tlb), o.k.toNat ≤ 2 →
      let t := s.closed.invalidated o.k (s.xr o.b)
      (¬ t.HeldElsewhere → exec (.tlbinv o) s = .next t.completed) ∧
      (t.HeldElsewhere → exec (.tlbinv o) s = .next (t.waits .tlbinv))

/-- O30. VSAVE writes the save area and frees the bricks; VRESTORE reads it back. In supervisor mode, with nothing holding
the commit back and xB a multiple of 64: where the whole area of R217 translates for store and no slot of it is
unreadable, VSAVE writes the header and vector state of the hart that VOWNER names (itself if none) over it, frees the
bricks with its tag, takes the vector state out of the hart (VOWNER.OUT set, and VAL clear in the issuing one) and
completes; memory outside the area and the leaf entries is as the commit left it. The area has the size, the header
and the place of every slot, mask bit and tile column of R217; the hart's own state is first cut to its grant where
that is due and it is in place. A page that cannot be stored to traps and nothing is written. With an unreadable slot
it writes the area before it and raises UNCOR with TVAL 0, and the tags stay (what of the area is written is the
model's choice, log entry 46). Where VOWNER names no hart, the area is readable and its header keeps the layout,
VRESTORE loads every slot, mask bit and column that is saved and lies within the grant, and zeros beyond, tags every
brick of the grant with the hart and completes with VOWNER.OUT clear; memory is unchanged. Where VOWNER names one it
raises VOWN; a header of another layout raises ILLSHAPE with TVAL xB, and a fault of a read, of the header or of the
rest, is taken with its own TVAL. What other harts had left in bricks of the grant under their tags is lost to them
(what they then hold is free: log entry 51). A misaligned xB traps with ALIGN. (R215, R216, R217, R102, R143, R213,
R214, R361) -/
def Obligations.VectorSaveAndRestore : Prop :=
  ∀ (s : State) (b : XReg), s.isSuper → s.Quiet →
    let a := s.xr b
    let c := s.closed
    let id := if c.hart.vowner.getLsbD 12 then (c.hart.vowner.extractLsb' 0 12).toNat else c.hart.id
    let g := (c.findHart c.hart.pid id).getD c.hart
    let h := if inPlace c g then g.placed else g
    let n := (c.tagged c.hart.pid id).length
    let area := saveArea h n h.lmod
    (a.toNat % 64 ≠ 0 → exec (.vsave b) s = .next (takeTrap .align a 0 c) ∧ exec (.vrestore b) s = .next (takeTrap .align a 0 c)) ∧
    (h.nreg = 8 ∨ h.nreg = 16 ∨ h.nreg = 32 → SaveLayout h n h.lmod area) ∧
    (a.toNat % 64 = 0 → ∀ e x y u, translateSpan .store (spanOf a.toNat (128 + 6144 * n * h.lmod)) c = .error (.trap e x y) u →
      exec (.vsave b) s = .next (takeTrap e x y u)) ∧
    (a.toNat % 64 = 0 → ∀ locs u, translateSpan .store (spanOf a.toNat (128 + 6144 * n * h.lmod)) c = .ok locs u →
      (lostFrom h n h.lmod = none → ∃ v : State, exec (.vsave b) s = .next v.completed ∧
        v = afterSave id (writeSpan locs area u) ∧
        (∀ x, v.ownerOf x = if x ∈ c.tagged c.hart.pid id ∧ c.ownerOf x = some id then none else c.ownerOf x) ∧
        v.harts = c.harts.map (fun g => if g.pid = c.hart.pid ∧ g.id = id ∧ g.status ≠ .absent then g.vectorsOut else g) ∧
        v.hart.vowner = (if c.hart.id = id ∧ c.hart.status ≠ .absent then c.hart.vowner ||| 0x8000 else c.hart.vowner) &&& ~~~0x1000 ∧
        ((∀ p ∈ locs, isRemote p.loc.key = false ∧ ∀ l, p.loc.leaf = some l → isRemote l.key = false) →
          ∀ k, (∀ p ∈ locs, ∀ l, p.loc.leaf = some l → k < l.key ∨ l.key + 8 ≤ k) →
            v.mem.get k = storedByte (c.mem.get k) (spanStores locs area) k)) ∧
      (∀ x, lostFrom h n h.lmod = some x → exec (.vsave b) s = .next (takeTrap .uncor 0 0 (writeSpan locs (area.take x) u)))) ∧
    (a.toNat % 64 = 0 → c.hart.vowner.getLsbD 12 = true → exec (.vrestore b) s = .next (takeTrap .vown c.hart.vowner 0 c)) ∧
    (a.toNat % 64 = 0 → c.hart.vowner.getLsbD 12 = false → ∀ e x y u, readSpan (spanOf a.toNat 128) c = .error (.trap e x y) u →
      exec (.vrestore b) s = .next (takeTrap e x y u)) ∧
    (a.toNat % 64 = 0 → c.hart.vowner.getLsbD 12 = false → ∀ hd u, readSpan (spanOf a.toNat 128) c = .ok hd u →
      let m := leNat hd
      ¬ (bitsOf m 0 32 = 1 ∧ (bitsOf m 32 8 = 8 ∨ bitsOf m 32 8 = 16 ∨ bitsOf m 32 8 = 32) ∧ bitsOf m 40 24 = 0 ∧
        bitsOf m 112 16 = 0 ∧ bitsOf m 224 32 = 0 ∧ bitsOf m 256 768 = 0) →
      exec (.vrestore b) s = .next (takeTrap .illshape a 0 u)) ∧
    (a.toNat % 64 = 0 → c.hart.vowner.getLsbD 12 = false → ∀ hd u,
      readSpan (spanOf a.toNat 128) c = .ok hd u →
      let m := leNat hd
      bitsOf m 0 32 = 1 → (bitsOf m 32 8 = 8 ∨ bitsOf m 32 8 = 16 ∨ bitsOf m 32 8 = 32) →
      bitsOf m 40 24 = 0 → bitsOf m 112 16 = 0 → bitsOf m 224 32 = 0 → bitsOf m 256 768 = 0 →
      let rest := readSpan (spanOf (a.toNat + 128) (4 * bitsOf m 128 32 * bitsOf m 32 8 + bitsOf m 160 32 / 8 * 8 + 256 * bitsOf m 192 32)) u
      (∀ e x y v, rest = .error (.trap e x y) v → exec (.vrestore b) s = .next (takeTrap e x y v)) ∧
      (∀ bs v, rest = .ok bs v →
        let foreign := fun (g : Hart) => g.pid = v.hart.pid ∧ ∃ x ∈ v.hart.grant, v.ownerOf x = some g.id
        ∃ t : State, exec (.vrestore b) s = .next t.completed ∧ t.mem = v.mem ∧ t.part = v.part ∧
          (∀ x, t.ownerOf x = if x ∈ v.hart.grant then some v.hart.id else v.ownerOf x) ∧
          ((∀ x ∈ v.hart.grant, v.ownerOf x = none ∨ v.ownerOf x = some v.hart.id) → t.harts = v.harts ∧ t.dev = v.tagGrant.dev) ∧
          (∃ f : Hart → Hart, t.harts = v.harts.map f ∧ ∀ g, (¬ foreign g → f g = g) ∧
            f g = { g with
              live := { g.live with v := (f g).live.v, m := (f g).live.m, t := (f g).live.t }
              ckpt := { g.ckpt with v := (f g).ckpt.v, m := (f g).ckpt.m, t := (f g).ckpt.t } }) ∧
          ∃ r, RestoredFrom (bitsOf m 32 8) (bitsOf m 128 32) (bitsOf m 160 32) (bitsOf m 192 32) bs v.hart r ∧
            t.hart = { r with vowner := v.hart.vowner &&& ~~~0x8000#64 }))

/-- O31. What the vector integer and floating-point arithmetic leaves. Each of the 55 integer and 38 floating-point vector
instructions (vector, scalar and compact forms) that nothing stops answers a next state: every active element of its
destination is the value of R184, R186 or R187 from the elements of the strip before it, floating values exact and
rounded once in SHAPE.RND (VFEXP2 and VFLOG2 as the model's choice of log entry 8 says); the rest of the destination
follows R182 (DestinationPolicy), the latch names the destination, the program counter moves past it, the bricks of
the grant carry the hart's tag, and nothing else changes. (R182, R183, R184, R185, R186, R187, R60, R109, R213) -/
def Obligations.VectorArithmeticResults : Prop :=
  ∀ (s : State) (i : Instr) (f : ElemForm), intForm s i = some f ∨ fltForm s i = some f → VectorLatch s i → (f.form s).Ready s →
    exec i s = .next ((f.form s).result s)

/-- O32. What widening arithmetic and VCVT leave. The widening instructions write the exact value rounded once into
elements twice as wide, in twice the registers per row. VCVT writes Conv of each element into the destination format
in its mode, SHAPE's mode for 7; for 6 it carries the residual EFC from one active element to the next in linear order
and leaves the last in EFC. Each answers a next state where nothing stops it; the rest of the destination follows
R182, and nothing else changes but the latch, the tags and the program counter. The sign of an exact zero from a zero
and a zero residual is the model's choice (log entry 55). (R188, R178, R177, R174, R182, R356) -/
def Obligations.VectorConversionResults : Prop :=
  ∀ (s : State) (i : Instr) f, convertForm s i = some f → f.Ready s → exec i s = .next (f.result s)

/-- O33. What the moves, merges, index vectors and permutes leave. VIOTA, VIDX, MMOVV, VMERGE, VMVS, VBCST, VMOV, c.vmov
and XCHG (with no unreadable slot in its source registers), and VRGATH, VSLUP, VSLDN and VCMPR where no active element
comes from another die block, answer a next state where nothing stops them: the destination holds the elements that
R191, R198 and R200 give under the policy of R182. VMVX writes element 0 of row 0 to xA, extended by its format, or 0.
Nothing else changes but the latch, the tags of the bricks and the program counter. (R191, R197, R198, R199, R200,
R182, R60) -/
def Obligations.MoveAndPermuteResults : Prop :=
  (∀ (s : State) (i : Instr) (f : ElemForm), moveForm s i = some f → (f.form s).Ready s →
    (∀ o, i = .xchg o → ∀ u ∈ s.owned.hart.live.lost,
      ¬ (o.b.toNat ≤ u.1 ∧ u.1 < o.b.toNat + rowsOf s.hart.live.shape * s.q)) →
    exec i s = .next ((f.form s).result s)) ∧
  ∀ (s : State) (i : Instr) (f : VectorForm), permForm s i = some f → f.Ready s → exec i s = .next (f.result s)

/-- O34. What the compares and the mask instructions leave. Each compare, where nothing stops it, writes bit e of its mask
as the relation of R190 of the two elements, under its predicate and the policy of R189 (DestinationPolicy). MAND,
MOR, MXOR, MANDN, MNOT and MSETX write every bit below VL; MCLR clears every bit; MPOP and MFIRST write the count and
the position of the first active set bit (all ones for none) to xA. Nothing else changes but the latch, the tags and
the program counter. (R189, R190, R191, R192, R183) -/
def Obligations.CompareAndMaskResults : Prop :=
  ∀ (s : State) (i : Instr) f, boolForm s i = some f → f.Ready s → exec i s = .next (f.result s)

/-- O35. What the reductions leave. Each reduction, where nothing stops it, writes xA and changes nothing else but the
latch, the tags and the program counter. The value is the fold of R193 to R196 over the active elements of every row
in linear order from the low bits of xC: rounded after each addition (VRSUMO), over the balanced tree of the positions
(VRSUMT), or the integer or floating choice, extended as R193 says. VRMAXI and VRMAXFI give xC plus the least linear
index of the greatest active element, NaNs left out, and all ones where none takes part. (R193, R194, R195, R196) -/
def Obligations.ReductionResults : Prop :=
  (∀ (s : State) (i : Instr) (f : VectorForm), reduceForms s i = some f → f.Ready s → exec i s = .next (f.result s)) ∧
  ∀ (s : State) (i : Instr) o admits part less, indexForm i = some (o, admits, part, less) →
    (reduceForm s admits o fun _ _ _ => 0).Ready s →
    let p := shapeOf s
    let st := s.owned.hart.live
    let xs := (linear p st o.m o.b).filter (fun x => part p x.2)
    (xs = [] → exec i s = .next (s.owned.vectorDone (st.setX o.a (wi (-1))) 4)) ∧
    ∀ n, greatest (less p) xs n → exec i s = .next (s.owned.vectorDone (st.setX o.a (s.xr o.c + word n)) 4)

/-- O36. What TMAC, TZERO, TROW and TSETROW leave. Where nothing stops them, with VL within the columns of a tile: TMAC
adds eight products to each element below VL of the 16 rows of each of its tiles, the exact sum rounded once or taken
modulo 2^32; TZERO clears a tile; TSETROW writes the active elements of a vector to a row; TROW moves a row to a
vector. Every other tile element and everything else is as before, but for the latch of TROW, the tags and the program
counter; tile elements that are written are readable again. (R201, R202, R203, R181) -/
def Obligations.TileResults : Prop :=
  (∀ (s : State) (i : Instr) (f : TileForm), tileForms s i = some f → f.form.Ready s →
    let p := shapeOf s
    let old := s.owned.hart.live
    ∃ t : Vector Tile 4,
      let st : Strip := { old with
        t := t
        lost := old.lost.filter (fun u => !(decide (32 ≤ u.1) && f.writes p old ((u.1 - 32) / 16) ((u.1 - 32) % 16) u.2)) }
      exec i s = .next (s.owned.vectorDone st 4) ∧
      ∀ q r c, q < 4 → r < 16 → st.tile q r c = if f.writes p old q r c = true then f.val p old q r c else old.tile q r c) ∧
  ∀ (s : State) (o : Trw), (trowForm s o).Ready s → exec (.trow o) s = .next ((trowForm s o).result s)

/-- O37. What the destination of a vector instruction holds afterwards. A vector destination of register groups: an active
element below VL takes its value, an inactive one keeps its own or becomes 0 as SHAPE.MSKP says, an element from VL to
the capacity keeps its own or becomes 0 as SHAPE.TAIL says, and every register outside the groups is unchanged; the
latch names the register, and a slot that is written whole is readable again. A mask destination: the same for its
bits, from VL on without an upper bound; the other masks and the rest of the strip are unchanged. (R182, R109, R189,
R35) -/
def Obligations.DestinationPolicy : Prop :=
  (∀ (p : Shp) (g : Grp) (m : MReg) (v : VReg) (f : Nat → Nat → Nat) (st : Strip), g.w ∈ [8, 16, 32, 64] → 0 < g.m → 0 < g.q →
    v.toNat + p.rows * g.q ≤ 32 → p.vl ≤ g.q * g.m * 32 / g.w →
    let t := writeRows p g m v f st
    (∀ r e, r < p.rows → e < p.vl → getElem t g v r e =
      if st.active m e = true then f r e % 2 ^ g.w else if p.mz = true then 0 else getElem st g v r e) ∧
    (∀ r e, r < p.rows → p.vl ≤ e → e < g.q * g.m * 32 / g.w → getElem t g v r e = if p.tz = true then 0 else getElem st g v r e) ∧
    (∀ k (_ : k < 32), k < v.toNat ∨ v.toNat + p.rows * g.q ≤ k → t.v[k] = st.v[k]) ∧
    (∀ u, u ∈ t.lost → u ∈ st.lost) ∧
    (∀ u ∈ st.lost, u.1 < v.toNat ∨ v.toNat + p.rows * g.q ≤ u.1 → u ∈ t.lost) ∧
    (g.w = 32 → ∀ r e, r < p.rows → e < p.vl → st.active m e = true → (v.toNat + r * g.q + e / g.m, e % g.m) ∉ t.lost) ∧
    t = { st with
      v := t.v
      ldl := 0b11#2 ++ v
      lost := t.lost }) ∧
  ∀ (p : Shp) (m d : MReg) (f : Nat → Bool) (st : Strip),
    let t := writeMask p m d f st
    (∀ e, e < p.vl → t.bit d.toNat e = if st.active m e = true then f e else if p.mz = true then false else st.bit d.toNat e) ∧
    (∀ e, p.vl ≤ e → t.bit d.toNat e = if p.tz = true then false else st.bit d.toNat e) ∧
    (∀ k (_ : k < 8), k ≠ d.toNat → t.m[k] = st.m[k]) ∧
    t = { st with m := t.m }

/-- O38. The faults of a vector instruction, in their order. For every vector instruction on registers: a compact one
whose latch does not name a vector register traps with ILL; then a format, mode or row count that it does not admit
traps with ILL; then registers past NREG or more than eight with ILLSHAPE; then a mask that a copy is bound to with
CMBUSY, TVAL the mask; then vector state that is not in place with VOWN, TVAL and VOWNER naming the hart of R214;
then, of an element-wise one with no stream bound near its operands, a source with an unreadable slot under its
elements with UNCOR, TVAL 0. TVAL of the others is the instruction word. The faults of its own follow, where no slot
is unreadable: an operand group that overlaps the registers of a bound stream without starting at it is ILLSHAPE,
which comes first of all; TMAC with a capacity below 128, and TMAC, TROW and TSETROW with VL past the columns of a
tile, ILLSHAPE; VRGATH, VSLUP, VSLDN and VCMPR of a spread hart XDIE, TVAL the least linear index whose element comes
from another die block. Nothing else of the state changes before the trap, but for the re-layout that was due and the
owner tags once the state is in place. State is in place where every brick tagged with the hart lies in its grant, no
brick of the grant has another tag, and OUT is 0; VOWNER names the tag of the lowest foreign brick of the grant (by
hall first: the model's choice, log entry 51), else the hart itself where a brick of it lies outside, else nothing.
(R57, R61, R136, R181, R192, R214, R213, R361, R199, R202, R203, R262) -/
def Obligations.VectorFaultOrder : Prop :=
  ∀ (s : State) (i : Instr) f, vectorForm s i = some f →
    (¬ VectorLatch s i → exec i s = .next (takeTrap .ill (faultWord i) 0 s)) ∧
    (VectorLatch s i →
      (¬ f.formats → exec i s = .next (takeTrap .ill (faultWord i) 0 s)) ∧
      (f.formats → ¬ f.Fits s → exec i s = .next (takeTrap .illshape (faultWord i) 0 s)) ∧
      (f.formats → f.Fits s → ∀ m, f.mask = some m → ¬ f.MaskFree s → exec i s = .next (takeTrap .cmbusy (m.setWidth 64) 0 s)) ∧
      (f.formats → f.Fits s → f.MaskFree s → inPlace s s.hart = false →
        exec i s = .next (takeTrap .vown (ownerFound s) 0 { s with
          hart := { s.hart with vowner := ownerFound s } })) ∧
      (f.formats → f.Fits s → f.MaskFree s → inPlace s s.hart = true → f.Unbound s → ∀ g : ElemForm,
        intForm s i = some g ∨ fltForm s i = some g →
          (∃ v ∈ g.srcs, ∃ u ∈ s.owned.hart.live.lost, readsLost (shapeOf s) (v, s.q) u = true) →
        exec i s = .next (takeTrap .uncor 0 0 s.owned)) ∧
      (f.formats → f.Fits s → f.MaskFree s → inPlace s s.hart = true →
        ((∃ g ∈ f.groups, ∃ b ∈ s.hart.binds, b.reg ≠ g.1 ∧ g.1.toNat < b.reg.toNat + s.q ∧
            b.reg.toNat < g.1.toNat + rowsOf s.hart.live.shape * g.2) →
          exec i s = .next (takeTrap .illshape (faultWord i) 0 s.owned)) ∧
        (f.Unbound s → s.owned.hart.live.lost = [] →
          (∀ n, tileLeast i = some n → (shapeOf s).cap < n ∨ s.hart.bricks * s.hart.lmod * 16 < (shapeOf s).vl →
            exec i s = .next (takeTrap .illshape (faultWord i) 0 s.owned)) ∧
          ∀ m source, permSource s i = some (m, source) → ∀ r e, r < (shapeOf s).rows → e < (shapeOf s).vl → s.Crosses m source r e →
            (∀ q d, q < (shapeOf s).rows → d < (shapeOf s).vl → q < r ∨ (q = r ∧ d < e) → ¬ s.Crosses m source q d) →
            exec i s = .next (takeTrap .xdie (word (r * (shapeOf s).vl + e)) 0 s.owned)))) ∧
    ∀ h, (inPlace s h = true ↔ s.InPlace h) ∧ (inPlace s s.hart = false → FindsOwner s (ownerFound s))

/-- O39. What the vector loads leave. VLDU, VLDS, VLDX and VLD2D, where nothing stops them the checks of every active
element pass and the bytes of other devices have come: element (r, e) takes the bytes at its address of R148 as the
hart sees them, under the policy of R182. Where bytes of another device are missing, the hart asks for the first of
them and waits, the machine but for that as before. VLDB reads its one address once and gives it to every active
element. Nothing else changes but the latch, the tags of the bricks, the program counter and what the translations
leave. (R148, R150, R149, R153, R182, R72, R333) -/
def Obligations.VectorLoadResults : Prop :=
  ∀ (s : State),
    (∀ (i : Instr) (f : AccessForm), vectorLoad s i = some f → (f.form s).Ready s →
      ∀ locs t, checkElems .load ((shapeOf s).w / 8) (f.elts s) s.owned = .ok (locs, none) t → t.HasCome ((shapeOf s).w / 8) locs →
      ∀ val : Nat → Nat → Nat,
        (∀ x ∈ locs, val x.1.row x.1.e = t.elementAt x.2 ((shapeOf s).w / 8)) →
        exec i s = .next (t.vectorDone (f.loaded s val t.hart.live) 4)) ∧
    (∀ (i : Instr) (f : AccessForm), vectorLoad s i = some f → (f.form s).Ready s →
      ∀ k m t, loadElems ((shapeOf s).w / 8) (f.elts s) s.owned = .error (.remote k m) t →
        exec i s = .next (s.hasAsked k 1 m [] (.remote k m))) ∧
    ∀ (o : VM2), let f : AccessForm := ⟨o.m, o.a, none, fun _ _ _ _ => s.xr o.b⟩
      (f.form s).Ready s →
      (f.elts s = [] → exec (.vldb o) s = .next (s.owned.vectorDone (f.loaded s (fun _ _ => 0) s.owned.hart.live) 4)) ∧
      ∀ x xs loc t, f.elts s = x :: xs → checkElems .load ((shapeOf s).w / 8) [x] s.owned = .ok ([(x, loc)], none) t →
        t.HasCome ((shapeOf s).w / 8) [(x, loc)] →
        exec (.vldb o) s = .next
          (t.vectorDone (f.loaded s (fun _ _ => t.elementAt loc ((shapeOf s).w / 8)) t.hart.live) 4)

/-- O40. What the vector stores leave. VSTU, VSTS, VSTX, VSTUU, VSTXU and VST2D, where nothing stops them. Where the
stores do not fit beside what the mortar holds and the strip is not fresh, the strip is closed first and the
instruction runs again. Else, where the checks of every active element pass, the active elements join the mortar in
linear order, each at the place of its address of R148; memory and every register are as before, but for what the
translations leave. A store larger than the whole mortar, in a fresh strip, closes the strip with it. The ascending
order of VSTUU and VSTXU, the count of chunks by virtual address and the order of room and checks are the model's
choices (log entries 12 and 25). (R148, R150, R149, R145, R146, R211) -/
def Obligations.VectorStoreResults : Prop :=
  ∀ (s : State) (i : Instr) (f : AccessForm), vectorStore s i = some f → (f.form s).Ready s →
    let n := (shapeOf s).w / 8
    (¬ StoresFit s (f.addrs s) → s.hart.isFresh = false →
      exec i s = .next (closeStrip false s).1 ∧ (s.Quiet → exec i s = .next s.closed)) ∧
    (StoresFit s (f.addrs s) ∨ s.hart.isFresh = true → ∀ locs t, checkElems .store n (f.elts s) s.owned = .ok (locs, none) t →
      let sts := locs.map (fun x =>
        mkStore x.1.addr x.2 (leBytes n (getElem t.hart.live (shapeOf s).grp f.a x.1.row x.1.e)))
      let u : State := { t with
        hart := { t.hart with
          mortar := t.hart.mortar ++ sts
          live := { t.hart.live with pc := t.hart.live.pc + 4 }
          pending := t.hart.pending + 1
          reply := []
          refused := []
          reading := none } }
      (StoresFit s (f.addrs s) → exec i s = .next u) ∧
      (¬ StoresFit s (f.addrs s) → exec i s = .next (closeStrip false u).1 ∧ (u.Quiet → exec i s = .next u.closed)))

/-- O41. A faulting element traps or trims, and nothing is accessed. Where an active element of a vector load or store
fails a check, no destination is written and no store is buffered: a fault at element 0, or in a strip that no SETVL
opened, traps with TVAL the element and TVALX its address; any other rolls the strip back to its SETVL with the trim
limit lowered to the element. VLDB faults so for its one address, at its first active element, and waits for its bytes
where they lie on another device. An element fails with ALIGN where its address is no multiple of the element size,
else with the cause of its translation, else with DEVIO on a page with D, else, a load, with UNCOR over a damaged
word; else it passes with its place. The fault reported is one of an element of the access, with its address; every
element before it, by element and then row, has passed, and none of them has bytes that another device has refused.
That room in the mortar is looked at before the faults of a store is the model's choice (log entry 25). (R148, R150,
R151, R152, R144, R160, R333, R334, R361) -/
def Obligations.VectorElementFaults : Prop :=
  ∀ (s : State) (i : Instr) (f : AccessForm), (f.form s).Ready s →
    let n := (shapeOf s).w / 8
    (vectorLoad s i = some f → ∀ locs e t, loadElems n (f.elts s) s.owned = .ok (locs, some e) t →
      exec i s = .next (t.elementFault e)) ∧
    (vectorStore s i = some f → StoresFit s (f.addrs s) ∨ s.hart.isFresh = true →
      ∀ locs e t, checkElems .store n (f.elts s) s.owned = .ok (locs, some e) t → exec i s = .next (t.elementFault e)) ∧
    (∀ o : VM2, i = .vldb o → f = ⟨o.m, o.a, none, fun _ _ _ _ => s.xr o.b⟩ → ∀ x xs, f.elts s = x :: xs →
      (∀ locs e t, loadElems n [x] s.owned = .ok (locs, some e) t → exec i s = .next (t.elementFault e)) ∧
      ∀ k m t, loadElems n [x] s.owned = .error (.remote k m) t → exec i s = .next (s.hasAsked k 1 m [] (.remote k m))) ∧
    (∀ k x u, let bad := fun c : Cause => Except.error (EFault.mk x.e x.row c x.addr)
      (x.addr.toNat % n ≠ 0 → checkElem k n x u = .ok (bad .align) u) ∧
      (x.addr.toNat % n = 0 → ∀ t,
        (∀ c, xlate k x.addr u = (t, .error (.cause c)) → checkElem k n x u = .ok (bad c) t) ∧
        ∀ loc, xlate k x.addr u = (t, .ok loc) →
          (loc.dev = true → checkElem k n x u = .ok (bad .devio) t) ∧
          (loc.dev = false → k = .load → isRemote loc.key = false → (damagedByte t loc.key n).isSome = true →
            checkElem k n x u = .ok (bad .uncor) t) ∧
          (loc.dev = false → ¬ (k = .load ∧ isRemote loc.key = false ∧ (damagedByte t loc.key n).isSome = true) →
            checkElem k n x u = .ok (.ok loc) t))) ∧
    ∀ k xs u locs e t, checkElems k n xs u = .ok (locs, some e) t ∨ (k = .load ∧ loadElems n xs u = .ok (locs, some e) t) →
      (∃ x ∈ xs, x.e = e.e ∧ x.row = e.row ∧ x.addr = e.addr ∧ (e.cause = .align ↔ x.addr.toNat % n ≠ 0) ∧
        ((∃ v w, checkElem k n x v = .ok (.error e) w) ∨
          (e.cause = .uncor ∧ ∃ loc, (x, loc) ∈ locs ∧ isRemote loc.key = true ∧ (t.hart.refusedByte loc.key n).isSome = true))) ∧
      ∀ x ∈ xs, x.e < e.e ∨ (x.e = e.e ∧ x.row < e.row) → ∃ v w loc, checkElem k n x v = .ok (.ok loc) w ∧ (x, loc) ∈ locs ∧
        (k = .load → loadElems n xs u = .ok (locs, some e) t → isRemote loc.key = true → t.hart.refusedByte loc.key n = none)

/-- O42. What SETSHAPE and SETSHAPEI do. SETSHAPE takes s from xB and SETSHAPEI from IMM15. Where bits 63:15 of s are zero
and bits 5:0 name a format, SHAPE becomes s[14:0] and VL the least of VL and the capacity under the new shape; the
strip is not closed, and nothing else changes, LDL and VLGRANT included, but the program counter. Otherwise it traps
with ILLSHAPE, TVAL the instruction word. (R139) -/
def Obligations.ShapeResults : Prop :=
  ∀ (s : State),
    let result := fun (sh : BitVec 15) => { s with
      hart := { s.hart with
        live := { s.hart.live with
          shape := sh
          vl := BitVec.ofNat 32 (min s.hart.live.vl.toNat (s.hart.capacity sh))
          pc := s.hart.live.pc + 4 }
        pending := s.hart.pending + 1
        reply := []
        refused := []
        reading := none } }
    (∀ (b : XReg), let v := s.xr b
      (v.toNat < 2 ^ 15 ∧ isFormat (v.setWidth 6) = true → exec (.setshape b) s = .next (result (v.setWidth 15))) ∧
      (¬ (v.toNat < 2 ^ 15 ∧ isFormat (v.setWidth 6) = true) →
        exec (.setshape b) s = .next (takeTrap .illshape (faultWord (.setshape b)) 0 s))) ∧
    ∀ (imm : BitVec 15),
      (isFormat (imm.setWidth 6) = true → exec (.setshapei imm) s = .next (result imm)) ∧
      (isFormat (imm.setWidth 6) = false → exec (.setshapei imm) s = .next (takeTrap .illshape (faultWord (.setshapei imm)) 0 s))

/-- O43. What SETVL takes, writes and opens. With nothing holding its commit back, SETVL closes the strip and takes its
grant. Where it holds what it must hold, it opens a strip whose checkpoint is the SETVL before xA is written, with VL
and xA the least of xB, VLGRANT and the trim limit, VLGRANT the capacity under the bricks held, BRICKS their count;
memory is as the commit left it, and the bricks left over go to the harts that wait. Where it does not, the hart waits
for bricks. A hart that is not spread is to hold its share of its hall, in a gang of several the share that its phase
has fixed; of the bricks it has it keeps the lowest-numbered usable ones, and it takes usable ones that no live hart
holds, those with its own tag before untagged ones before others, each group in ascending number, as far as there are
any; bricks of other halls stay. Its registers, masks and tiles are as before, and a re-layout is due: at the next
vector instruction they are cut to the least number of lanes that the hart has held since they were last in place, and
zero beyond (log entry 51). It goes on where it then holds one brick, its lease minimum and, in a gang of several, the
whole share. So it completes exactly where the bricks it can reach are enough: its own usable ones and the offered
ones that no live hart has. A hart alone in its gang that holds its share of at least its minimum keeps just what it
has. That SETVL counts in INSTRET with the strip it opens, and the VL of its checkpoint, are the model's choices (log
entry 25), and so are a gang of several by its declared size and a brick that counts as retired with its last lane
(log entries 52 and 51). (R138, R98, R144, R205, R136, R107, R96, R213, R100, R102) -/
def Obligations.SetvlResults : Prop :=
  ∀ (s : State) (o : R2), s.Quiet →
    (∀ u, takeGrant s.atGrant = (u, true) →
      let g := settleGrant u
      let vl := limited (min (s.xn o.b) g.hart.vlgrant.toNat) s.atGrant.hart.trim
      exec (.setvl o) s = .next (handOn s.atGrant.hart { g with hart := g.hart.opened o.a vl }) ∧
      g.hart.bricks = g.hart.grant.length ∧ g.hart.vlgrant = BitVec.ofNat 32 (g.hart.capacity s.hart.live.shape) ∧
      g.hart.live = s.hart.live ∧ g.hart.cut = some (limited (g.hart.bricks * g.hart.lmod) s.hart.cut) ∧
      g.mem = s.closed.mem ∧ g.parts = s.closed.parts) ∧
    (∀ u, takeGrant s.atGrant = (u, false) → exec (.setvl o) s = .next (handOn s.atGrant.hart (u.waits .grant))) ∧
    (s.hart.spread = false → s.hart.isLive = true → s.atGrant.TakesGrant (takeGrant s.atGrant).1 (takeGrant s.atGrant).2) ∧
    ((∀ g, s.atGrant.gang = some g → g.declared ≤ 1 ∧ g.min ≤ (s.atGrant.hart.holds s.hart.hall).length) → s.hart.spread = false →
      0 < (s.atGrant.hart.holds s.hart.hall).length →
      (∀ x ∈ s.atGrant.hart.holds s.hart.hall, s.usable x = true) →
      (s.atGrant.hart.holds s.hart.hall).length = shareOf s.atGrant s.hart.hall s.hart.pid s.hart.gkey →
      takeGrant s.atGrant = (s.atGrant, true)) ∧
    (let a := s.atGrant
      let n := min a.phaseTarget a.reachable.length
      s.hart.isLive = true → 0 < n → (∀ g, a.gang = some g → g.min ≤ n ∧ (1 < g.declared → a.phaseTarget ≤ a.reachable.length)) →
      ∃ u, takeGrant a = (u, true) ∧ (s.hart.spread = false → (u.hart.holds s.hart.hall).length = n) ∧
        exec (.setvl o) s = .next (handOn a.hart { settleGrant u with
          hart := (settleGrant u).hart.opened o.a (limited (min (s.xn o.b) (settleGrant u).hart.vlgrant.toNat) a.hart.trim) })) ∧
    ∀ h : Hart, h.PlacedBy h.placed

/-- O44. What VCONF does. With the vector state in place and nothing holding the commit back, VCONF n closes the strip.
Where no bound stream register is at or above 8 × 2^n, NREG becomes 8 × 2^n, every vector register and every tile is
zero, masks and bindings are kept, and VL is cut to the capacity; else it traps with ILLSHAPE. Where the state is not
in place it traps with VOWN and closes nothing: that VOWN is looked at before the close is the model's choice (log
entry 29). (R140, R57, R214, R136) -/
def Obligations.VconfResults : Prop :=
  ∀ (s : State) (n : BitVec 5), n.toNat ≤ 2 →
    let regs := 8 * 2 ^ n.toNat
    (inPlace s s.hart = true → s.Quiet →
      let c := s.owned.closed
      ((∀ b ∈ s.hart.binds, b.reg.toNat < regs) →
        let h : Hart := { c.hart with nreg := regs }
        exec (.vconf n) s = .next (({ c with
          hart := { h with
            live := { h.live with
              v := Vector.replicate 32 []
              t := Vector.replicate 4 (Vector.replicate 16 [])
              lost := []
              vl := BitVec.ofNat 32 (min h.live.vl.toNat (h.capacity h.live.shape)) } } } : State).completed)) ∧
      ((∃ b ∈ s.hart.binds, regs ≤ b.reg.toNat) → exec (.vconf n) s = .next (takeTrap .illshape (faultWord (.vconf n)) 0 c))) ∧
    (inPlace s s.hart = false → exec (.vconf n) s = .next (takeTrap .vown (ownerFound s) 0 { s with
      hart := { s.hart with vowner := ownerFound s } }))

/-- O45. VCLOSE closes the strip and has no other effect. With nothing holding the commit back, VCLOSE closes the open
strip: the stores of the mortar are performed in order over memory, apart from the leaf entries that the commit marks,
and the mortar is empty. A continuation strip opens after it with the same VL and every other register of the strip as
before; the device, the partition and the other harts are as the commit left them. (R141) -/
def Obligations.VcloseHasNoOtherEffect : Prop :=
  ∀ (s : State), s.Quiet →
    exec .vclose s = .next s.closed.completed ∧ s.closed.completed.hart.mortar = [] ∧
    s.closed.completed.hart.live = { s.hart.live with pc := s.hart.live.pc + 4 } ∧
    s.closed.completed.hart.ckpt = s.closed.completed.hart.live ∧ s.closed.completed.hart.ckptSetvl = false ∧
    s.closed.completed.part = s.part ∧ s.closed.completed.parts = s.parts ∧ s.closed.completed.harts = s.harts ∧
    s.closed.completed.dev = { s.dev with
      tlb := s.closed.dev.tlb
      damaged := s.closed.dev.damaged } ∧
    ∀ k, (∀ st ∈ s.hart.mortar, ∀ l, st.leaf = some l → k < l ∨ l + 8 ≤ k) →
      s.closed.completed.mem.get k = storedByte (s.mem.get k) s.hart.mortar k

/-- O46. What VBIND, VUNBIND, VSPOS and VSFLUSH do. With the copy engine ready: VBIND of a well-formed record at a
multiple of 64, of an unbound register below NREG and with fewer than eight bindings, adds the binding with its
position, and else traps with SBIND, TVAL the address. VUNBIND writes the position to the record and drops the
binding; VSFLUSH writes it and keeps the binding; VSPOS answers the old position and sets the new one where C is not
x0, or traps with SEND past the length. An unbound register traps with SUNBOUND. Each closes the strip and is accepted
by the copy engine. (R256, R257, R259, R7, R339) -/
def Obligations.StreamBinding : Prop :=
  ∀ (s : State), EngineReady s .copy →
    let c := s.closed
    let go := c.accepts .copy
    (∀ (o : R2), let a := s.xr o.b
      (a.toNat % 64 ≠ 0 → exec (.vbind o) s = .next (takeTrap .align a 0 c)) ∧
      (a.toNat % 64 = 0 → ∀ r, c.recordAt a 64 = some r →
        let ok := StreamRecord r ∧ o.a.toNat < s.hart.nreg ∧ (∀ b ∈ s.hart.binds, b.reg ≠ o.a) ∧ s.hart.binds.length < 8
        (ok → exec (.vbind o) s = .next (({ go with
          hart := { go.hart with binds := go.hart.binds ++ [describedStream o.a a r] } } : State).withPos o.a (field r 48 0 64)).completed) ∧
        (¬ ok → exec (.vbind o) s = .next (takeTrap .sbind a 0 c)))) ∧
    (∀ (v : VReg), (∀ b ∈ s.hart.binds, b.reg ≠ v) →
      exec (.vunbind v) s = .next (takeTrap .sunbound (v.setWidth 64) 0 c) ∧
      exec (.vsflush v) s = .next (takeTrap .sunbound (v.setWidth 64) 0 c) ∧
      ∀ (o : R3), o.b = v → exec (.vspos o) s = .next (takeTrap .sunbound (v.setWidth 64) 0 c)) ∧
    ∀ (v : VReg) b, s.hart.binds.find? (fun b => b.reg == v) = some b →
      let pos := assocGet s.hart.live.pos v 0
      (∀ loc, engineXlate c (c.issuer .copy 0) .store (b.recVa + 48) = .ok loc →
        let u := go.engineStore (c.issuer .copy (c.hart.ordinal .copy)) none loc (leBytes 8 pos)
        exec (.vsflush v) s = .next u.completed ∧
        exec (.vunbind v) s = .next ({ u with
          hart := { u.hart with
            binds := u.hart.binds.filter (fun x => x.reg != v)
            live := { u.hart.live with pos := u.hart.live.pos.filter (fun x => x.1 != v) } } } : State).completed) ∧
      ∀ (o : R3), o.b = v →
        (o.c = 0 → exec (.vspos o) s = .next (go.answered o.a (word pos))) ∧
        (o.c ≠ 0 → s.xn o.c ≤ b.len → exec (.vspos o) s = .next ((go.withPos v (s.xn o.c)).answered o.a (word pos))) ∧
        (o.c ≠ 0 → b.len < s.xn o.c → exec (.vspos o) s = .next (takeTrap .send (s.xr o.c) 0 c))

/-- O47. A source register bound for load pops its stream; a destination bound for store appends. For every element-wise
instruction (the integer and floating-point arithmetic, moves and merges, vector, scalar and compact) with one
register bound. A source bound for load first takes the next VL elements of its stream, converted once into SHAPE's
format where the formats differ or a scale stream gives a scale, its tail by SHAPE.TAIL; the position goes on by VL. A
destination bound for store, after the write, appends its first VL elements, converted and divided by their scales, to
the mortar, and the position goes on by VL. Past the length, both ways, the first element without a place faults with
SEND: nothing is popped, written or appended, TVAL is the element and TVALX 0, or the strip is trimmed to it. With
more than one row both raise ILLSHAPE, TVAL the instruction word. (R260, R261, R263, R152, R175) -/
def Obligations.StreamPopAndAppend : Prop :=
  ∀ (s : State) (i : Instr) (f : ElemForm) b, intForm s i = some f ∨ fltForm s i = some f ∨ moveForm s i = some f → VectorLatch s i →
    (f.form s).formats → (f.form s).Fits s → (f.form s).Intact s → (∀ o, i = .xchg o → s.owned.hart.live.lost = []) →
    inPlace s s.hart = true → 0 < s.hart.live.vl.toNat → s.bindingOf b.reg = some b →
    (∀ x ∈ s.hart.binds, ∀ v ∈ f.a :: f.srcs, (x = b ∧ v = b.reg) ∨ x.reg.toNat + s.q ≤ v.toNat ∨
      v.toNat + rowsOf s.hart.live.shape * s.q ≤ x.reg.toNat) →
    let p := shapeOf s
    let n := widthOf b.fmt / 8
    let pos := assocGet s.hart.live.pos b.reg 0
    (b.reg ∈ f.srcs → b.store = false → b.reg ≠ f.a →
      (1 < rowsOf s.hart.live.shape → exec i s = .next (takeTrap .illshape (faultWord i) 0 s.owned)) ∧
      (rowsOf s.hart.live.shape = 1 →
        (pos + p.vl ≤ b.len → (mortarChunks s.hart).length ≤ mortarSize s.hart →
          ∀ locs scs t, StreamChecked true b pos p.vl s.owned locs scs t →
          ∀ val : Nat → Nat, (∀ x ∈ locs, ∃ c, ScaleIs t scs x.1.e c ∧
            val x.1.e = streamValue b.fmt p.ew true c (t.elementAt x.2 n)) →
          let st : Strip := { t.hart.live.filled p b.reg val with pos := assocSet t.hart.live.pos b.reg (pos + p.vl) }
          exec i s = .next (t.vectorDone ((f.form s).effect st) f.len)) ∧
        (b.len < pos + p.vl → ∀ locs scs t, StreamChecked true b pos (b.len - pos) s.owned locs scs t →
          exec i s = .next (t.elementFault ⟨b.len - pos, 0, .send, 0⟩)))) ∧
    (b.reg = f.a → b.store = true →
      (1 < rowsOf s.hart.live.shape → exec i s = .next (takeTrap .illshape (faultWord i) 0 s.owned)) ∧
      (rowsOf s.hart.live.shape = 1 →
        (pos + p.vl ≤ b.len → StoresFit s ((streamElements b pos p.vl).map (·.addr)) →
          ∀ locs scs t, StreamChecked false b pos p.vl s.owned locs scs t →
          ∀ val : Nat → Nat, (∀ x ∈ locs, ∃ c, ScaleIs t scs x.1.e c ∧
            val x.1.e = streamValue p.ew b.fmt false c (p.el ((f.form s).effect t.hart.live) f.a 0 x.1.e)) →
          (∀ u ∈ s.owned.hart.live.lost, u.1 < f.a.toNat ∨ f.a.toNat + s.q ≤ u.1) →
          let st := (f.form s).effect t.hart.live
          let sts := locs.map (fun x => mkStore x.1.addr x.2 (leBytes n (val x.1.e)))
          exec i s = .next (({ t with
            hart := { t.hart with mortar := t.hart.mortar ++ sts } } : State).vectorDone
              { st with pos := assocSet st.pos f.a (pos + p.vl) } f.len)) ∧
        (b.len < pos + p.vl → StoresFit s ((streamElements b pos (b.len - pos)).map (·.addr)) →
          ∀ locs scs t, StreamChecked false b pos (b.len - pos) s.owned locs scs t →
          exec i s = .next (t.elementFault ⟨b.len - pos, 0, .send, 0⟩))))

/-- O48. What HSPAWN, HEXIT, LEASE, GARRIVE, GWAIT and HJOIN do. With nothing holding the commit back, each closes its
strip. HSPAWN of a readable record at a multiple of 64 answers −4, −2, −3 or −1 in the order of R89, or creates the
hart of the record with the lowest free id, as R87 says, in its gang, and answers the id; a misaligned record traps
with ALIGN, a byte that cannot be read with UNCOR at that byte, and bytes of another device are asked for. HEXIT ends
the hart with xB, once a table of another device that its exit word needs has come and the page of the word is marked:
the exit word is written or sent, or an entry of kind 10 is posted where the address does not translate; the control
hart posts an entry of kind 3; then it leaves its gang, its copies that are over, the owner tags of its bricks, its
bricks and its slot; harts that wait to join it issue again; its launch loses the task; and its halls are arbitrated.
LEASE sets a lease within its limits and answers the old one, else −1. GARRIVE arrives and answers the phase, or waits
where this member has arrived; GWAIT answers the phase once it has passed xB, else waits; a phase that its last member
completes wakes those who wait, and fixes the next phase's grant. HJOIN answers −1, or frees an ended hart and answers
0, or claims a live one and waits. A gang id that several gangs have had names the last one formed, and a gang is
joinable up to its declared size until its last member has left: the model's choices (log entries 52 and 35). (R86,
R87, R89, R85, R90, R91, R92, R94, R95, R99, R255, R305) -/
def Obligations.HartInstructions : Prop :=
  (∀ (s : State), s.Quiet →
    let c := s.closed
    (∀ (o : R2), let a := s.xr o.b
      (a.toNat % 64 ≠ 0 → exec (.hspawn o) s = .next (takeTrap .align a 0 c)) ∧
      (a.toNat % 64 = 0 → ∀ t e, xlate .load a c = (t, .error (.cause e)) → exec (.hspawn o) s = .next (takeTrap e a 0 t)) ∧
      (a.toNat % 64 = 0 → ∀ t loc, xlate .load a c = (t, .ok loc) →
        (∀ i, failingByte t loc.key 64 = some i → exec (.hspawn o) s = .next (takeTrap .uncor (a + word i) 0 t)) ∧
        (isRemote loc.key = true → t.hart.refusedByte loc.key 64 = none → ∀ k m, t.hart.missing loc.key 64 = some (k, m) →
          exec (.hspawn o) s = .next (c.hasAsked k 1 m [] (.remote k m)))) ∧
      (a.toNat % 64 = 0 → ∀ t loc, xlate .load a c = (t, .ok loc) → t.CanRead loc 64 →
        let r := t.elementAt loc 64
        let full := Config.maxHarts ≤ (hartsOf t).length ∨ freeHartId t = none
        let badSize := ¬ (1 ≤ field r 32 40 8 ∧ field r 32 40 8 ≤ 8)
        (badRecord t r → exec (.hspawn o) s = .next (t.answered o.a (wi (-4)))) ∧
        (¬ badRecord t r → newGangRecord r → badLease t r → exec (.hspawn o) s = .next (t.answered o.a (wi (-2)))) ∧
        (¬ badRecord t r → newGangRecord r → ¬ badLease t r → badSize → exec (.hspawn o) s = .next (t.answered o.a (wi (-3)))) ∧
        (¬ badRecord t r → ¬ newGangRecord r → badGang t r → exec (.hspawn o) s = .next (t.answered o.a (wi (-3)))) ∧
        ((¬ badRecord t r ∧ newGangRecord r ∧ ¬ badLease t r ∧ ¬ badSize) ∨ (¬ badRecord t r ∧ ¬ newGangRecord r ∧ ¬ badGang t r) →
          (full → exec (.hspawn o) s = .next (t.answered o.a (wi (-1)))) ∧
          (¬ full → ∀ id hall, freeHartId t = some id → hallOf t (field r 40 32 16) = some hall →
            let h := childOf t id hall r
            exec (.hspawn o) s = .next ((arbitrateGang h.pid h.gkey
              (t.withChild h (gangsAfter t id hall r) (decide (field r 40 0 32 = 0)))).answered o.a (word id)))))) ∧
    (∀ (b : XReg), let v := s.xr b
      (c.ExitReady → exec (.hexit b) s = .next (endHart v c)) ∧
      (c.hart.exitVa ≠ 0 → ∀ t,
        (∀ k n, xlate .store c.hart.exitVa c = (t, .error (.remote k n)) → c.hart.asked = none →
          exec (.hexit b) s = .next ((t.hasAsked k 1 n [] (.ending v)).waits (.ending v))) ∧
        ∀ loc, xlate .store c.hart.exitVa c = (t, .ok loc) → (t.leafMarked loc).hart.acks ≠ [] →
          exec (.hexit b) s = .next ((t.leafMarked loc).waits (.ending v)))) ∧
    (∀ (o : R2), let v := s.xn o.b
      let ok := v < 2 ^ 40 ∧ leaseFits (v % 2 ^ 16) (v / 2 ^ 16 % 2 ^ 16) (v / 2 ^ 32) s.hart.prio.toNat ∧ (isReduced s = true → v % 2 ^ 16 ≤ 4)
      (∀ g, c.gang = some g → ok → exec (.lease o) s = .next ((arbitrateGang s.hart.pid g.age (c.withGang g.age (fun g => { g with
          min := v % 2 ^ 16
          pref := v / 2 ^ 16 % 2 ^ 16
          prio := v / 2 ^ 32 }))).answered o.a (leaseWord g))) ∧
      (c.gang = none ∨ ¬ ok → exec (.lease o) s = .next (c.answered o.a (wi (-1))))) ∧
    (∀ (a : XReg) g, c.gang = some g →
      (s.hart.id ∈ g.arrived → exec (.garrive a) s = .next (c.waits .arrive)) ∧
      (s.hart.id ∉ g.arrived → exec (.garrive a) s = .next
        (((c.withGang g.age (fun k => { k with arrived := k.arrived ++ [s.hart.id] })).phaseSettled g.age).answered a
          (g.phase.setWidth 64)))) ∧
    (∀ (o : R2) g, c.gang = some g →
      let ahead := (g.phase - (s.xr o.b).setWidth 32).toNat
      (0 < ahead ∧ ahead ≤ 2 ^ 31 → exec (.gwait o) s = .next (c.answered o.a (g.phase.setWidth 64))) ∧
      (¬ (0 < ahead ∧ ahead ≤ 2 ^ 31) → exec (.gwait o) s = .next (c.waits .phase))) ∧
    ∀ (o : R2),
      (c.findHart s.hart.pid (s.xn o.b) = none → exec (.hjoin o) s = .next (c.answered o.a (wi (-1)))) ∧
      ∀ h, c.findHart s.hart.pid (s.xn o.b) = some h →
        let no := h.detached = true ∨ h.id = 0 ∨ h.id = s.hart.id ∨ ∃ k, h.claim = some k ∧ k ≠ s.hart.id
        (no → exec (.hjoin o) s = .next (c.answered o.a (wi (-1)))) ∧
        (¬ no → h.status = .ended → exec (.hjoin o) s = .next ((c.modHartOf h.pid h.id (fun g => { g with
          status := .absent
          claim := none })).answered o.a 0)) ∧
        (¬ no → h.status ≠ .ended → exec (.hjoin o) s = .next ((c.modHartOf h.pid h.id (fun g => { g with
          claim := some s.hart.id })).waits (.join h.id)))) ∧
  ∀ (s : State) (v : Word),
    let w := writeExit v s
    (s.hart.exitVa = 0 → w = s) ∧
    (s.hart.exitVa ≠ 0 → ∀ t,
      (∀ loc, xlate .store s.hart.exitVa s = (t, .ok loc) →
        (isRemote loc.key = false → w = t.performed loc (leBytes 8 v.toNat)) ∧
        (isRemote loc.key = true → w = (t.leafMarked loc).sentRequest (.exit s.hart.id (s.hart.entries + if s.hart.id = 0 then 1 else 0)
          s.hart.exitVa v) (dieOf s.hart.hall) loc.key 3 8 (leBytes 8 v.toNat))) ∧
      (∀ e, xlate .store s.hart.exitVa s = (t, .error e) → w = postHart false 10 e.status s.hart.exitVa v 0 t)) ∧
    (let p := if s.hart.id = 0 then postHart true 3 0 v 0 0 w else w;
      endHart v s = (s.hart.hall :: (if s.hart.spread then partnersOf s.part.cfg s.hart.hall else [])).foldl (fun t hall => arbitrate hall t)
        (taskEnded s.hart.id p.withoutHart)) ∧
    (∀ x, s.withoutHart.ownerOf x =
      if x ∈ s.tagged s.hart.pid s.hart.id ∧ s.ownerOf x = some s.hart.id then none else s.ownerOf x) ∧
    ∀ l, s.part.launches.find? (fun l => l.tasks.any (fun t => decide (t.hart = s.hart.id) && !t.ended)) = some l →
      taskEnded s.hart.id s = settleLaunch l.handle { s with
        part := { s.part with launches := s.part.launches.map (fun k => if k.handle = l.handle then k.lostTask s.hart.id else k) } }

/-- O49. What CPYSTART, CPYCAN and CPYSTAT do. With the copy engine ready: CPYSTART of a readable record at a multiple of
64 that keeps the limits of R246 to R248 takes the lowest free slot of the hart's id, records the copy with its
translations, clears and binds its mask where it names one, and answers the handle, or −1 without a slot; else it
traps with ALIGN, CREC or CMASKREG. CPYCAN cancels a running copy and leaves another alone. CPYSTAT answers the state,
the bytes done, or releases an ended copy of its own hart and answers 0; all ones otherwise. An unknown handle traps
with CHAN. A table on another device that the translations need is asked for first, and the command issued again. A
cancelled copy whose completion word still waits loses that completion. Each closes the strip and is accepted. That
every page is translated at the start, and the free bytes that a cancelled chunk leaves, are the model's choices (log
entries 38 and 6). (R246, R247, R248, R250, R251, R254, R255, R7, R339, R333) -/
def Obligations.CopyInstructions : Prop :=
  ∀ (s : State), EngineReady s .copy →
    let c := s.closed
    let go := c.accepts .copy
    (∀ (o : R2), let a := s.xr o.b
      (a.toNat % 64 ≠ 0 → exec (.cpystart o) s = .next (takeTrap .align a 0 c)) ∧
      (a.toNat % 64 = 0 → ∀ r, c.recordAt a 64 = some r →
        let mask := field r 24 8 8
        let maskOk := mask = 0 ∨ (4 ≤ mask ∧ mask ≤ 7 ∧ ∀ b ∈ s.hart.bound, b.1.toNat ≠ mask)
        let copy := copyRecord (c.issuer .copy (c.hart.ordinal .copy)) s.part.epoch r
        (¬ CopyRecordOk r → exec (.cpystart o) s = .next (takeTrap .crec a 0 c)) ∧
        (CopyRecordOk r → ¬ maskOk → exec (.cpystart o) s = .next (takeTrap .cmaskreg (word mask) 0 c)) ∧
        (CopyRecordOk r → maskOk → CopyOverlaps r → exec (.cpystart o) s = .next (takeTrap .crec a 0 c)) ∧
        (CopyRecordOk r → maskOk → ¬ CopyOverlaps r →
          (freeCopySlot go = none → exec (.cpystart o) s = .next (go.answered o.a (wi (-1)))) ∧
          ∀ i, freeCopySlot go = some i →
            let h : Slot := BitVec.ofNat 32 (2 ^ 31 + s.hart.id * 2 ^ 8 + i)
            (∀ key n, Copy.translated c { copy with handle := h } = .error (key, n) →
              exec (.cpystart o) s = .next (c.hasAsked key 1 n [] (.remote key n))) ∧
            ∀ k, Copy.translated c { copy with handle := h } = .ok k →
              let u := go.withPart { go.part with copies := go.part.copies ++ [k] }
              (mask = 0 → exec (.cpystart o) s = .next (u.answered o.a (h.setWidth 64))) ∧
              (mask ≠ 0 → exec (.cpystart o) s = .next (({ u with
                hart := { u.hart with
                  live := { u.hart.live with m := u.hart.live.m.set copy.mask.toNat [] }
                  bound := u.hart.bound ++ [(copy.mask, h)] } } : State).answered o.a (h.setWidth 64)))))) ∧
    (∀ (h : Word), copyOf c h = none →
      (∀ b, s.xr b = h → exec (.cpycan b) s = .next (takeTrap .chan h 0 c)) ∧
      ∀ (o : R3), s.xr o.b = h → exec (.cpystat o) s = .next (takeTrap .chan h 0 c) ∧
        exec (.cpystatRelease o) s = .next (takeTrap .chan h 0 c)) ∧
    ∀ (h : Word) k, copyOf c h = some k →
      (∀ b, s.xr b = h →
        (k.state ≠ .running → exec (.cpycan b) s = .next go.completed) ∧
        (k.state = .running → k.status ≠ 0 →
          exec (.cpycan b) s = .next (finishCopy k .cancelled 0 (0x4000000000000000 ||| word k.done.length)
            (go.withoutCompletion k.handle)).completed) ∧
        (k.state = .running → k.status = 0 →
          let left := (List.range k.chunks).filter (fun e => decide (e ∉ k.done ∧ e ∉ k.failed))
          exec (.cpycan b) s = .next (finishCopy k .cancelled 0 (0x4000000000000000 ||| word k.done.length)
            ((left.foldl (fun t e => scrambleChunk k e t) go).withoutCompletion k.handle)).completed)) ∧
      ∀ (o : R3), s.xr o.b = h →
        let freed : State := { go with
          part := { go.part with copies := go.part.copies.filter (fun d => d.handle != k.handle) }
          hart := { go.hart with bound := go.hart.bound.filter (fun b => b.2 != k.handle) } }
        (s.xr o.c = 0 → exec (.cpystat o) s = .next (go.answered o.a (copyStateCode k.state))) ∧
        (s.xr o.c = 1 → exec (.cpystat o) s = .next (go.answered o.a (word k.bytesDone))) ∧
        (2 < s.xn o.c → exec (.cpystat o) s = .next (go.answered o.a (wi (-1)))) ∧
        ∀ i, (i = Instr.cpystatRelease o ∨ (i = .cpystat o ∧ s.xr o.c = 2)) →
          (k.by_.serial ≠ s.hart.serial → exec i s = .next (takeTrap .chan h 0 c)) ∧
          (k.by_.serial = s.hart.serial → k.state = .running → exec i s = .next (go.answered o.a (wi (-1)))) ∧
          (k.by_.serial = s.hart.serial → k.state ≠ .running → exec i s = .next (freed.answered o.a 0))

/-- O50. What the block commands do with a valid pool. With the block engine ready, the pool valid and no reclamation
under way: BALLOC takes the lowest FREE id as RESIDENT, or as FAR, with count 1, or traps with BEMPTY; BREF and BFREE
count a reference up or down and answer the count, the last one retiring the block with the epoch; BCOW answers a
private block: a new one has the bytes of the old, 64 at a time through the partition's root, or is DAMAGED where the
copy faults, and its hart issues nothing until the copy is done; BSTAT answers its fields; BID, BZERO, BREFOVF and
BDAMAGE trap with the id. An invalid pool traps with BPOOL, and during a reclamation the hart waits with its command
queued, metadata that lies on another device is asked for first (R333), and a metadata entry that cannot be read traps
with UNCOR at the entry (the model's reading, log entry 54); what unmapped metadata reads as and how a copy runs are
readings too (log entries 14 and 39). Each closes the strip and is accepted; nothing else changes. (R223, R231, R232,
R233, R234, R235, R240, R7, R361, R225, R333) -/
def Obligations.BlockCommands : Prop :=
  (∀ (by_ : Issuer) (src dst : Nat) (s t : State), s.hart.unperformed = [] → CopiesBlock by_ src dst s t →
    copyBlock by_ src dst s = .ok () t) ∧
  (∀ (s : State), s.part.cfg.windows = [] → ∀ n, missingMeta s n = none ∧ metaMissing s n = none) ∧
  (∀ (s : State), EngineReady s .blk → ∀ (o : R2) (o2 : Ord2) (o3 : R3),
    (∀ i ∈ [Instr.balloc o, .ballocFar o, .bref o2, .bfree o2, .bcow o, .bstat o3, .epadv o.a, .eprd o, .eprdWithdraw o],
      (poolValid s.part = false → exec i s = .next (takeTrap .bpool 0 0 s.closed)) ∧
      (poolValid s.part = true → s.part.reclaim ≠ none → exec i s = .next (s.closed.queuedUp .blk .reclaim)))) ∧
  ∀ (s : State), PoolReady s →
    let c := s.closed
    let by_ := c.issuer .blk (c.hart.ordinal .blk)
    let done := fun (t : State) (a : XReg) (v : Word) => (Host.Outcome.next ((t.accepts .blk).answered a v) : Out)
    (∀ (o : R2) (i : Instr) (st : Nat), (i, st) ∈ [(Instr.balloc o, if (s.xr o.b).getLsbD 0 then 2 else 1), (.ballocFar o, 2)] →
      (∀ k n, missingMeta c (searched c) = some (k, n) → exec i s = .next (c.awaitsObjects .blk k n)) ∧
      (missingMeta c (searched c) = none →
        (∀ n, badMeta c (searched c) = some n → exec i s = .next (takeTrap .uncor (word (metaVa s.part n)) 0 c)) ∧
        (badMeta c (searched c) = none → lowestFree c = none → exec i s = .next (takeTrap .bempty 0 0 c)) ∧
        (badMeta c (searched c) = none → ∀ n, lowestFree c = some n →
          exec i s = done (c.setMeta by_ n ⟨1, st, false, 0⟩) o.a (word n) ∧
          n < poolBlocks s.part ∧ (metaOf c n).st = 0 ∧ ∀ k, k < n → (metaOf c k).st ≠ 0))) ∧
    (∀ (o : R2) (o2 : Ord2), o2.b = o.b → ∀ i ∈ [Instr.bref o2, .bfree o2, .bcow o],
      (∀ k n, AbsentMeta c (s.xr o.b) k n → exec i s = .next (c.awaitsObjects .blk k n)) ∧
      (UnreadMeta c (s.xr o.b) → exec i s = .next (takeTrap .uncor (word (metaVa s.part (s.xr o.b).toNat)) 0 c)) ∧
      (¬ UnreadMeta c (s.xr o.b) → (∀ k n, ¬ AbsentMeta c (s.xr o.b) k n) → (∀ m, ¬ IsBlock c (s.xr o.b) m) → exec i s = .next (takeTrap .bid (s.xr o.b) 0 c))) ∧
    (∀ (o : Ord2) m, let id := s.xr o.b
      ¬ UnreadMeta c id → IsBlock c id m →
      (m.count = 0 → ∀ i ∈ [Instr.bref o, .bfree o], exec i s = .next (takeTrap .bzero id 0 c)) ∧
      (m.count = 0xFFFFFFFF → exec (.bref o) s = .next (takeTrap .brefovf id 0 c)) ∧
      (m.count ≠ 0 → m.count ≠ 0xFFFFFFFF →
        exec (.bref o) s = done (c.setMeta by_ id.toNat { m with count := m.count + 1 }) o.a (word (m.count + 1))) ∧
      (m.count ≠ 0 → exec (.bfree o) s = done (c.setMeta by_ id.toNat (m.released s.part.epoch)) o.a (word (m.count - 1)))) ∧
    (∀ (o : R2) m, let id := s.xr o.b
      ¬ UnreadMeta c id → IsBlock c id m →
      (m.st = 2 → exec (.bcow o) s = .next (takeTrap .bid id 0 c)) ∧
      (m.st ≠ 2 → m.count = 0 → exec (.bcow o) s = .next (takeTrap .bzero id 0 c)) ∧
      (m.st = 3 → m.count ≠ 0 → exec (.bcow o) s = .next (c.queuedUp .blk .promotion)) ∧
      (m.st = 4 → m.count ≠ 0 → exec (.bcow o) s = .next (takeTrap .bdamage id 0 c)) ∧
      (m.st ∉ [2, 3, 4] → m.count = 1 → exec (.bcow o) s = done c o.a id) ∧
      (m.st ∉ [2, 3, 4] → 1 < m.count →
        (∀ k n, missingMeta c (searched c) = some (k, n) → exec (.bcow o) s = .next (c.awaitsObjects .blk k n)) ∧
        (missingMeta c (searched c) = none →
          (∀ n, badMeta c (searched c) = some n → exec (.bcow o) s = .next (takeTrap .uncor (word (metaVa s.part n)) 0 c)) ∧
          (badMeta c (searched c) = none → lowestFree c = none → exec (.bcow o) s = .next (takeTrap .bempty 0 0 c)) ∧
          (badMeta c (searched c) = none → ∀ n, lowestFree c = some n →
            let u := ((c.setMeta by_ n ⟨1, 1, false, 0⟩).setMeta by_ id.toNat { m with count := m.count - 1 }).accepts .blk
            let hold := fun (t : State) (x : BitVec 8) =>
              (Host.Outcome.next ((t.answered o.a (word n)).holding (.cow n by_.ordinal s.part.epoch x)) : Out)
            (∀ t, copyBlock by_ id.toNat n u = .ok () t → exec (.bcow o) s = hold t 0) ∧
            (∀ x t, copyBlock by_ id.toNat n u = .error (.status x) t → x ≠ 0 →
              exec (.bcow o) s = hold (t.setMetaState by_ n 4) x) ∧
            ∀ k l t, copyBlock by_ id.toNat n u = .error (.await k l) t → exec (.bcow o) s = .next (c.awaitsObjects .blk k l))))) ∧
    ∀ (o : R3), let id := s.xr o.b
      let m := metaOf c id.toNat
      let count := fun (p : Meta → Bool) => ((List.range (poolBlocks s.part)).filter (fun i => p (metaOf c i))).length
      (s.xr o.c = 0 → poolBlocks s.part ≤ id.toNat → exec (.bstat o) s = .next (takeTrap .bid id 0 c)) ∧
      (s.xr o.c = 0 → UnreadMeta c id → exec (.bstat o) s = .next (takeTrap .uncor (word (metaVa s.part id.toNat)) 0 c)) ∧
      (s.xr o.c = 0 → ∀ k n, AbsentMeta c id k n → exec (.bstat o) s = .next (c.awaitsObjects .blk k n)) ∧
      (s.xr o.c = 1 ∨ s.xr o.c = 2 → ∀ k n, missingMeta c (poolBlocks s.part) = some (k, n) →
        exec (.bstat o) s = .next (c.awaitsObjects .blk k n)) ∧
      (s.xr o.c = 1 ∨ s.xr o.c = 2 → missingMeta c (poolBlocks s.part) = none → ∀ n, badMeta c (poolBlocks s.part) = some n →
        exec (.bstat o) s = .next (takeTrap .uncor (word (metaVa s.part n)) 0 c)) ∧
      (s.xr o.c = 0 → id.toNat < poolBlocks s.part → ¬ UnreadMeta c id → (∀ k n, ¬ AbsentMeta c id k n) →
        exec (.bstat o) s = done c o.a (word (m.count + m.st * 2 ^ 32 + (if m.ret then 2 ^ 40 else 0)))) ∧
      (s.xr o.c = 1 → missingMeta c (poolBlocks s.part) = none → badMeta c (poolBlocks s.part) = none → exec (.bstat o) s = done c o.a (word (count fun m => decide (m.st = 0)))) ∧
      (s.xr o.c = 2 → missingMeta c (poolBlocks s.part) = none → badMeta c (poolBlocks s.part) = none → exec (.bstat o) s = done c o.a (word (count fun m => m.ret && decide (m.count = 0)))) ∧
      (s.xr o.c = 3 → exec (.bstat o) s = done c o.a (((lowestAnnounce c).map word).getD (wi (-1)))) ∧
      (3 < s.xn o.c → exec (.bstat o) s = done c o.a (wi (-1)))

/-- O51. Epochs, promotion, compaction, and the translation of positions. With the pool ready: EPRD announces or withdraws
and answers the epoch; EPADV raises the epoch, selects the retired blocks below every announcement and answers their
number, reclaiming at once where no engine work precedes, and answers all ones at the last epoch; BPROMO completes at
once for a RESIDENT block and else queues the promotion; BCOMPACT does its work at its acceptance and queues its
completion word, with the status of what cut the work short; it waits for a promotion that runs of a block that it
needs, and for bytes of other devices; a bad record traps, and a fault of its read is at the record's address;
metadata that cannot be read raises UNCOR. That work moves each accepted entry of its chain into place, the blocks
moved into made private as by BCOW, and withdraws the indexes past them. VXLAT and VXLATF, where nothing stops them,
write each translated position, 0 for a block fault: the address or the offset of the slot in a RESIDENT block,
BDAMAGE for a DAMAGED one and PAGE otherwise; VXLAT writes the block faults to its mask, and VXLATF takes the first as
its fault, as both take that of an element that cannot be read. The moment of a compaction's work and its steps are
the model's reading (log entries 39 and 14). (R226, R227, R228, R229, R236, R237, R238, R239, R240, R152, R8, R333) -/
def Obligations.BlockEpochsAndTranslation : Prop :=
  (∀ base w stop, XlatAnswers base w stop) ∧
  (∀ (k : Compaction) (s t : State), s.hart.unperformed = [] → Compacts k s t → k.work s = .ok () t) ∧
  (∀ (own : Bool) (id : Nat) (s : State) m, Known s id m →
    (m.st = 0 ∨ m.st = 2 → residentBlock own id s = .error (.status Cause.page.code) s) ∧
    (m.st ≠ 0 → m.st ≠ 2 →
      (own = true → m.count = 0 → residentBlock own id s = .error (.status Cause.bzero.code) s) ∧
      (¬ (own = true ∧ m.count = 0) →
        (m.st = 3 → residentBlock own id s = .error .promoting s) ∧
        (m.st = 4 → residentBlock own id s = .error (.status Cause.bdamage.code) s) ∧
        (m.st = 1 → residentBlock own id s = .ok m s)))) ∧
  (∀ (s : State), PoolReady s →
    let c := s.closed
    let go := c.accepts .blk
    let by_ := c.issuer .blk (c.hart.ordinal .blk)
    let e := s.part.epoch
    (∀ (o : R2) (i : Instr) (w : Bool), (i, w) ∈ [(Instr.eprd o, (s.xr o.b).getLsbD 0), (.eprdWithdraw o, true)] →
      exec i s = .next (({ go with
        hart := { go.hart with announce := if w then none else some e } } : State).answered o.a e)) ∧
    (∀ (a : XReg), e = wi (-1) → exec (.epadv a) s = .next (go.answered a (wi (-1)))) ∧
    (∀ (a : XReg), e ≠ wi (-1) →
      (∀ k n, missingMeta c (poolBlocks s.part) = some (k, n) → exec (.epadv a) s = .next (c.awaitsObjects .blk k n)) ∧
      (missingMeta c (poolBlocks s.part) = none → ∀ n, badMeta c (poolBlocks s.part) = some n →
        exec (.epadv a) s = .next (takeTrap .uncor (word (metaVa s.part n)) 0 c)) ∧
      (missingMeta c (poolBlocks s.part) = none → badMeta c (poolBlocks s.part) = none →
      let old := fun id => let m := metaOf c id
        m.ret = true ∧ m.st ≠ 3 ∧ ∀ l, lowestAnnounce c = some l → m.stamp < l
      ∃ r : List Nat, (∀ id, id ∈ r ↔ id < poolBlocks s.part ∧ old id) ∧ r.Pairwise (· < ·) ∧
        let u := c.withPart { c.part with
          epoch := e + 1
          reclaim := some (by_, r.filterMap (fun id => (metaLoc c .store id).map (·.key))) }
        exec (.epadv a) s = .next (((if enginesPassed u then reclaimNow u else u).accepts .blk).answered a (word r.length)))) ∧
    (∀ (o : RBC), let id := s.xr o.b
      let va := s.xr o.c
      (va.toNat % 32 ≠ 0 → exec (.bpromo o) s = .next (takeTrap .align va 0 c)) ∧
      (va.toNat % 32 = 0 → ∀ x y z t, engineRead va.toNat 32 c = .error (.trap x y z) t → exec (.bpromo o) s = .next (takeTrap x va 0 c)) ∧
      (va.toNat % 32 = 0 → ∀ r, c.recordAt va 32 = some r →
        let ok := field r 0 0 6 = 0 ∧ field r 12 0 32 = 0 ∧ field r 16 0 3 = 0
        (¬ ok → exec (.bpromo o) s = .next (takeTrap .bpool 0 0 c)) ∧
        (ok → ∀ k n, AbsentMeta c id k n → exec (.bpromo o) s = .next (c.awaitsObjects .blk k n)) ∧
        (ok → UnreadMeta c id → exec (.bpromo o) s = .next (takeTrap .uncor (word (metaVa s.part id.toNat)) 0 c)) ∧
        (ok → ¬ UnreadMeta c id → (∀ k n, ¬ AbsentMeta c id k n) → (∀ m, ¬ IsBlock c id m) → exec (.bpromo o) s = .next (takeTrap .bid id 0 c)) ∧
        (ok → ¬ UnreadMeta c id → ∀ m, IsBlock c id m →
          let pr : Promotion := {
            id := id.toNat
            by_ := by_
            epoch := e
            asked := none
            reply := []
            refused := []
            recVa := va
            far := word (field r 0 0 64)
            crc := BitVec.ofNat 32 (field r 8 0 32)
            cword := word (field r 16 0 64)
            cval := word (field r 24 0 64) }
          let queued := fun (t : State) => t.withPart { t.part with promotions := t.part.promotions ++ [pr] }
          (m.count = 0 → exec (.bpromo o) s = .next (takeTrap .bzero id 0 c)) ∧
          (m.count ≠ 0 → m.st = 4 → exec (.bpromo o) s = .next (takeTrap .bdamage id 0 c)) ∧
          (m.count ≠ 0 → m.st = 1 → exec (.bpromo o) s = .next (completeCommand by_ by_ e va pr.cword pr.cval 0 go).completed) ∧
          (m.count ≠ 0 → m.st = 2 → exec (.bpromo o) s = .next (queued (go.setMeta by_ id.toNat { m with st := 3 })).completed) ∧
          (m.count ≠ 0 → m.st = 3 → exec (.bpromo o) s = .next (queued go).completed)))) ∧
    ∀ (b : XReg), let va := s.xr b
      (va.toNat % 64 ≠ 0 → exec (.bcompact b) s = .next (takeTrap .align va 0 c)) ∧
      (va.toNat % 64 = 0 → ∀ x y z t, engineRead va.toNat 64 c = .error (.trap x y z) t → exec (.bcompact b) s = .next (takeTrap x va 0 c)) ∧
      (va.toNat % 64 = 0 → ∀ r, c.recordAt va 64 = some r →
        let stride := field r 16 0 32
        let ok := field r 0 0 2 = 0 ∧ 1 ≤ stride ∧ stride ≤ 65536 ∧ field r 20 0 8 < field r 21 0 8 ∧ field r 21 0 8 ≤ 4 ∧
          field r 22 0 16 = 0 ∧ field r 24 0 32 ≤ stride ∧ field r 28 0 32 = 0 ∧ field r 32 0 3 = 0 ∧ field r 48 0 128 = 0
        (¬ ok → exec (.bcompact b) s = .next (takeTrap .bpool 0 0 c)) ∧
        (ok →
          let k : Compaction := {
            by_ := by_
            epoch := e
            recVa := va
            table := word (field r 0 0 64)
            p0 := field r 8 0 64
            stride := stride
            chain := field r 20 0 8
            chains := field r 21 0 8
            accepted := field r 24 0 32
            cword := word (field r 32 0 64)
            cval := word (field r 40 0 64)
            status := 0 }
          let queued := fun (t : State) (k : Compaction) => t.withPart { t.part with compactions := t.part.compactions ++ [k] }
          (∀ t, k.work c = .ok () t → exec (.bcompact b) s = .next (queued (t.accepts .blk) k).completed) ∧
          (∀ x t, k.work c = .error (.status x) t →
            exec (.bcompact b) s = .next (queued (t.accepts .blk) { k with status := x }).completed) ∧
          (∀ t, k.work c = .error .promoting t → exec (.bcompact b) s = .next (c.queuedUp .blk .promotion)) ∧
          ∀ key n t, k.work c = .error (.await key n) t → exec (.bcompact b) s = .next (c.awaitsObjects .blk key n)))) ∧
  ∀ (s : State) (o : VVX) (i : Instr) (pred : MReg) (mask : Option MReg),
    (i, pred, mask) ∈ [(Instr.vxlat o, 0, some o.m), (.vxlatf o, o.m, none)] → (xlatForm s o mask).Ready s →
    let p := shapeOf s
    let st := s.owned.hart.live
    (p.vl ≠ 0 → poolValid s.part = false → exec i s = .next (takeTrap .bpool 0 0 s.owned)) ∧
    (p.vl = 0 ∨ poolValid s.part = true →
      let els := ((List.range p.vl).filter (fun e => st.active pred e)).map (fun e => (e, p.el st o.b 0 e))
      (∀ l f t, xlatElements (s.xr o.c) p.w mask.isNone els s.owned = .ok (l, some f) t → exec i s = .next (t.elementFault f)) ∧
      ∀ l t, xlatElements (s.xr o.c) p.w mask.isNone els s.owned = .ok (l, none) t →
        let at_ := fun e => assocGet l e (.value 0)
        let rows := writeRows p p.grp pred o.a (fun _ e => (at_ e).val) t.hart.live
        (mask = none → exec i s = .next (t.vectorDone rows 4)) ∧
        ∀ m, mask = some m → exec i s = .next (t.vectorDone (writeMask p 0 m (fun e => (at_ e).isFault) rows) 4))

/-- O52. What the index object instructions do. With the span engine ready: IXNEW of a good record makes an unsealed empty
object in the lowest free slot, its handle with the slot's generation, and writes its storage; IXAPP appends the run
and answers the length; IXSEAL seals, unlinks and answers the length; IXDROP removes the object everywhere, raises the
generation and holds its hart until the storage is released; IXSHARE adds or removes a key and answers the number of
keys. The checks of handle, owner, seal and limits trap as R273 orders them, a storage on another device is asked for,
and one that IXAPP or IXSEAL cannot read raises UNCOR. Each closes the strip and is accepted. An object is read as its
storage holds it: what bytes the engine keeps there, what it finds after a store of another agent, and the place of
the UNCOR check are the model's choices (log entry 17). (R269, R270, R271, R272, R273, R276, R277, R278, R279, R280,
R7, R339) -/
def Obligations.IndexObjectResults : Prop :=
  ∀ (s : State), EngineReady s .span →
    let c := s.closed
    let go := c.accepts .span
    let p := c.part
    (∀ (o : R2) r, (s.xr o.b).toNat % 32 = 0 → c.recordAt (s.xr o.b) 32 = some r →
      let cap := field r 8 0 64
      let ok := 1 ≤ cap ∧ cap ≤ 2 ^ 32 ∧ field r 16 0 128 = 0
      (¬ ok → exec (.ixnew o) s = .next (takeTrap .ixlimit 0 0 c)) ∧
      (ok → field r 0 0 16 ≠ 0 → exec (.ixnew o) s = .next (takeTrap .align (word (field r 0 0 64)) 0 c)) ∧
      ∀ locs, ok → field r 0 0 16 = 0 →
        c.reads (storePages (spanOf (field r 0 0 64) ((4096 + 68 * cap + 65535) / 65536 * 65536))) = some locs →
        let pages := locs.map (fun l => l.1.key)
        let used := fun i => ∃ x ∈ p.objects, x.handle.toNat % 2 ^ 16 = i
        let overlap := ∃ x ∈ p.objects, ∃ k ∈ x.pages, k ∈ pages
        ((∀ i, i < 65536 → used i) → exec (.ixnew o) s = .next (takeTrap .ixlimit 0 0 c)) ∧
        ∀ i, i < 65536 → ¬ used i → (∀ j, j < i → used j) →
          (overlap → exec (.ixnew o) s = .next (takeTrap .ixlimit 0 0 c)) ∧
          (¬ overlap →
            let h : Slot := BitVec.ofNat 32 (2 ^ 30 + assocGet p.ixGens i 0 % 2 ^ 14 * 2 ^ 16 + i)
            let x : IxObj := {
              handle := h
              owner := c.hart.domain
              isSealed := false
              share := []
              tokens := []
              cap := cap
              base := word (field r 0 0 64)
              pages := pages }
            exec (.ixnew o) s = .next ((touchStorage x (c.withPart { p with
              objects := p.objects ++ [x] })).accepts .span |>.answered o.a (h.setWidth 64)))) ∧
    (∀ (h : Word), c.readableObject h = none →
      (∀ (o : R2), s.xr o.b = h → exec (.ixseal o) s = .next (takeTrap .ixhandle h 0 c)) ∧
      (∀ b, s.xr b = h → exec (.ixdrop b) s = .next (takeTrap .ixhandle h 0 c)) ∧
      (∀ (o : R3) ts, s.xr o.b = h → c.RunAt (s.xr o.c) ts → exec (.ixapp o) s = .next (takeTrap .ixhandle h 0 c)) ∧
      ∀ (o : R3), s.xr o.b = h → (s.xr o.c).toNat < 2 ^ 33 → ∀ i ∈ [Instr.ixshare o, .ixshareRemove o],
        exec i s = .next (takeTrap .ixhandle h 0 c)) ∧
    (∀ (h : Word) x, c.readableObject h = some x → x.owner ≠ s.hart.domain →
      (∀ (o : R2), s.xr o.b = h → exec (.ixseal o) s = .next (takeTrap .ixowner h 0 c)) ∧
      (∀ b, s.xr b = h → exec (.ixdrop b) s = .next (takeTrap .ixowner h 0 c)) ∧
      (∀ (o : R3) ts, s.xr o.b = h → c.RunAt (s.xr o.c) ts → exec (.ixapp o) s = .next (takeTrap .ixowner h 0 c)) ∧
      ∀ (o : R3), s.xr o.b = h → (s.xr o.c).toNat < 2 ^ 33 → ∀ i ∈ [Instr.ixshare o, .ixshareRemove o],
        exec i s = .next (takeTrap .ixowner h 0 c)) ∧
    ∀ (h : Word) x, c.readableObject h = some x → x.owner = s.hart.domain →
      (∀ k n, missingStorage c x = some (k, n) →
        (∀ (o : R2), s.xr o.b = h → exec (.ixseal o) s = .next (c.awaitsObjects .span k n)) ∧
        ∀ (o : R3) ts, s.xr o.b = h → c.RunAt (s.xr o.c) ts → exec (.ixapp o) s = .next (c.awaitsObjects .span k n)) ∧
      (c.HasStorage [x] → ∀ a, damagedStorage c x = some a →
        (∀ (o : R2), s.xr o.b = h → exec (.ixseal o) s = .next (takeTrap .uncor a 0 c)) ∧
        ∀ (o : R3) ts, s.xr o.b = h → c.RunAt (s.xr o.c) ts → exec (.ixapp o) s = .next (takeTrap .uncor a 0 c)) ∧
      (∀ (o : R3) ts, s.xr o.b = h → c.RunAt (s.xr o.c) ts → c.HasStorage [x] → damagedStorage c x = none →
        let held := x.seen c
        let n := held.tokens.length + ts.length
        (x.isSealed = true → exec (.ixapp o) s = .next (takeTrap .ixsealed h 0 c)) ∧
        (x.isSealed = false → x.cap < n → exec (.ixapp o) s = .next (takeTrap .ixlimit h 0 c)) ∧
        (x.isSealed = false → n ≤ x.cap → ts = [] → exec (.ixapp o) s = .next (go.answered o.a (word n))) ∧
        (x.isSealed = false → n ≤ x.cap → ts ≠ [] → exec (.ixapp o) s =
          .next ((touchStorage (held.appended ts) (c.setObject (held.appended ts))).accepts .span |>.answered o.a (word n)))) ∧
      (∀ (o : R2), s.xr o.b = h → c.HasStorage [x] → damagedStorage c x = none →
        (x.isSealed = true → exec (.ixseal o) s = .next (takeTrap .ixsealed h 0 c)) ∧
        (x.isSealed = false → exec (.ixseal o) s = .next ((go.withPart { p with
          objects := p.objects.map (fun y => if y.handle = x.handle then { x with isSealed := true } else y)
          cursors := p.cursors.map (fun d => if d.linked = some x.handle then { d with linked := none } else d) }).answered o.a
            (word (x.seen c).tokens.length)))) ∧
      (∀ b, s.xr b = h →
        let slot := x.handle.toNat % 2 ^ 16
        let parted := fun (d : Cursor) => { d with
          linked := if d.linked = some x.handle then none else d.linked
          slots := d.slots.map (fun y => if y = some x.handle then none else y) }
        exec (.ixdrop b) s = .next ((go.withPart { p with
          objects := p.objects.filter (fun y => y.handle != x.handle)
          ixGens := assocSet p.ixGens slot ((assocGet p.ixGens slot 0 + 1) % 2 ^ 14)
          cursors := p.cursors.map parted }).completed.holding .storage)) ∧
      ∀ (o : R3), s.xr o.b = h →
        let key : Slot := (s.xr o.c).setWidth 32
        let share := fun (l : List Slot) => (Host.Outcome.next ((go.withPart { p with
          objects := p.objects.map (fun y => if y.handle = x.handle then { x with share := l } else y) }).answered o.a
            (word l.length)) : Out)
        (2 ^ 33 ≤ (s.xr o.c).toNat → ∀ i ∈ [Instr.ixshare o, .ixshareRemove o],
          exec i s = .next (takeTrap .ixlimit 0 0 c)) ∧
        ((s.xr o.c).toNat < 2 ^ 33 →
          (x.isSealed = false → ∀ i ∈ [Instr.ixshare o, .ixshareRemove o], exec i s = .next (takeTrap .ixunsealed h 0 c)) ∧
          (x.isSealed = true →
            exec (.ixshareRemove o) s = share (x.share.filter (· != key)) ∧
            ((s.xr o.c).getLsbD 32 = true → exec (.ixshare o) s = share (x.share.filter (· != key))) ∧
            ((s.xr o.c).getLsbD 32 = false →
              (key ∈ x.share ∨ key = x.owner → exec (.ixshare o) s = share x.share) ∧
              (key ∉ x.share → key ≠ x.owner → 8 ≤ x.share.length → exec (.ixshare o) s = .next (takeTrap .ixlimit h 0 c)) ∧
              (key ∉ x.share → key ≠ x.owner → x.share.length < 8 → exec (.ixshare o) s = share (x.share ++ [key])))))

/-- O53. What CURNEW, CURATT, CURFEED, CURROLL, CURDROP and CURSTAT do. With the span engine ready: CURNEW makes an empty
cursor in the lowest free slot, linked to an object its domain owns, or to none; CURATT finds the object's slot, or
takes the lowest empty one, or refuses with −1 or −2, and writes the answer later; CURFEED appends to W and answers
the greatest match length; CURROLL takes back the last acceptance or answers −1; CURDROP ends the cursor; CURSTAT
answers its fields. A handle that is no cursor of the domain traps with CURHANDLE, a storage on another device that a
command reads is asked for, and one that it cannot read raises UNCOR. Each closes the strip and is accepted. Objects
are read as their storage holds them (log entry 17). (R270, R272, R273, R281, R282, R283, R284, R285, R289, R290,
R291, R7) -/
def Obligations.CursorResults : Prop :=
  ∀ (s : State), EngineReady s .span →
    let c := s.closed
    let go := c.accepts .span
    let p := c.part
    (∀ (o : R2), let h := s.xr o.b
      let used := fun i => ∃ d ∈ p.cursors, d.handle.toNat % 2 ^ 14 = i
      let made := fun (linked : Option Slot) =>
        ((∀ i, i < 16384 → used i) → exec (.curnew o) s = .next (takeTrap .curlimit 0 0 c)) ∧
        ∀ i, i < 16384 → ¬ used i → (∀ j, j < i → used j) →
          let n : Slot := BitVec.ofNat 32 (2 ^ 31 + assocGet p.curGens i 0 % 2 ^ 16 * 2 ^ 14 + i)
          exec (.curnew o) s = .next ((go.withPart { p with
            cursors := p.cursors ++ [Cursor.new n c.hart.domain linked] }).answered o.a (n.setWidth 64))
      (h = 0 → made none) ∧
      (h ≠ 0 → c.readableObject h = none → exec (.curnew o) s = .next (takeTrap .ixhandle h 0 c)) ∧
      (h ≠ 0 → ∀ x, c.readableObject h = some x →
        (x.owner ≠ s.hart.domain → exec (.curnew o) s = .next (takeTrap .ixowner h 0 c)) ∧
        (x.owner = s.hart.domain → x.isSealed = true → exec (.curnew o) s = .next (takeTrap .ixsealed h 0 c)) ∧
        (x.owner = s.hart.domain → x.isSealed = false → made (some x.handle)))) ∧
    (∀ (h : Word), c.cursorNamed h = none →
      (∀ (o : R2), s.xr o.b = h → exec (.curroll o) s = .next (takeTrap .curhandle h 0 c)) ∧
      (∀ b, s.xr b = h → exec (.curdrop b) s = .next (takeTrap .curhandle h 0 c)) ∧
      ∀ (o : R3), s.xr o.b = h → exec (.curatt o) s = .next (takeTrap .curhandle h 0 c) ∧
        exec (.curstat o) s = .next (takeTrap .curhandle h 0 c) ∧
        ∀ ts, c.RunAt (s.xr o.c) ts → exec (.curfeed o) s = .next (takeTrap .curhandle h 0 c)) ∧
    ∀ (h : Word) d, c.cursorNamed h = some d →
      let empty := fun i => i < 4 ∧ d.useSlot c i = none
      let holds := fun (x : IxObj) i => i < 4 ∧ d.slots.toList[i]? = some (some x.handle)
      (∀ (o : R3), s.xr o.b = h →
        let gives := fun (e : Cursor) v => exec (.curatt o) s = .next ((go.setCursor e).waits (.curatt o.a v))
        (c.readableObject (s.xr o.c) = none → gives d (wi (-2))) ∧
        ∀ x, c.readableObject (s.xr o.c) = some x →
          (∀ i, holds x i → (∀ j, j < i → ¬ holds x j) → gives d (word i)) ∧
          ((∀ i, ¬ holds x i) →
            ((∀ i, ¬ empty i) → gives d (wi (-1))) ∧
            ∀ i, empty i → (∀ j, j < i → ¬ empty j) →
              gives { d with slots := d.slots.setIfInBounds i (some x.handle) } (word i))) ∧
      (∀ k n, (d.attached c).findSome? (missingStorage c) = some (k, n) →
        (∀ (o : R3), s.xr o.b = h → s.xn o.c = 7 → exec (.curstat o) s = .next (c.awaitsObjects .span k n)) ∧
        ∀ (o : R3) ts, s.xr o.b = h → c.RunAt (s.xr o.c) ts → exec (.curfeed o) s = .next (c.awaitsObjects .span k n)) ∧
      (c.HasStorage (d.attached c) → ∀ a, (d.attached c).findSome? (damagedStorage c) = some a →
        (∀ (o : R3), s.xr o.b = h → s.xn o.c = 7 → exec (.curstat o) s = .next (takeTrap .uncor a 0 c)) ∧
        ∀ (o : R3) ts, s.xr o.b = h → c.RunAt (s.xr o.c) ts → exec (.curfeed o) s = .next (takeTrap .uncor a 0 c)) ∧
      (∀ (o : R3) ts, s.xr o.b = h → c.RunAt (s.xr o.c) ts → c.HasStorage (d.attached c) → (d.attached c).findSome? (damagedStorage c) = none →
        let e := if ts = [] then d else { d with
          w := d.w ++ ts
          proposal := none
          mark := none }
        ∃ l, IsBestMatch c e l ∧ exec (.curfeed o) s = .next ((go.setCursor e).answered o.a (word l))) ∧
      (∀ (o : R2), s.xr o.b = h →
        let kept := exec (.curroll o) s = .next (go.answered o.a (wi (-1)))
        (d.mark = none → kept) ∧
        ∀ m, d.mark = some m →
          let e := { d with
            w := d.w.take m.wLen
            mark := none
            proposal := none }
          let removed := word (d.w.length - m.wLen)
          (m.linked = none → exec (.curroll o) s = .next ((go.setCursor e).answered o.a removed)) ∧
          ∀ q n, m.linked = some (q, n) →
            (objectOf c q = none → kept) ∧
            (∀ x, objectOf c q = some x → d.linked = some q → ∀ k l, missingStorage c x = some (k, l) →
              exec (.curroll o) s = .next (c.awaitsObjects .span k l)) ∧
            ∀ x, objectOf c q = some x → (d.linked = some q → c.HasStorage [x]) →
              (d.linked ≠ some q ∨ (damagedStorage c x = none ∧ x.tokens.length ≠ n + m.committed) → kept) ∧
              (d.linked = some q → ∀ a, damagedStorage c x = some a → exec (.curroll o) s = .next (takeTrap .uncor a 0 c)) ∧
              (d.linked = some q → x.tokens.length = n + m.committed → damagedStorage c x = none →
                let y := { x with tokens := x.tokens.take n }
                exec (.curroll o) s = .next ((touchStorage y ((c.setCursor e).setObject y)).accepts .span |>.answered o.a
                  removed))) ∧
      (∀ b, s.xr b = h →
        let slot := d.handle.toNat % 2 ^ 14
        exec (.curdrop b) s = .next (go.withPart { p with
          cursors := p.cursors.filter (fun e => e.handle != d.handle)
          curGens := assocSet p.curGens slot ((assocGet p.curGens slot 0 + 1) % 2 ^ 16) }).completed) ∧
      ∀ (o : R3), s.xr o.b = h →
        (s.xn o.c = 7 → c.HasStorage (d.attached c) ∧ (d.attached c).findSome? (damagedStorage c) = none) →
        ∃ v, exec (.curstat o) s = .next (go.answered o.a v) ∧
          (s.xn o.c = 0 → v = word d.w.length) ∧
          (s.xn o.c = 1 → v = (d.linked.getD 0).setWidth 64) ∧
          (s.xn o.c = 2 → v.toNat < 2 ^ 8 ∧ ∀ i, i < 4 →
            v.getLsbD i = (d.slots.toList.getD i none).isSome ∧ v.getLsbD (4 + i) = (d.useSlot c i).isSome) ∧
          (s.xn o.c = 3 → v = d.accDrafts) ∧
          (s.xn o.c = 4 → v = d.acceptances) ∧
          (s.xn o.c = 5 → v = d.proposed) ∧
          (s.xn o.c = 6 → v = d.proposals) ∧
          (s.xn o.c = 7 → ∃ l, IsBestMatch c d l ∧ v = word l) ∧
          (s.xn o.c = 8 → v = d.committed) ∧
          (s.xn o.c = 9 → v = (d.mark.map (fun m => word m.wLen)).getD (wi (-1))) ∧
          (9 < s.xn o.c → v = wi (-1))

/-- O54. What CURPROP proposes and what CURACC commits. With the span engine ready and a cursor of the domain: CURPROP of
a good record keeps up to K chains in the order of R286, each the continuation of the first occurrence of its next
token, counts them, answers their number, and holds its hart until descriptors and tokens are written. CURACC of a
model area commits the agreeing drafts of the least chain that agrees longest and the model's next token to W and to
the linked object, marks the lengths before, and answers agreement and chain; a linked object without room traps with
IXLIMIT. A storage on another device that either reads is asked for, and one that it cannot read raises UNCOR. Objects
are read as their storage holds them, and an output area that is no multiple of 16 traps: the model's readings (log
entries 17 and 40). (R272, R273, R284, R286, R287, R288, R7) -/
def Obligations.ProposalAndAcceptance : Prop :=
  ∀ (s : State), EngineReady s .span →
    let c := s.closed
    let go := c.accepts .span
    ∀ (o : R3) d, c.cursorNamed (s.xr o.b) = some d →
      (∀ r, (s.xr o.c).toNat % 16 = 0 → c.recordAt (s.xr o.c) 16 = some r →
        let k := field r 8 0 8
        let n := field r 8 8 8
        let ok := 1 ≤ k ∧ k ≤ 4 ∧ 1 ≤ n ∧ n ≤ 64 ∧ 1 ≤ field r 8 16 16 ∧ field r 8 32 32 = 0
        (¬ ok → exec (.curprop o) s = .next (takeTrap .ixlimit 0 0 c)) ∧
        (ok → field r 0 0 4 ≠ 0 → exec (.curprop o) s = .next (takeTrap .align (word (field r 0 0 64)) 0 c)) ∧
        ∀ locs, ok → field r 0 0 4 = 0 → c.reads (storePages (spanOf (field r 0 0 64) 1040)) = some locs →
          (∀ j l, (d.attached c).findSome? (missingStorage c) = some (j, l) →
            exec (.curprop o) s = .next (c.awaitsObjects .span j l)) ∧
          (c.HasStorage (d.attached c) → ∀ a, (d.attached c).findSome? (damagedStorage c) = some a →
            exec (.curprop o) s = .next (takeTrap .uncor a 0 c)) ∧
          (c.HasStorage (d.attached c) → (d.attached c).findSome? (damagedStorage c) = none → ∃ cs of, Proposes c d (field r 8 16 16) k n cs of ∧
            let e := { d with
              proposal := some cs
              proposed := d.proposed + word ((cs.map (fun x => x.tokens.length)).sum)
              proposals := d.proposals + 1 }
            let area := (List.range 4).flatMap (fun h => leBytes 4 ((cs[h]?.map (fun x =>
                x.tokens.length + x.slot * 2 ^ 8 + x.len * 2 ^ 16)).getD 0)) ++
              (List.range 4).flatMap (fun h => (List.range 64).flatMap (fun i => leBytes 4 (((cs[h]?.bind (fun x =>
                x.tokens[i]?)).getD 0).toNat)))
            exec (.curprop o) s = .next (((go.setCursor e).answered o.a (word cs.length)).holding
              (.output (cellsOf locs area))))) ∧
      ∀ y : List Slot, y.length = 260 → c.TokensAt (s.xr o.c) y →
        let cs := d.proposal.getD []
        ∃ h a, Accepts y cs h a ∧
          let ts := ((cs[h]?.map Chain.tokens).getD []).take a ++ (y.drop (65 * h + a)).take 1
          let e := fun (linked : Option (Slot × Nat)) => { d with
            w := d.w ++ ts
            mark := some ⟨d.w.length, linked, ts.length⟩
            proposal := none
            accDrafts := d.accDrafts + word a
            committed := d.committed + word (a + 1)
            acceptances := d.acceptances + 1 }
          let v := word (a + 256 * h)
          (d.linked.bind (objectOf c) = none → exec (.curacc o) s = .next ((go.setCursor (e none)).answered o.a v)) ∧
          ∀ q x, d.linked = some q → objectOf c q = some x →
            let z := x.appended ts
            (∀ j l, missingStorage c x = some (j, l) → exec (.curacc o) s = .next (c.awaitsObjects .span j l)) ∧
            (c.HasStorage [x] → ∀ b, damagedStorage c x = some b → exec (.curacc o) s = .next (takeTrap .uncor b 0 c)) ∧
            (c.HasStorage [x] → damagedStorage c x = none → x.cap < z.tokens.length →
              exec (.curacc o) s = .next (takeTrap .ixlimit (q.setWidth 64) 0 c)) ∧
            (c.HasStorage [x] → damagedStorage c x = none → z.tokens.length ≤ x.cap → exec (.curacc o) s =
              .next ((touchStorage z ((c.setCursor (e (some (x.handle, x.tokens.length)))).setObject z)).accepts .span
                |>.answered o.a v))

/-- O55. What the frontier instructions do. With the frontier engine ready: FLAUNCH of a good record translates its save
area and its completion word, and answers −1, −2, or makes a launch with its tasks in the lowest free slot and answers
the handle; else it traps with ALIGN, FREC, BADDEP or PROT. FNEXT answers −2, −1, the first ready point in row-major
order, or waits; FDONE marks the held point done; of a launch that is cut both take the task away. FPOINT and FQUERY
answer; FCANCEL, FSAVE and FRESUME change the launch's state as R314 to R318 say, and wait in the queue while it is
SAVING; FSAVE asks the tasks of a running launch to leave, or rewrites the saved-by byte of a parked one, FRESUME
loads the table of an area that R318 admits, and both of FCANCEL and FRESUME let the tasks re-enter; a launch that has
come to its end writes its completion word, posts, and answers waiting FNEXT with −1. A bad handle, task, point or
state traps with FHANDLE, FNOTASK, FPOINTBAD or FSTATE. That the last FDONE of a launch that FCANCEL has cut ends it
with the cancel word, and what an ended task leaves, are the model's readings (log entries 33 and 34). (R297, R298,
R299, R301, R302, R303, R307, R309, R310, R313, R315, R318) -/
def Obligations.FrontierResults : Prop :=
  (∀ (l : Launch) (p : Point), l.firstReady = some p → PointReady l p ∧ p.p0 < l.e0 ∧
    ∀ q, Point.In l q → Point.Before l q p → ¬ PointReady l q) ∧
  (∀ (l : Launch) (v : Word) (p : Point), l.unpack v = some p ↔ Point.In l p ∧ v.getLsbD 63 = false ∧
    p.p0 = v.toNat % 2 ^ 21 ∧ p.p1 = v.toNat / 2 ^ 21 % 2 ^ 21 ∧ p.p2 = v.toNat / 2 ^ 42 % 2 ^ 21) ∧
  (∀ (s : State) (l : Launch),
    let all := l.e0 * l.e1 * l.e2 ≤ l.doneCount
    let ended := (l.state = .running ∧ all) ∨ (l.state = .cancelling ∧ (all ∨ ∀ t ∈ l.tasks, t.held = none))
    let freed := fun (u : State) => u.withPart { u.part with
      launches := u.part.launches.filter (fun k => decide (k.handle ≠ l.handle))
      launchGens := assocSet u.part.launchGens (l.handle.toNat % 2 ^ 8) ((assocGet u.part.launchGens (l.handle.toNat % 2 ^ 8) 0 + 1) % 2 ^ 22) }
    (∀ b, startSave b l s =
      let u := s.withLaunch { l with
        state := .saving
        saveBy := b }
      let ts := taskHarts u s.part.cfg.pid l
      (ts.map (·.hall)).eraseDups.foldl (fun u h => yieldHall h u) (ts.foldl (fun u h => requestOff (.launch l.handle) h u) u)) ∧
    (∀ k n rest, l.savePages = (k, n) :: rest →
      let saved := { l with
        state := .saved
        saveBy := 1 }
      (isRemote (k + 6) = false → parkedToSaved l s = (s.poke (k + 6) [1]).withLaunch saved) ∧
      (isRemote (k + 6) = true → parkedToSaved l s = (s.engineStore l.by_ none ⟨k + 6, none⟩ [1]).withLaunch saved)) ∧
    reenter l s = ((taskHarts s s.part.cfg.pid l).map (·.hall)).eraseDups.foldl (fun u h => arbitrate h u) (s.mapHarts (fun h =>
      if h.pid = s.part.cfg.pid ∧ h.status = .off (.launch l.handle) then { h with status := .off .slot } else h)) ∧
    l.finalWord = (if l.failed then 0x8000000000000044 else if l.state = .cancelling then 0x4000000000000000 ||| word l.doneCount
      else l.cval) ∧
    completeLaunch l s = (
      let h : Word := l.handle.setWidth 64
      let w := finishCommand {
        by_ := l.by_
        payload := l.by_
        epoch := none
        va := l.cwordVa
        key := some l.cwordKey
        val := l.finalWord
        v1 := h
        status := if l.failed then 0x44 else 0
        intr := if l.intr then some (5, 0, h) else none
        copy := none
        launch := some l.handle
        asked := none
        reply := []
        refused := [] } s
      let x := l.waiting.foldl (fun u id => answerFnext id (wi (-1)) u) (w.withPart { w.part with
        launches := w.part.launches.map (fun k => if k.handle = l.handle then { k with state := .done } else k) })
      x.withPart { x.part with
        launches := x.part.launches.map (fun k => if k.handle = l.handle then { k with waiting := [] } else k) }) ∧
    (s.launchOf l.handle = some l →
      let u := if ended then completeLaunch l s else if l.state = .cancelling then dismissFnext l s else s
      ∀ k, u.launchOf l.handle = some k →
        (k.wordWritten = true ∧ (∀ t ∈ k.tasks, t.ended = true) → settleLaunch l.handle s = freed u) ∧
        (¬ (k.wordWritten = true ∧ ∀ t ∈ k.tasks, t.ended = true) → settleLaunch l.handle s = u)) ∧
    (s.launchOf l.handle = none → tryFree l.handle s = s) ∧
    (s.launchOf l.handle = some l → (l.wordWritten = true ∧ (∀ t ∈ l.tasks, t.ended = true) → tryFree l.handle s = freed s) ∧
      (¬ (l.wordWritten = true ∧ ∀ t ∈ l.tasks, t.ended = true) → tryFree l.handle s = s))) ∧
  ∀ (s : State), EngineReady s .front →
    let c := s.closed
    let go := c.accepts .front
    (∀ (o : R2), let a := s.xr o.b
      let i := Instr.flaunch o
      (a.toNat % 128 ≠ 0 → exec i s = .next (takeTrap .align a 0 c)) ∧
      (a.toNat % 128 = 0 → ∀ r, c.recordAt a 128 = some r →
        let word_ := field r 72 0 64
        let ok := LaunchFields r s.hart.prio.toNat ∧ LaunchDeps r
        (¬ LaunchFields r s.hart.prio.toNat → exec i s = .next (takeTrap .frec a 0 c)) ∧
        (LaunchFields r s.hart.prio.toNat → ¬ LaunchDeps r → exec i s = .next (takeTrap .baddep a 0 c)) ∧
        ∀ pages loc, ok → c.reads (launchPages (spanOf (field r 64 0 64) (320 + 16 * launchRows r))) = some pages →
          c.reads (engineTranslate .store word_) = some loc →
          let used := fun i => ∃ l ∈ c.part.launches, l.handle.toNat % 2 ^ 8 = i
          (loc.dev = true → exec i s = .next (takeTrap .prot (word word_) 0 c)) ∧
          (loc.dev = false → (∀ j, j < 256 → used j) → exec i s = .next (go.answered o.a (wi (-1)))) ∧
          (loc.dev = false → ∀ j, j < 256 → ¬ used j → (∀ k, k < j → used k) →
            let h : Slot := BitVec.ofNat 32 (3 * 2 ^ 30 + assocGet c.part.launchGens j 0 % 2 ^ 22 * 2 ^ 8 + j)
            (freeTaskIds go (launchTasks r) = none → exec i s = .next (go.answered o.a (wi (-2)))) ∧
            ∀ ids, freeTaskIds go (launchTasks r) = some ids →
              let t := go.withPart { go.part with
                launches := go.part.launches ++ [launchOf r h (c.issuer .front (c.hart.ordinal .front)) pages loc ids] }
              exec i s = .next ((ids.foldl (fun t id => spawn id t.hart.hall (taskOf r h) t) t).answered o.a (h.setWidth 64)) ∧
              ids.length = launchTasks r ∧ ids.Pairwise (· < ·) ∧
              (∀ id ∈ ids, 1 ≤ id ∧ id < Config.maxHarts ∧ ∀ g ∈ hartsOf go, g.id ≠ id) ∧
              ∀ id, 1 ≤ id → id < Config.maxHarts → (∀ g ∈ hartsOf go, g.id ≠ id) → id ∉ ids → ∀ k ∈ ids, k < id))) ∧
    (∀ (h : Word), c.launchNamed h = none →
      (∀ (o : R2), s.xr o.b = h → exec (.fnext o) s = .next (takeTrap .fhandle h 0 c)) ∧
      (∀ (o : RBC), s.xr o.b = h → exec (.fdone o) s = .next (takeTrap .fhandle h 0 c)) ∧
      (∀ (o : R3), s.xr o.b = h → ∀ i ∈ [Instr.fpoint o, .fquery o], exec i s = .next (takeTrap .fhandle h 0 c)) ∧
      (∀ b, s.xr b = h → exec (.fcancel b) s = .next (takeTrap .fhandle h 0 c)) ∧
      ∀ b, s.xr b = h → s.isSuper → ∀ i ∈ [Instr.fsave b, .fresume b], exec i s = .next (takeTrap .fhandle h 0 c)) ∧
    ∀ (h : Word) l, c.launchNamed h = some l →
      let cut := l.state = .saving ∨ l.state = .saved ∨ l.state = .parked
      let leaves : Out := .next (takeAway (.launch l.handle) c.hart c)
      let later : Out := .next (c.queuedUp .front (.saving l.handle))
      (c.taskNamed l = none →
        (∀ (o : R2), s.xr o.b = h → exec (.fnext o) s = .next (takeTrap .fnotask h 0 c)) ∧
        ∀ (o : RBC), s.xr o.b = h → exec (.fdone o) s = .next (takeTrap .fnotask h 0 c)) ∧
      (∀ t, c.taskNamed l = some t →
        (∀ (o : R2), s.xr o.b = h →
          let first := ∀ id ∈ waitingNext go l, id = s.hart.id
          (cut → exec (.fnext o) s = leaves) ∧
          (¬ cut → t.held ≠ none → exec (.fnext o) s = .next (go.answered o.a (wi (-2)))) ∧
          (¬ cut → t.held = none → l.over = true → exec (.fnext o) s = .next (go.answered o.a (wi (-1)))) ∧
          (¬ cut → t.held = none → l.over = false →
            (first → ∀ p, l.firstReady = some p →
              exec (.fnext o) s = .next ((go.setLaunch (l.give s.hart.id p)).answered o.a p.pack)) ∧
            (¬ first ∨ l.firstReady = none →
              exec (.fnext o) s = .next ((go.setLaunch { l with
                waiting := l.waiting.filter (· ≠ s.hart.id) ++ [s.hart.id] }).waits (.fnext l.handle o.a))))) ∧
        ∀ (o : RBC), s.xr o.b = h → let v := s.xr o.c
          (l.unpack v = none ∨ t.held ≠ some v → exec (.fdone o) s = .next (takeTrap .fpointbad v 0 c)) ∧
          ∀ p, l.unpack v = some p → t.held = some v →
            (cut → exec (.fdone o) s = leaves) ∧
            (¬ cut → exec (.fdone o) s = .next (settleLaunch l.handle (go.setLaunch (l.finishPoint s.hart.id p))).completed)) ∧
      (∀ (o : R3), s.xr o.b = h → let v := s.xr o.c
        (l.unpack v = none → exec (.fpoint o) s = .next (takeTrap .fpointbad v 0 c)) ∧
        (l.state = .saving → exec (.fquery o) s = later ∧ ∀ p, l.unpack v = some p → exec (.fpoint o) s = later) ∧
        (l.state ≠ .saving →
          (∀ p, l.unpack v = some p →
            (PointDone l p → exec (.fpoint o) s = .next (go.answered o.a 2)) ∧
            (¬ PointDone l p → PointHeld l p → exec (.fpoint o) s = .next (go.answered o.a 1)) ∧
            (¬ PointDone l p → ¬ PointHeld l p → exec (.fpoint o) s = .next (go.answered o.a 0))) ∧
          ∃ w, exec (.fquery o) s = .next (go.answered o.a w) ∧
            (s.xn o.c = 0 → (l.state, w) ∈ ([(.running, 0), (.saving, 1), (.saved, 2), (.parked, 3), (.cancelling, 4), (.done, 5)] :
              List (LaunchState × Word))) ∧
            (s.xn o.c = 1 → w = word l.doneCount) ∧
            (s.xn o.c = 2 → w = word (l.tasks.filter (fun t => t.held.isSome)).length) ∧
            (s.xn o.c = 3 → w = word (l.tasks.filter (fun t => !t.ended)).length) ∧
            (s.xn o.c = 4 → w = word (l.e0 * l.e1 * l.e2)) ∧
            (s.xn o.c = 5 → w = word l.rows.length) ∧
            (5 < s.xn o.c → w = wi (-1)))) ∧
      ∀ b, s.xr b = h →
        (l.state = .saving → exec (.fcancel b) s = later) ∧
        (l.state ∈ [.saved, .cancelling, .done] → exec (.fcancel b) s = .next (takeTrap .fstate h 0 c)) ∧
        (l.state ∈ [.running, .parked] → exec (.fcancel b) s = .next
          (settleLaunch l.handle (reenter l (go.setLaunch { l with state := .cancelling }))).completed) ∧
        (s.isSuper →
          (l.state = .saving → ∀ i ∈ [Instr.fsave b, .fresume b], exec i s = later) ∧
          (l.state ∈ [.saved, .cancelling, .done] → exec (.fsave b) s = .next (takeTrap .fstate h 0 c)) ∧
          (l.state = .parked → ∀ u, u = parkedToSaved l go →
            (owed u l.by_ = false → exec (.fsave b) s = .next u.completed) ∧
            (owed u l.by_ = true → exec (.fsave b) s = .next (u.completed.holding (.save l.handle)))) ∧
          (l.state = .running → exec (.fsave b) s = .next ((startSave 1 l go).completed.holding (.save l.handle))) ∧
          (l.state ∈ [.running, .parked, .cancelling, .done] → exec (.fresume b) s = .next (takeTrap .fstate h 0 c)) ∧
          (l.state = .saved → ∀ bs, c.reads (readPages l.saveVa.toNat l.savePages) = some bs →
            ((∀ k, ¬ AreaOk l bs k) → exec (.fresume b) s = .next (takeTrap .frec l.saveVa 0 c)) ∧
            ∀ k, AreaOk l bs k →
              exec (.fresume b) s = .next (settleLaunch l.handle (reenter k (go.setLaunch k))).completed))

/-- O56. What GSWITCH, GRESUME and FBSTAT do. With the fabric engine ready: in supervisor mode GSWITCH and GRESUME of a
record that keeps the limits of R345, whose completion word can be stored to and whose save area is large enough, take
the command for a job in the state that admits it, and complete: GSWITCH begins the switch here, every live hart of
the job's partition being asked to leave, and tells every other device; GRESUME tells them and re-injects the packets
swept and late, each as there is room for it and behind those of its job and of its input before it; once all have
entered, the injection is admitted again and the harts wait for their slots. They wait in the queue in the state
before, and while the partition's pre-emption is in progress, and trap with JSTATE in another. FBSTAT answers the
state, the number of devices, the counts, this device's own with those that others have reported, or the node, −1 for
another selector. ALIGN, PAGE, JOBHANDLE and SAVEAREA trap in the order of R346, the last for each device of the job.
The packets by which the devices agree, and what a count holds before a device reports, and how packets wait for room,
are the model's choices (log entries 20, 18 and 42). (R344, R345, R346, R347, R348, R351, R352, R7, R339) -/
def Obligations.GangSwitchInstructions : Prop :=
  ∀ (s : State), EngineReady s .fab →
    let c := s.closed
    let go := c.accepts .fab
    (s.isSuper → ∀ b, let a := s.xr b
      ∀ (i : Instr) (out : Bool), (i, out) ∈ [(Instr.gswitch b, true), (.gresume b, false)] →
        (a.toNat % 32 ≠ 0 → exec i s = .next (takeTrap .align a 0 c)) ∧
        (a.toNat % 32 = 0 → ∀ r, c.recordAt a 32 = some r →
          let word_ := field r 8 0 64
          let tag : BitVec 16 := BitVec.ofNat 16 (field r 0 0 16)
          let st := (c.job tag).state
          (word_ % 8 ≠ 0 → exec i s = .next (takeTrap .align (word word_) 0 c)) ∧
          (word_ = 0 → exec i s = .next (takeTrap .page 0 0 c)) ∧
          ∀ loc, word_ % 8 = 0 → word_ ≠ 0 → c.reads (engineTranslate .store word_) = some loc →
            (¬ SwitchRecordOk c r → exec i s = .next (takeTrap .jobhandle (tag.setWidth 64) 0 c)) ∧
            (SwitchRecordOk c r →
              let holds := fun (cap size : Nat) => 64 + 384 * (1024 + cap) ≤ size
              let here := ∀ q, jobPart c tag = some q → holds q.cfg.lateCap q.cfg.saveSize
              (∀ q, jobPart c tag = some q → ¬ here → exec i s = .next (takeTrap .savearea (word q.cfg.saveBase) 0 c)) ∧
              (here → ∀ before d rest, jobDevices c tag = before ++ d :: rest → (∀ e ∈ before, holds e.lateCap e.saveSize) →
                ¬ holds d.lateCap d.saveSize → exec i s = .next (takeTrap .savearea (word d.saveBase) 0 c)) ∧
              (here → (∀ d ∈ jobDevices c tag, holds d.lateCap d.saveSize) →
                let refused := if out then [JobState.switching, .out, .dead] else [.running, .resuming, .dead]
                let before := if out then JobState.resuming else .switching
                let admits := if out then JobState.running else .out
                (st ∈ refused → exec i s = .next (takeTrap .jstate (tag.setWidth 64) 0 c)) ∧
                (st = before → exec i s = .next (c.queuedUp .fab .job)) ∧
                (st = admits → jobLeaves c tag = true → exec i s = .next (c.queuedUp .fab (.leaving tag))) ∧
                (st = admits → jobLeaves c tag = false → exec i s = .next
                  ((if out then switchOut (Job.taken c a r) go else resumeJob (Job.taken c a r) go).completed)))))) ∧
    (∀ (o : R3), let v := s.xr o.b
      let tag : BitVec 16 := v.setWidth 16
      let admitted := v.toNat < 2 ^ 16 ∧ tag ≠ 0 ∧ (tag ∈ c.part.cfg.ctrlTags ∨ c.part.cfg.job = tag)
      let j := c.job tag
      let st := j.state
      let total := fun (own : Nat) (f : Counts → Nat) => ((jobNodes c tag).map (fun n =>
        if n = c.dev.node then own else ((j.reports.find? (fun d => d.node == n)).map f).getD 0)).sum
      (¬ admitted → exec (.fbstat o) s = .next (takeTrap .jobhandle v 0 c)) ∧
      (admitted → ∃ w, exec (.fbstat o) s = .next (go.answered o.a w) ∧
        (s.xn o.c = 0 → (st, w) ∈ ([(.running, 0), (.switching, 1), (.out, 2), (.resuming, 3), (.dead, 4)] : List (JobState × Word))) ∧
        (s.xn o.c = 1 → w = word (jobNodes c tag).length) ∧
        (s.xn o.c = 2 → st ∈ [.running, .switching] → w = 0) ∧
        (s.xn o.c = 2 → st ∉ [.running, .switching] → w = word (total j.swept.length (·.swept))) ∧
        (s.xn o.c = 3 → w = word (total j.late.length (·.late))) ∧
        (s.xn o.c = 4 → w = c.part.cfg.node.setWidth 64) ∧
        (4 < s.xn o.c → w = wi (-1)))) ∧
  ∀ (s : State) (j : Job),
    let tell := fun (code : Byte) (u : State) => ((jobNodes u j.tag).filter (· != u.dev.node)).foldl (fun (u : State) n =>
      u.sendAs 0 u.dev.node 0 n 11 2 0 3 (code :: leBytes 2 j.tag.toNat)) u
    let leaving := fun (q : Partition) (u : State) => yieldHalls q.cfg.halls
      ((u.allHarts.filter (fun h => h.pid == q.cfg.pid && h.isLive)).foldl (fun u h => requestOff .job h u) u)
    let back := fun (q : Partition) (u : State) => q.cfg.halls.foldl (fun u hall => arbitrate hall u) (u.mapHarts (fun h =>
      if h.pid = q.cfg.pid ∧ h.status = .off .job then { h with status := .off .slot } else h))
    (∀ (r : Swept), reinject r s =
      if r.port.k = 10 then s.withDev { s.dev with egress := s.dev.egress ++ [(r.port.die, r.packet)] }
      else if r.packet.dst = s.dev.node then deliver r.packet s
      else s.withDev { s.dev with ports := s.dev.ports.map (fun p =>
        if p.ref = r.port then { p with buffer := p.buffer ++ [r.packet] } else p) }) ∧
    (∀ (left : List Swept) (r : Swept) rest,
      (hasRoom s r = true ∧ (∀ q ∈ left, waitsBehind q r = false) → enterAll left (r :: rest) s = enterAll left rest (reinject r s)) ∧
      (¬ (hasRoom s r = true ∧ ∀ q ∈ left, waitsBehind q r = false) → enterAll left (r :: rest) s = enterAll (left ++ [r]) rest s) ∧
      enterAll left [] s = (s, left)) ∧
    (∀ (r : Swept), (r.port.k = 10 → (hasRoom s r = true ↔ s.dev.egressCount r.port.die r.packet.vc < 16)) ∧
      (r.port.k ≠ 10 → (hasRoom s r = true ↔ r.packet.dst = s.dev.node ∨ ∀ p, s.portOf r.port = some p →
        (p.buffer.filter (fun q => q.vc == r.packet.vc)).length < if r.port.k = 11 then 8 else 6)) ∧
      ∀ q : Swept, waitsBehind q r = true ↔ q.port.die = r.port.die ∧
        (q.packet.job = r.packet.job ∨ (q.port = r.port ∧ q.packet.vc = r.packet.vc))) ∧
    settleEntering s = (let e := enterAll [] s.dev.entering (s.withDev { s.dev with entering := [] })
      (s.dev.jobs.map (·.tag)).foldl (fun u t => readmit t u) (e.1.withDev { e.1.dev with entering := e.2 })) ∧
    (∀ q, jobPart s j.tag = some q → beginSwitch j s =
      let k := if j.stopped then j else { j with
        marked := []
        swept := []
        late := []
        full := false }
      leaving q (s.setJob { k with
        state := .switching
        offNodes := []
        reports := []
        back := []
        overflow := false })) ∧
    switchOut j s = tell 0 (beginSwitch j s) ∧
    resumeJob j s = beginResume j (tell 1 s) ∧
    (∀ k, k = s.job j.tag →
      (k.state = .resuming ∧ k.stopped = true ∧ (∀ r ∈ s.dev.entering, r.packet.job ≠ j.tag) →
        let v := s.setJob { k with
          stopped := false
          marked := [] }
        ∀ p, jobPart v j.tag = some p → readmit j.tag s = back p (v.withDev v.dev.refill)) ∧
      (¬ (k.state = .resuming ∧ k.stopped = true ∧ ∀ r ∈ s.dev.entering, r.packet.job ≠ j.tag) → readmit j.tag s = s)) ∧
    ∀ u, u = s.setJob { j with
        state := .resuming
        back := [] } →
      (jobPart u j.tag = none → beginResume j s = u) ∧
      ((jobPart u j.tag).isSome → beginResume j s = settleEntering ((u.withDev { u.dev with
        entering := u.dev.entering ++ j.swept ++ j.late }).setJob { j with
          state := .resuming
          back := []
          stopped := true }))

/-- O57. What the events of harts and arbiters do. BUDGET, a reserved encoding and a failed fetch take their traps. An
event of a hart that does not exist changes nothing. Of one that does: the end of a SETVL wait, a queue's admission, a
changed or timed-out WAITA location, a posted entry or a time-out for HALT, the last stale translation, and the answer
of CURATT each end the wait they belong to, with the value the rule gives, and nothing ends before its condition
holds; a time-out only where WTIME is not 0. A pre-emption at a commit point, a watchdog expiry, an eviction and a
forced shrink take the hart or its surplus bricks, by rollback where the rule says so; a request of the arbiters waits
for a load or an atomic on its way, and takes any other waiting hart at once; a hart taken off keeps its registers;
and the arbiters change of every other hart only its place, its bricks and its geometry. The targets of a hall are
those of the arbiter's two passes. A CURATT whose hart leaves in its wait has its answer. The moment of an event, how
many ticks a time-out takes, an event that cannot be, the joining of requests, and the cuts of unequal blocks are the
model's choices (log entries 3, 4, 27, 31, 32, 40 and 51). (R41, R37, R105, R96, R98, R99, R101, R125, R131, R132,
R211, R283) -/
def Obligations.HartEventResults : Prop :=
  (∀ (s : State), exec .budget s = .next (takeTrap .budget 0 0 s) ∧
    (∀ w : BitVec 32, exec (.reservedEncoding w) s = .next (takeTrap .ill (w.setWidth 64) 0 s)) ∧
    ∀ (f : FetchFault) (c : Cause), (f.cause, c) ∈ [(FetchCause.page, Cause.page), (.prot, .prot), (.uncor, .uncor)] →
      exec (.fetchFault f) s = .next (takeTrap c f.va 0 s)) ∧
  (∀ (s : State) (r : HartRef), s.findHart r.pid r.id.toNat = none → ∀ i ∈ hartEventsOf r, exec i s = .next s) ∧
  (∀ (s : State) (h : Hart),
    (∀ b, b ∈ h.keeps s ↔ b ∈ h.grant ∧ b.2 < Config.bricksPerHall ∧ s.usable b = true ∧
      ((List.range b.2).filter (fun i => h.grant.contains (b.1, i) && s.usable (b.1, i))).length < shareOf s b.1 h.pid h.gkey) ∧
    (h.InFlight → shrinkOne s h = s) ∧
    (¬ h.InFlight → ∃ f, shrinkOne s h = s.modHartOf h.pid h.id f ∧ ∀ g, (f g).grant = g.keeps s ∧
      (f g).bricks = (g.keeps s).length ∧ (f g).mortar = [] ∧ (f g).live.pc = g.answered.ckpt.pc ∧ (f g).live.x = g.answered.ckpt.x ∧
      (f g).live.v = g.answered.ckpt.v ∧ (f g).live.t = g.answered.ckpt.t ∧ (f g).cut ≠ none) ∧
    (∀ a v, h.status = .waiting (.curatt a v) → h.answered = (({ s with hart := h } : State).answered a v).hart) ∧
    ((∀ a v, h.status ≠ .waiting (.curatt a v)) → h.answered = h) ∧
    (∀ hall, Arbitrates s hall) ∧
    ∀ p key t, s.focusPart p = some t → renewPhase p key s = s.visit t (fun u => u.withGang key (fun g => { g with
      phaseGrant := g.phaseGrant.map (fun _ => shareOf u g.hall p key) }))) ∧
  (∀ (s : State) (hall : Nat), ∃ f, (∀ g : Hart, g.Rearranged (f g)) ∧ yieldHall hall s = s.mapHarts f) ∧
  (∀ (s : State) (why : Off) (h : Hart),
    let want := (h.preempt.filter (fun w => decide (why.rank ≤ w.rank))).getD why
    let asked := s.modHartOf h.pid h.id (fun g => { g with preempt := some want })
    let later := (∃ k n, h.status = .waiting (.remote k n)) ∨ (∃ k n a, h.status = .waiting (.atomic k n a)) ∨
      (h.status = .waiting .acks ∧ h.outgoing ≠ []) ∨ ∃ v, h.status = .waiting (.ending v)
    let u := fun (w : Off) => s.modHartOf h.pid h.id (Hart.takenOff s w)
    (h.status = .ready ∨ later → requestOff why h s = asked) ∧
    (((∃ w, h.status = .waiting w) ∧ ¬ later) ∨ h.status = .held → requestOff why h s = takeOff h.pid h.id want s) ∧
    (∀ w, h.status = .off w →
      (w.rank < why.rank → requestOff why h s = takeOff h.pid h.id why s) ∧ (why.rank ≤ w.rank → requestOff why h s = s)) ∧
    (h.isLive = false → requestOff why h s = s) ∧
    (why = .bricks ∨ why = .slot → takeOff h.pid h.id why s = u why) ∧
    (¬ (why = .bricks ∨ why = .slot) → ∀ v, v = (u why).freeTags ((u why).tagged h.pid h.id) h.id →
      takeOff h.pid h.id why s = { v with
        dev := { v.dev with contexts := v.dev.contexts ++ [h.pid] } }) ∧
    let g := h.takenOff s why
    h.Leaves g ∧ (why = .bricks → g.slot = h.slot ∧ g.status = if holdsEnough s g then .ready else .held) ∧
    (why ≠ .bricks → g.slot = none ∧ g.status = .off (if why = .managed then .slot else why))) ∧
  ∀ (s : State) (r : HartRef) (h : Hart), s.findHart r.pid r.id.toNat = some h →
    let gang := membersOf s h.pid h.gkey
    let shrinks := h.share s ≠ 0 ∧ (h.keeps s).length < h.grant.length ∧ ∀ g ∈ gang, ¬ g.InFlight
    (∀ e, h.status = .waiting (.queue e) → ∃ f, exec (.engineQueueAdmit r) s = .next (s.modHartOf h.pid h.id f) ∧
      f h = { h with
        queued := h.queued.erase e
        status := .ready }) ∧
    (∀ tag, h.status = .waiting (.leaving tag) → ∃ f, exec (.engineQueueAdmit r) s = .next (s.modHartOf h.pid h.id f) ∧
      (jobLeaves s tag = true → f h = h) ∧
      (jobLeaves s tag = false → f h = { h with
        queued := []
        status := .ready })) ∧
    (∀ why, h.preempt = some why →
      (h.status = .ready → h.AtCommit → exec (.preemption r) s = .next (yieldHalls h.blockHalls (takeOff h.pid h.id why s))) ∧
      (¬ (h.status = .ready ∧ h.AtCommit) → exec (.preemption r) s = .next s) ∧
      (h.InFlight → exec (.watchdogExpiry r) s = .next s) ∧
      (¬ h.InFlight → exec (.watchdogExpiry r) s =
        .next (yieldHalls h.blockHalls (takeOff h.pid h.id why (s.modHartOf h.pid h.id Hart.rollback))))) ∧
    (h.preempt = none → exec (.preemption r) s = .next s ∧ exec (.watchdogExpiry r) s = .next s) ∧
    (MakesWay s h → exec (.residencyEviction r) s = .next (yieldHalls h.blockHalls (requestOff .slot h s))) ∧
    (¬ MakesWay s h → exec (.residencyEviction r) s = .next s) ∧
    (shrinks → exec (.forcedShrink r) s =
      .next (yieldHalls (gang.flatMap Hart.blockHalls).eraseDups (gang.foldl shrinkOne (renewPhase h.pid h.gkey s)))) ∧
    (¬ shrinks → exec (.forcedShrink r) s = .next s) ∧
    ∀ t, s.focusHart h.pid h.id = some t →
      let ready : State := { t with hart := { t.hart with status := .ready } }
      let ends := fun (u : State) => (Host.Outcome.next (s.visit t (fun _ => u)) : Out)
      let woken : List Instr := [.setvlGrantWaitEnd r, .waitaWake r, .waitTimeout r, .haltResume r, .haltTimeout r, .tlbinvComplete r,
        .curattResult r]
      ((∀ w, h.status ≠ .waiting w) → ∀ i ∈ woken, exec i s = .next s) ∧
      (h.status = .waiting .grant →
        ((takeGrant t).2 = true → exec (.setvlGrantWaitEnd r) s = ends ready) ∧
        ((takeGrant t).2 = false → exec (.setvlGrantWaitEnd r) s = .next s)) ∧
      (∀ key n c a, h.status = .waiting (.value key n c a) →
        let m := t.peekNat key n
        let sure := isRemote key = false ∧ t.damagedAt key n = false
        (¬ sure → exec (.waitaWake r) s = ends ready) ∧
        (sure → m = c.toNat → exec (.waitaWake r) s = .next s) ∧
        (sure → m ≠ c.toNat → exec (.waitaWake r) s = ends (t.answered a (atomicResult n m))) ∧
        (t.hart.wtime = 0 → exec (.waitTimeout r) s = .next s) ∧
        (t.hart.wtime ≠ 0 →
          (isRemote key = true → exec (.waitTimeout r) s = ends (t.answered a (atomicResult n c.toNat))) ∧
          (isRemote key = false → t.damagedAt key n = true → exec (.waitTimeout r) s = ends ready) ∧
          (sure → exec (.waitTimeout r) s = ends (t.answered a (atomicResult n m))))) ∧
      (∀ posted, h.status = .waiting (.halt posted) →
        (posted < t.part.posted → exec (.haltResume r) s = ends t.completed) ∧
        (t.part.posted ≤ posted → exec (.haltResume r) s = .next s) ∧
        (t.hart.wtime = 0 → exec (.haltTimeout r) s = .next s) ∧
        (t.hart.wtime ≠ 0 → exec (.haltTimeout r) s = ends t.completed)) ∧
      (h.status = .waiting .tlbinv →
        (t.HeldElsewhere → exec (.tlbinvComplete r) s = .next s) ∧
        (¬ t.HeldElsewhere → exec (.tlbinvComplete r) s = ends t.completed)) ∧
      ∀ a v, h.status = .waiting (.curatt a v) → exec (.curattResult r) s = ends (t.answered a v)

/-- O58. What the engines do after they have accepted a command. In the partition of the event: a chunk of a running copy
moves its bytes from source to destination, or fails where a source byte is damaged, its mask bit is set, and the last
one ends the copy; a copy whose translation failed, or without chunks, ends at once; a BCOW's hart goes on once its
copy's bytes are performed, and a fault of the copy is posted; a promotion copies its far bytes into the block and is
RESIDENT, DAMAGED or FAR by what its reads and its CRC say, or asks for the bytes of another device that it still
needs; a compaction completes; a reclamation, the release of dropped storage, the output of a CURPROP, the service of
a FNEXT, a save area and a park each have the effect of their rule, and release the harts that wait for it. A command
completes when its payload is performed: its word is written or sent, or not where its translation fails, its status
is posted, then the entry of R364, then its interrupt, and its copy or launch ends; a table on another device is asked
for. The save area of a launch has the bytes of R316. Where the object does not exist, nothing changes. The free bytes
of a failed chunk, the moment of a compaction's work and the pieces that are asked for are the model's choices (log
entries 6, 39 and 16). (R252, R255, R234, R236, R240, R279, R287, R311, R316, R317, R319, R364) -/
def Obligations.EngineEventResults : Prop :=
  (∀ (s : State) (o : ObjRef) (chunk : Nat) (p : PartId), s.focusPart o.pid = none → s.focusPart p = none →
    ∀ i ∈ [Instr.copyChunkDone o chunk, .copyTranslationFault o, .promotionComplete o, .compactionComplete p, .epochReclaim p,
      .fnextServe o, .fsaveAreaWritten o, .launchPark o], exec i s = .next s) ∧
  (∀ (s : State) (b : Issuer) (word_ : Option (Word × Word)) (loc : Loc) (bs : List Byte),
    (isRemote loc.key = false → s.engineStore b word_ loc bs = s.poke loc.key bs) ∧
    (∀ o d k, s.sendWrite o d k [] = s ∧
      (bs ≠ [] → bs.length ≤ 256 → s.sendWrite o d k bs = s.sentRequest o d k 3 bs.length bs) ∧
      (256 < bs.length → s.sendWrite o d k bs = (s.sentRequest o d k 3 256 (bs.take 256)).sendWrite o d (k + 256) (bs.drop 256))) ∧
    (isRemote loc.key = true → ∃ f : Nat × List Byte → Nat × List Byte,
      let u := s.sendWrite (.engine b word_) b.die loc.key bs
      s.engineStore b word_ loc bs = { u with
        hart := { u.hart with reply := u.hart.reply.map f }
        harts := u.harts.map (fun h => if h.pid = s.part.cfg.pid ∧ h.reading = some b.engine then { h with
          status := (match h.status with
            | .waiting (.remote _ _) => .ready
            | st => st)
          asked := none
          reply := []
          refused := [] } else h) } ∧
      ∀ k l, (f (k, l)).1 = k ∧ (f (k, l)).2.length = l.length ∧ ∀ i, i < l.length →
        (f (k, l)).2[i]? = if loc.key ≤ k + i ∧ k + i < loc.key + bs.length then bs[k + i - loc.key]? else l[i]?)) ∧
  (∀ (s : State) (c : Completion),
    let u : State := { s with hart := { s.hart with
      reply := c.reply
      refused := c.refused } }
    let at_ : Except XErr Loc := match c.key with
      | some k => .ok ⟨k, none⟩
      | none => engineXlate u c.by_ .store c.va
    let without := s.withPart { s.part with completions := s.part.completions.erase c }
    let later := fun (d : Completion) (w : State) => w.withPart { w.part with completions := w.part.completions ++ [d] }
    (owed s c.payload = true ↔ ∃ r ∈ s.dev.outstanding, r.pid = s.part.cfg.pid ∧ r.kind = 3 ∧ ∃ b, r.from_ = .engine b none ∧
      b.engine = c.payload.engine ∧ b.hart = c.payload.hart ∧ b.serial = c.payload.serial ∧ b.ordinal = c.payload.ordinal) ∧
    (owed s c.payload = true → finishCommand c s = later c s) ∧
    (owed s c.payload = false →
      (∀ loc, at_ = .ok loc → finishCommand c s = completeNow c (.ok loc) s) ∧
      (∀ e, at_ = .error e → (∀ k n, e ≠ .remote k n) → finishCommand c s = completeNow c (.error e.status) s) ∧
      ∀ k n, at_ = .error (.remote k n) → c.asked = none → c ∉ s.part.completions → finishCommand c s =
        later { c with asked := some s.dev.nextReq } (s.sentRequest (.completion c.by_) c.by_.die k 1 n [])) ∧
    (owed s c.payload = true → settleCompletion c s = s) ∧
    (owed s c.payload = false →
      (∀ loc, at_ = .ok loc → settleCompletion c s = completeNow c (.ok loc) without) ∧
      (∀ e, at_ = .error e → (∀ k n, e ≠ .remote k n) → settleCompletion c s = completeNow c (.error e.status) without) ∧
      ∀ k n, at_ = .error (.remote k n) → (c.asked ≠ none → settleCompletion c s = s) ∧
        (c.asked = none → settleCompletion c s = (s.sentRequest (.completion c.by_) c.by_.die k 1 n []).withPart { s.part with
          completions := s.part.completions.map (fun d => if d = c then { c with asked := some s.dev.nextReq } else d) })) ∧
    settleCompletions s = (let w := s.part.completions.foldl (fun u d => settleCompletion d u) s
      (w.part.launches.map (·.handle)).foldl (fun u h => tryFree h u) w) ∧
    ∀ (r : Except (BitVec 8) Loc),
      let wrote := match r with
        | .ok loc => s.engineStore c.by_ (some (c.v1, c.va)) loc (leBytes 8 c.val.toNat)
        | .error _ => s
      let told := if c.status = 0 then wrote else postEngine false 2 c.status c.by_ c.v1 c.va wrote
      let lost := match r with
        | .ok _ => told
        | .error e => postEngine false 2 e c.by_ c.v1 c.va told
      let rung := match c.intr with
        | some (kind, cause, v1) => postEngine true kind cause c.by_ v1 0 lost
        | none => lost
      let good := ∃ loc, r = .ok loc
      (c.copy = none → c.launch = none → completeNow c r s = rung) ∧
      (∀ h, c.copy = none → c.launch = some h → completeNow c r s = rung.withPart { rung.part with
        launches := rung.part.launches.map (fun k => if k.handle = h then { k with wordWritten := true } else k) }) ∧
      ∀ h st, c.copy = some (h, st) → ∃ f : Copy → Copy, (∀ d, f d = if d.handle = h then { d with state := (f d).state } else d) ∧
        (∀ d, d.handle = h → (good → (f d).state = st) ∧ (¬ good → (f d).state = .faulted)) ∧
        let live := ∃ g ∈ rung.allHarts, g.pid = rung.part.cfg.pid ∧ g.serial = c.by_.serial ∧ g.isLive = true
        (live → completeNow c r s = rung.withPart { rung.part with copies := rung.part.copies.map f }) ∧
        (¬ live → completeNow c r s = rung.withPart { rung.part with
          copies := (rung.part.copies.map f).filter (fun d => d.handle != h) })) ∧
  (∀ (s : State) (b c : Issuer) (e va word_ val : Word) (st : BitVec 8) (k : Copy) (x : CopyState),
    let end_ := fun (p : Issuer) (e : Option Word) (va val v1 : Word) (i : Option (Nat × BitVec 8 × Word)) o =>
      finishCommand {
        by_ := b
        payload := p
        epoch := e
        va := va
        key := none
        val := val
        v1 := v1
        status := st
        intr := i
        copy := o
        launch := none
        asked := none
        reply := []
        refused := [] } s
    completeCommand b c e va word_ val st s =
      end_ c (some e) word_ (if st = 0 then val else 0x8000000000000000 ||| st.setWidth 64) va none none ∧
    (k.by_ = b → finishCopy k x st val s = end_ b none k.cword val (k.handle.setWidth 64)
      (if k.intr then some (4, 0, k.handle.setWidth 64) else none) (some (k.handle, x)))) ∧
  (∀ (s : State) (pr : Promotion),
    (∀ bs t, s.hart.unperformed = [] → (∀ k n, metaPlace s .store pr.id ≠ .error (.remote k n)) →
      EngineLoads pr.by_ pr.far.toNat (2 ^ poolLog s.part) s bs →
      EngineSaves (poolIssuer s.part pr.by_) (s.part.bpbase.toNat + pr.id * 2 ^ poolLog s.part) bs s t →
      promote pr s = .ok (decide (crc32c bs = pr.crc)) t) ∧
    (∀ e t, (∀ k n, metaPlace s .store pr.id ≠ .error (.remote k n)) →
      engineLoad pr.by_ pr.far.toNat (2 ^ poolLog s.part) s = .error e t → promote pr s = .error e t) ∧
    crc32c [0x31, 0x32, 0x33, 0x34, 0x35, 0x36, 0x37, 0x38, 0x39] = 0xE3069283 ∧
    (∀ b id st, st < 256 →
      (metaLoc s .store id = none → s.setMetaState b id st = s) ∧
      ∀ loc, metaLoc s .store id = some loc → s.setMetaState b id st = s.engineStore b none ⟨loc.key + 4, loc.leaf⟩ [BitVec.ofNat 8 st]) ∧
    ∀ st, endPromotion pr st s = wakeAll .promotion ((s.part.promotions.filter (fun p => decide (p.id = pr.id))).foldl
      (fun u p => completeCommand p.by_ pr.by_ p.epoch p.recVa p.cword p.cval st u)
      (s.withPart { s.part with promotions := s.part.promotions.filter (fun p => decide (p.id ≠ pr.id)) }))) ∧
  (∀ (s : State) (l : Launch),
    let freed := s.mapHarts (fun h =>
      if h.pid = s.part.cfg.pid ∧ h.hold = some (.save l.handle) ∧ h.status = .waiting (.saving l.handle) then { h with
        hold := none
        status := .ready
        queued := [] }
      else if h.pid = s.part.cfg.pid ∧ h.hold = some (.save l.handle) then { h with hold := none }
      else if h.pid = s.part.cfg.pid ∧ h.status = .waiting (.saving l.handle) then { h with
        status := .ready
        queued := [] }
      else h)
    (owed s l.by_ = true → saveReleased l s = s) ∧
    (owed s l.by_ = false → saveReleased l s = freed) ∧
    saveWritten l s = saveReleased l ((writePages l.by_ l.savePages l.area s).withLaunch
      { l with state := if l.saveBy = 1 then .saved else .parked }) ∧
    (∀ b bs, writePages b [] bs s = s ∧ ∀ k n rest, writePages b ((k, n) :: rest) bs s =
      writePages b rest (bs.drop n) (s.engineStore b none ⟨k, none⟩ (bs.take n))) ∧
    (l.tasks.length ≤ 16 → l.rows.length < 2 ^ 32 → l.saveBy < 256 → l.dims < 256 → (∀ t ∈ l.tasks, t.hart < 2 ^ 16) →
      (∀ r ∈ l.rows, r.1 < 2 ^ 32) →
      let at_ := fun (o w : Nat) => leNat ((l.area.drop o).take w)
      l.area.length = 320 + 16 * l.rows.length ∧
      at_ 0 4 = 1 ∧ at_ 4 1 = l.tasks.length ∧ at_ 5 1 = (l.tasks.filter (fun t => t.held.isSome)).length ∧ at_ 6 1 = l.saveBy ∧
      at_ 7 1 = 0 ∧ at_ 8 8 = l.handle.toNat ∧ at_ 16 4 = l.rows.length ∧ at_ 20 1 = l.dims ∧ at_ 21 3 = 0 ∧
      at_ 24 8 = l.doneCount % 2 ^ 64 ∧ at_ 32 32 = 0 ∧
      (∀ i t, l.tasks[i]? = some t → at_ (64 + 16 * i) 2 = t.hart ∧
        at_ (66 + 16 * i) 2 = (if t.held.isSome then 1 else 0) + (if t.ended then 2 else 0) ∧ at_ (68 + 16 * i) 4 = 0 ∧
        at_ (72 + 16 * i) 8 = (t.held.getD 0).toNat) ∧
      (∀ i, l.tasks.length ≤ i → i < 16 → at_ (64 + 16 * i) 16 = 0) ∧
      ∀ i r, l.rows[i]? = some r → at_ (320 + 16 * i) 4 = r.1 ∧ at_ (324 + 16 * i) 4 = 0 ∧ at_ (328 + 16 * i) 8 = r.2.toNat)) ∧
  (∀ (s : State) (o : ObjRef) (t : State), s.focusPart o.pid = some t →
    let ends := fun (u : State) => (Host.Outcome.next (s.visit t (fun _ => u)) : Out)
    (copyOf t (o.handle.setWidth 64) = none → exec (.copyTranslationFault o) s = .next s ∧ ∀ e, exec (.copyChunkDone o e) s = .next s) ∧
    (t.part.promotions.find? (fun x => decide (x.id = o.handle.toNat)) = none → exec (.promotionComplete o) s = .next s) ∧
    (t.launchOf o.handle = none → exec (.fnextServe o) s = .next s ∧ exec (.fsaveAreaWritten o) s = .next s) ∧
    (parkChoice t = none → exec (.launchPark o) s = .next s) ∧
    (∀ k, copyOf t (o.handle.setWidth 64) = some k →
      (∀ e, k.state = .running → k.status = 0 → e < k.chunks → e ∉ k.done → e ∉ k.failed →
        ((∀ a ∈ k.srcKeys e, t.damagedAt a 1 = false) → exec (.copyChunkDone o e) s = ends ((setChunkBit k e
          (t.pokeAll ((k.dstKeys e).zip ((k.srcKeys e).map t.mem.get)))).withChunk { k with done := k.done ++ [e] })) ∧
        (¬ (∀ a ∈ k.srcKeys e, t.damagedAt a 1 = false) → exec (.copyChunkDone o e) s =
          ends ((scrambleChunk k e t.noteUncor).withChunk { k with failed := k.failed ++ [e] }))) ∧
      (copyEnding t k = true → exec (.copyTranslationFault o) s = .next s) ∧
      (copyEnding t k = true ↔ ∃ d ∈ t.part.completions, ∃ x, d.copy = some (k.handle, x)) ∧
      (copyEnding t k = false → k.state = .running → k.status ≠ 0 → exec (.copyTranslationFault o) s =
        ends (finishCopy k .faulted k.status (0x8000000000000000 ||| k.status.setWidth 64) t)) ∧
      (copyEnding t k = false → k.state = .running → k.status = 0 → k.chunks = 0 → exec (.copyTranslationFault o) s =
        ends (finishCopy k .complete 0 k.cval t)) ∧
      (k.state ≠ .running → exec (.copyTranslationFault o) s = .next s ∧ ∀ e, exec (.copyChunkDone o e) s = .next s)) ∧
    (∀ pr, t.part.promotions.find? (fun x => decide (x.id = o.handle.toNat)) = some pr →
      let v : State := { t with hart := { t.hart with
        reply := pr.reply
        refused := pr.refused } }
      let back := fun (u : State) => ({ u with hart := { u.hart with
        reply := t.hart.reply
        refused := t.hart.refused } } : State)
      let ended := fun (st : Nat) (c : BitVec 8) (u : State) =>
        exec (.promotionComplete o) s = ends (endPromotion pr c (back (u.setMetaState pr.by_ o.handle.toNat st)))
      (∀ u, promote pr v = .ok true u → ended 1 0 u) ∧
      (∀ u, promote pr v = .ok false u → ended 4 Cause.bdamage.code u) ∧
      (∀ c u, promote pr v = .error (.status c) u → ended 2 c u) ∧
      ∀ k n u, promote pr v = .error (.await k n) u →
        (pr.asked ≠ none → exec (.promotionComplete o) s = .next s) ∧
        (pr.asked = none → exec (.promotionComplete o) s =
          let w := t.sentRequest (.promotion pr.id) pr.by_.die k 1 n []
          ends (w.withPart { w.part with
            promotions := modPromotion pr.id (fun q => { q with asked := some t.dev.nextReq }) w.part.promotions }))) ∧
    (∀ l, t.launchOf o.handle = some l →
      (waitingNext t l = [] → exec (.fnextServe o) s = .next s) ∧
      (∀ id rest, waitingNext t l = id :: rest →
        (l.over = true → exec (.fnextServe o) s =
          ends (answerFnext id (wi (-1)) (t.setLaunch { l with waiting := l.waiting.filter (· ≠ id) }))) ∧
        (l.over = false → l.firstReady = none → exec (.fnextServe o) s = .next s) ∧
        ∀ p, l.over = false → l.firstReady = some p → exec (.fnextServe o) s = ends (answerFnext id p.pack (t.setLaunch (l.give id p)))) ∧
      (l.state = .saving → tasksOff t l = true → exec (.fsaveAreaWritten o) s = ends (saveWritten l t)) ∧
      (l.state = .saving → tasksOff t l = false → exec (.fsaveAreaWritten o) s = .next s) ∧
      (l.state ≠ .saving → exec (.fsaveAreaWritten o) s = ends (saveReleased l t))) ∧
    ∀ l, parkChoice t = some l →
      (l.handle = o.handle → exec (.launchPark o) s = ends (startSave 2 l t) ∧ l.state = .running ∧ outranked t t.part l = true) ∧
      (l.handle ≠ o.handle → exec (.launchPark o) s = .next s)) ∧
  (∀ (s : State) (p : PartId) (t : State), s.focusPart p = some t →
    let ends := fun (u : State) => (Host.Outcome.next (s.visit t (fun _ => u)) : Out)
    (t.part.compactions = [] → exec (.compactionComplete p) s = .next s) ∧
    (∀ k rest, t.part.compactions = k :: rest →
      exec (.compactionComplete p) s =
        ends (completeCommand k.by_ k.by_ k.epoch k.recVa k.cword k.cval k.status (t.withPart { t.part with compactions := rest }))) ∧
    (∀ b keys, t.part.reclaim = some (b, keys) → enginesPassed t = true →
      let freed := keys.foldl (fun (u : State) k => u.engineStore b none ⟨k, none⟩ (List.replicate 16 0)) t
      exec (.epochReclaim p) s = ends (wakeAll .reclaim (freed.withPart { freed.part with reclaim := none }))) ∧
    (t.part.reclaim = none ∨ enginesPassed t = false → exec (.epochReclaim p) s = .next s)) ∧
  ∀ (s : State) (r : HartRef) (h : Hart), s.findHart r.pid r.id.toNat = some h →
    (h.hold = some .storage → exec (.ixdropStorageReleased r) s = .next (s.freed h)) ∧
    (∀ t, s.focusPart h.pid = some t →
      let ends := fun (u : State) => (Host.Outcome.next (s.visit t (fun _ => u)) : Out)
      let b : Issuer := {
        engine := .span
        root := h.ptroot
        mode := h.mode
        hart := h.id
        serial := h.serial
        ordinal := h.ordinal .span - 1
        die := dieOf h.hall }
      ∀ cells, h.hold = some (.output cells) → exec (.curpropOutputWritten r) s =
        ends ((cells.foldl (fun (u : State) c => u.engineStore b none ⟨c.1, none⟩ c.2) t).freed h)) ∧
    ∀ t, s.focusHart h.pid h.id = some t →
      let ends := fun (u : State) => (Host.Outcome.next (s.visit t (fun _ => u)) : Out)
      let freed := fun (u : State) => ({ u with hart := { u.hart with hold := none } } : State)
      ∀ dst n e c, t.hart.hold = some (.cow dst n e c) →
        let b := { t.issuer .blk n with
          mode := .user
          root := 0 }
        (owed t b = true → exec (.bcowCopyDone r) s = .next s) ∧
        (owed t b = false → (c = 0 → exec (.bcowCopyDone r) s = ends (freed t)) ∧
          (c ≠ 0 → exec (.bcowCopyDone r) s = ends (freed (postEngine false 2 c b (word dst) 0 t))))

/-- O59. What the events of the host and the fabric do. A packet of an event's kind on the VC of its kind comes in at its
port; another changes nothing. For this device, of a job whose injection is not stopped, it is performed in the
sequence of its stream; an early one is held back, an old one dropped; one for another device lies in its input's
buffer while there is room; of a stopped job it is swept or late; a start message while the job is not RUNNING is
answered 0x02. A read, a write and an atomic within the memory of the job's partition are performed and answered,
others refused. A response goes to the one who asked by its request, and ends the wait of a hart; an acknowledgement
retires its store, and a refusal posts for its writer, a completion word as one that could not be written. A credit, a
packet of a queue, a link's training or loss, a marker, the reports of a gang switch, the operations by which its
devices agree, and a late packet each have the effect of their rule; a replay changes nothing. Refusals as answers of
length 0, the operations' packets, the route of an answer, when an acknowledgement lets a hart go on, what a swept or
late packet of an open input is, and the root that a host write goes through are the model's choices (log entries 13,
19, 20, 28, 42, 43 and 50). (R82, R326, R327, R328, R329, R330, R333, R334, R341, R348, R350, R351) -/
def Obligations.FabricEventResults : Prop :=
  (∀ (s : State) (port : PortRef) (p : Packet) (i : Instr) (kind : Byte) (vc : BitVec 2),
    (i, kind, vc) ∈ [(Instr.read ⟨port, p⟩, 1, 0), (.readResponse ⟨port, p⟩, 2, 1), (.write ⟨port, p⟩, 3, 0), (.writeAcknowledgement ⟨port, p⟩, 4, 1),
      (.atomic ⟨port, p⟩, 5, 0), (.atomicResponse ⟨port, p⟩, 6, 1), (.startMessage port p, 8, 2), (.management ⟨port, p⟩, 11, 2)] ∨
      (∃ h va data, i = .hostWrite ⟨port, h⟩ va data ∧ kind = 7 ∧ vc = 2 ∧ p = { h with
        addr := va
        len := data.length
        payload := data }) →
    (p.kind = kind → p.vc = vc → exec i s = .next (settleMgmt (comeIn port p s))) ∧
    (¬ (p.kind = kind ∧ p.vc = vc) → exec i s = .next s)) ∧
  (∀ (s : State) (port : PortRef) (p : Packet),
    let j := s.job p.job
    let n := assocGet s.dev.rxSeq (p.job, p.src, p.vc) 0
    let early := p.kind = 8 ∧ (jobPart s p.job).isSome = true ∧ j.state ≠ .running
    (early → comeIn port p s =
      passOn port { p with kind := 0 } (s.withDev { s.dev with outbox := s.dev.outbox ++ [.startReply p.job 2] })) ∧
    (¬ early → p.kind = 0 ∨ j.stopped = false → comeIn port p s = passOn port p s) ∧
    (¬ early → p.kind ≠ 0 → j.stopped = true → (j.state = .resuming → comeIn port p s = transit port p s) ∧
      (j.state ≠ .resuming → comeIn port p s = stoppedPacket port p s)) ∧
    (p.dst = s.dev.node → passOn port p s = deliver p s) ∧
    (p.dst ≠ s.dev.node → passOn port p s = transit port p s) ∧
    transit port p s = settleEntering (s.withDev { s.dev with entering := s.dev.entering ++ [⟨port, p⟩] }) ∧
    (p.dst ≠ s.dev.node → port.k ≠ 10 → s.dev.entering = [] → (∀ k ∈ s.dev.jobs, k.state ≠ .resuming) →
      let room := fun (q : Port) => (q.buffer.filter (fun x => x.vc == p.vc)).length < if port.k = 11 then 8 else 6
      ∀ q, s.portOf port = some q →
        (room q → transit port p s = s.withDev { s.dev with
          ports := s.dev.ports.map (fun q => if q.ref = port then { q with buffer := q.buffer ++ [p] } else q) }) ∧
        (¬ room q → transit port p s = s.withDev { s.dev with entering := [⟨port, p⟩] })) ∧
    (∀ done, done = perform p (s.expects p (n + 1)) → p.seq = n → deliver p s = deliverHeld done.dev.rxHeld.length done) ∧
    (n.toNat < p.seq.toNat → deliver p s = s.withDev { s.dev with rxHeld := s.dev.rxHeld ++ [p] }) ∧
    (p.seq.toNat < n.toNat → deliver p s = s)) ∧
  (∀ (s : State),
    ((∀ q ∈ s.dev.mgmt, isJobOp q = false ∨ opWaits s q = true) → settleMgmt s = s) ∧
    (∀ q : Packet, opWaits s q = true ↔ leNat (q.payload.take 1) < 2 ∧
      ∃ c, jobPart s (BitVec.ofNat 16 (leNat ((q.payload.drop 1).take 2))) = some c ∧
        ∃ h ∈ s.allHarts, h.pid = c.cfg.pid ∧ h.isLive = true ∧ h.preempt = some .managed) ∧
    ∀ q, s.dev.mgmt = [q] → isJobOp q = true → opWaits s q = false → settleMgmt s = doJobOp (leNat (q.payload.take 1))
      (BitVec.ofNat 16 (leNat ((q.payload.drop 1).take 2))) q.src (q.payload.drop 3) (s.withDev { s.dev with mgmt := [] })) ∧
  (∀ (s : State) (p : Packet), p.kind ∈ [1, 3, 5] →
    let code := p.kind.toNat + 1
    let refused := perform p s = s.answersPacket p code 0 []
    (jobPart s p.job = none → refused) ∧
    ∀ q, jobPart s p.job = some q →
      let k := physKey q.cfg.pid p.addr.toNat
      (q.cfg.memSize < p.addr.toNat + p.len → refused) ∧
      (p.addr.toNat + p.len ≤ q.cfg.memSize →
        (p.kind = 1 → s.damagedAt k p.len = false → perform p s = s.answersPacket p 2 p.len (s.peek k p.len)) ∧
        (p.kind = 1 → s.damagedAt k p.len = true → perform p s = s.noteUncor.answersPacket p 2 0 []) ∧
        (p.kind ∈ [3, 5] → p.addr.toNat < 2 ^ 16 → refused) ∧
        (p.kind = 3 → 2 ^ 16 ≤ p.addr.toNat → p.payload.length = p.len → perform p s = (s.poke k p.payload).answersPacket p 4 p.len []) ∧
        (p.kind = 5 → 2 ^ 16 ≤ p.addr.toNat →
          let d := leNat p.payload
          let n := field d 1 0 8
          let old := s.peekNat k n
          (s.damagedAt k n = true → perform p s = s.noteUncor.answersPacket p 6 0 []) ∧
          (s.damagedAt k n = false → ∀ v, atomicNew (field d 0 0 8) n old (field d 2 0 (8 * n)) (field d (2 + n) 0 (8 * n)) = v →
            perform p s = (v.elim s (fun v => s.pokeNat k n v)).answersPacket p 6 n (leBytes n old))))) ∧
  (∀ (s : State) (p : Packet) (asked : Byte), (p.kind, asked) ∈ ([(2, 1), (4, 3), (6, 5)] : List (Byte × Byte)) →
    let mine := fun (r : Request) => r.job = p.job ∧ r.node = p.src ∧ r.kind = asked ∧ r.addr = p.addr
    let no := p.len = 0
    ((∀ r ∈ s.dev.outstanding, ¬ mine r) → perform p s = s) ∧
    ∀ before r rest, s.dev.outstanding = before ++ r :: rest → mine r → (∀ q ∈ before, ¬ mine q) →
      let u := s.withDev { s.dev with outstanding := before ++ rest }
      (p.kind ≠ 4 → ∀ b, r.from_ = .completion b → ∀ t, u.focusPart r.pid = some t → perform p s = u.visit t (fun t =>
        settleCompletions (t.withPart { t.part with completions := t.part.completions.map (Completion.receive r p) }))) ∧
      (p.kind ≠ 4 → r.from_ = .host → ∀ t, u.focusPart r.pid = some t → perform p s = u.visit t (fun t =>
        settleHost (t.withPart { t.part with hostWork := t.part.hostWork.map (HostWork.receive r p) }))) ∧
      (p.kind ≠ 4 → ∀ id, r.from_ = .promotion id → ∀ t, u.focusPart r.pid = some t → perform p s = u.visit t (fun t =>
        t.withPart { t.part with promotions := t.part.promotions.map (Promotion.receive r p) })) ∧
      (∀ id n, r.from_ = .hart id n → (u.focusHart r.pid id = none → perform p s = u) ∧ ∀ t, u.focusHart r.pid id = some t →
        let less : State := { t with hart := { t.hart with acks := t.hart.acks.erase (r.node, r.num) } }
        let told := if no then postHart false 2 Cause.uncor.code r.addr 0 0 less else less
        let w := told.drain
        ((r.node, r.num) ∈ t.hart.acks → perform p s = u.visit t (fun _ => settleStores w)) ∧
        ((r.node, r.num) ∉ t.hart.acks → (p.kind = 4 → perform p s = u) ∧
          (p.kind ≠ 4 →
            let got : State := { t with hart := Hart.receive r p t.hart }
            (∀ v, got.hart.status = .waiting (.ending v) → perform p s = u.visit t (fun _ => endAfterStores v got)) ∧
            ((∀ v, got.hart.status ≠ .waiting (.ending v)) → perform p s = u.visit t (fun _ => got))))) ∧
      (p.kind = 4 → ∀ b, r.from_ = .engine b none → ∀ t x, u.focusPart r.pid = some t →
        x = u.visit t (fun t => settleCompletions (if no then postEngine false 2 Cause.uncor.code b p.addr 0 t else t)) →
          (x.focusHart r.pid b.hart = none → perform p s = x) ∧
          ∀ y, x.focusHart r.pid b.hart = some y → (y.hart.serial = b.serial → perform p s = x.visit y settleStores) ∧
            (y.hart.serial ≠ b.serial → perform p s = x)) ∧
      (p.kind = 4 → ∀ b v1 va, r.from_ = .engine b (some (v1, va)) →
        (¬ no → perform p s = u) ∧
        (no → ∀ t, u.focusPart r.pid = some t → perform p s = u.visit t (fun t =>
            let w := postEngine false 2 Cause.uncor.code b v1 va t
            w.withPart { w.part with
              copies := w.part.copies.map (fun c =>
                if c.by_ = b ∧ c.handle.setWidth 64 = v1 then { c with state := .faulted } else c) }))) ∧
      (p.kind = 4 → ∀ id n va v, r.from_ = .exit id n va v →
        (¬ no → perform p s = u) ∧
        (no → ∀ t, u.focusPart r.pid = some t → perform p s = u.visit t (post false {
          kind := 10
          cause := Cause.uncor.code
          hart := id
          seq := n
          v1 := va
          v2 := v
          v3 := 0 })))) ∧
  (∀ (h : Hart) (r : Request) (p : Packet),
    let got := if p.len = 0 then { h with
        asked := none
        refused := h.refused ++ [r.key] }
      else { h with
        asked := none
        reply := (r.key, p.payload) :: h.reply }
    (h.asked ≠ some r.num → Hart.receive r p h = h) ∧
    (h.asked = some r.num →
      (∀ k n, h.status = .waiting (.remote k n) → Hart.receive r p h = { got with status := .ready }) ∧
      (∀ k n a, h.status = .waiting (.atomic k n a) →
        (p.len = 0 → Hart.receive r p h = { got with status := .ready }) ∧
        (p.len ≠ 0 → Hart.receive r p h = got.answer a (atomicResult n (leNat p.payload)))) ∧
      ((∀ k n a, h.status ≠ .waiting (.remote k n) ∧ h.status ≠ .waiting (.atomic k n a)) → Hart.receive r p h = got))) ∧
  (∀ (s : State) (p : Packet), p.kind = 7 → ∀ q, jobPart s p.job = some q → ∀ t, s.focusPart q.cfg.pid = some t →
    perform p s = s.visit t (fun t => settleHost (t.withPart { t.part with hostWork := t.part.hostWork ++ [{
      pieces := spanOf p.addr.toNat p.payload.length
      bytes := p.payload
      asked := none
      reply := []
      refused := [] }] }))) ∧
  (∀ (s : State),
    (s.hart.status = .waiting .acks → settleStores s = { s with hart := { s.hart with status := .ready } }) ∧
    (∀ v, s.hart.status = .waiting (.ending v) → settleStores s = endAfterStores v s) ∧
    ((∀ v, s.hart.status ≠ .waiting .acks ∧ s.hart.status ≠ .waiting (.ending v)) → settleStores s = s) ∧
    settleHost s = hostTurns ((s.part.hostWork.map (fun w => w.pieces.length + 1)).sum) s ∧
    (s.part.hostWork = [] → ∀ n, hostTurns n s = s) ∧
    ∀ w ws n, s.part.hostWork = w :: ws →
      let left := fun (l : List HostWork) (u : State) => u.withPart { u.part with hostWork := l }
      (w.pieces = [] → hostTurns (n + 1) s = hostTurns n (left ws s)) ∧
      ∀ a m rest, w.pieces = (a, m) :: rest →
        let on := fun (u : State) => hostTurns n (left ({ w with
          pieces := rest
          bytes := w.bytes.drop m } :: ws) u)
        let at_ := engineXlate { s with hart := { s.hart with
          reply := w.reply
          refused := w.refused } } { Issuer.none with root := s.part.cfg.ptroot } .store (word a)
        (∀ loc, at_ = .ok loc →
          (loc.hs = true → isRemote loc.key = false → hostTurns (n + 1) s = on (s.poke loc.key (w.bytes.take m))) ∧
          (loc.hs = false ∨ isRemote loc.key = true → hostTurns (n + 1) s = on s)) ∧
        (∀ k l, at_ = .error (.remote k l) → (w.asked ≠ none → hostTurns (n + 1) s = s) ∧
          (w.asked = none → hostTurns (n + 1) s =
            left ({ w with asked := some s.dev.nextReq } :: ws) (s.sentRequest .host 0 k 1 l []))) ∧
        ∀ e, at_ = .error e → (∀ k l, e ≠ .remote k l) → hostTurns (n + 1) s = on s) ∧
  (∀ (s : State) (p : Packet), (p.kind = 8 → perform p s = startMessage p.job p.payload s) ∧
    (p.kind = 11 → perform p s = s.withDev { s.dev with mgmt := s.dev.mgmt ++ [p] })) ∧
  (∀ (s : State) (r : PortRef),
    exec (.flitReplay r) s = .next s ∧
    (10 ≤ r.k.toNat → exec (.linkDown r) s = .next s ∧ ∀ lanes, exec (.linkTraining r lanes) s = .next s) ∧
    (r.k.toNat < 10 → exec (.linkDown r) s = .next (s.withDev { s.dev with
      ports := s.dev.ports.map (fun p => if p.ref = r then { p with up := false } else p) })) ∧
    (∀ lanes : BitVec 4, r.k.toNat < 10 → ∃ t, exec (.linkTraining r lanes) s = .next t ∧ t = s.withDev { s.dev with ports := t.dev.ports } ∧
      (∀ p ∈ t.dev.ports, p.ref = r → (p.up = true ↔ lanes = 0xF)) ∧ (∃ p ∈ t.dev.ports, p.ref = r) ∧
      ∀ p, p.ref ≠ r → (p ∈ t.dev.ports ↔ p ∈ s.dev.ports)) ∧
    (∀ die (p : Packet), maySend s r die p = true ↔
      (∃ out, routeOf s p.dst = some out ∧ r = (if out.die = die then out else ⟨if out.die = die - 1 then die - 1 else die + 1, 11⟩)) ∧
      (∀ k, s.jobOf p.job = some k → k.stopped = true → k.state = .resuming) ∧
      (∀ q, jobPart s p.job = some q →
        let rate := field q.cfg.limits.toNat 0 (if r.k = 11 then 0 else 16) 16
        let burst := field q.cfg.limits.toNat 4 (if r.k = 11 then 0 else 16) 16
        rate ≠ 0 ∧ 1 + payloadFlits p ≤ burst) ∧
      ∃ q, s.portOf r = some q ∧ q.up = true ∧
        if r.k = 11 then (q.buffer.filter (fun x => x.vc == p.vc)).length < 8 else 0 < q.credits.toList.getD p.vc.toNat 0) ∧
    (∀ (ok : Packet → Bool),
      let may := fun (e : BitVec 2 × Packet) => ok e.2 = true ∧ maySend s r e.1 e.2 = true
      let waiting := s.dev.ports.flatMap (fun p => p.buffer.map (fun q => (p.ref.die, q))) ++ s.dev.egress
      ((∀ e ∈ waiting, ¬ may e) → moveOn r ok s = s) ∧
      ∀ before e rest, waiting = before ++ e :: rest → may e → (∀ x ∈ before, ¬ may x) →
        let u := settleEntering (sendOut r e.2 (s.withDev (takePacket e.1 e.2 s.dev)))
        moveOn r ok s = u.withDev u.dev.refill) ∧
    (∀ p : Packet,
      (r.k = 11 → sendOut r p s = s.withDev { s.dev with
        ports := s.dev.ports.map (fun q => if q.ref = r then { q with buffer := q.buffer ++ [p] } else q) }) ∧
      (r.k ≠ 11 → sendOut r p s = s.withDev { s.dev with
        sent := s.dev.sent ++ [(r, p)]
        ports := s.dev.ports.map (fun q => if q.ref = r then q.setCredit p.vc (q.credit p.vc - 1) else q) })) ∧
    (∀ vc : BitVec 2, exec (.credit r vc) s = .next (moveOn r (fun p => p.vc == vc)
      (if r.k = 11 then s else s.modPort r (fun p => p.setCredit vc (min 6 (p.credit vc + 1)))))) ∧
    exec (.injectionAdmit r) s = .next (moveOn r (fun _ => true) s)) ∧
  (∀ (s : State) (tag : BitVec 16) (port : PortRef) (vc : BitVec 2),
    let j := s.job tag
    let sweeps := (jobPart s tag).isSome = true ∧ (j.state = .running ∨ j.state = .switching) ∧ port ∈ openLinks s tag
    let noted := fun (u : State) => u.setJob { u.job tag with marked := (u.job tag).marked ++ [(port, vc)] }
    (¬ sweeps → exec (.marker tag port vc) s = .next s) ∧
    (sweeps → j.stopped = true → exec (.marker tag port vc) s = .next (noted s)) ∧
    (sweeps → j.stopped = false → j.state = .running → exec (.marker tag port vc) s = .next (noted (stopJob { j with
      marked := []
      swept := []
      late := []
      full := false
      overflow := false } s))) ∧
    (sweeps → j.stopped = false → j.state = .switching → exec (.marker tag port vc) s = .next (noted (stopJob j s)))) ∧
  (∀ (s : State) (j : Job),
    let out := (routerPackets s j.tag).foldl (fun l r => insertSwept r l) j.swept
    stopJob j s = (startsHeld s j.tag).foldl (fun u p => u.withDev { u.dev with outbox := u.dev.outbox ++ [.startReply p.job 2] })
      ((s.withDev { dropPackets j.tag s.dev with sent := s.dev.sent ++ markersTo s j.tag }).setJob { j with
        stopped := true
        swept := out }) ∧
    (∀ r, r ∈ out ↔ r ∈ j.swept ∨ (r.packet.job = j.tag ∧ r.packet.kind ≠ 8 ∧ r.packet.kind ≠ 0 ∧
      ((∃ p ∈ s.dev.ports, p.ref = r.port ∧ r.packet ∈ p.buffer) ∨ r ∈ s.dev.entering ∨
        (r.port.k = 10 ∧ (r.port.die, r.packet) ∈ s.dev.egress)))) ∧
    (∀ p, p ∈ startsHeld s j.tag ↔ p.job = j.tag ∧ p.kind = 8 ∧
      ((∃ q ∈ s.dev.ports, p ∈ q.buffer) ∨ ∃ r ∈ s.dev.entering, r.packet = p)) ∧
    (∀ p ∈ (dropPackets j.tag s.dev).ports, ∀ q ∈ p.buffer, q.job = j.tag → q.kind = 0) ∧
    (∀ r ∈ (dropPackets j.tag s.dev).entering, r.packet.job = j.tag → r.packet.kind = 0) ∧
    (∀ e ∈ (dropPackets j.tag s.dev).egress, e.2.job = j.tag → e.2.kind = 8 ∨ e.2.kind = 0) ∧
    (∀ x, x ∈ markersTo s j.tag ↔ ∃ ref ∈ openLinks s j.tag, ∃ vc : BitVec 2, vc ≠ 3 ∧ x = (ref, {
      job := j.tag
      src := s.dev.node
      dst := 0
      kind := 10
      vc := vc
      seq := 0
      addr := 0
      len := 0
      payload := [] })) ∧
    (∀ ref, ref ∈ openLinks s j.tag ↔ (∃ p ∈ s.dev.ports, p.ref = ref ∧ p.up = true ∧ ref.k.toNat < 10) ∧
      ∃ n, (ref, n) ∈ s.dev.peers ∧ n ≠ s.dev.node ∧ n ∈ jobNodes s j.tag) ∧
    (∀ t, t = s.job j.tag → (t.stopped = true ∨ jobPart s j.tag = none → stopNow j.tag s = s) ∧
      (t.stopped = false → (jobPart s j.tag).isSome = true → stopNow j.tag s = stopJob t s)) ∧
    (∀ kind, completeJob j kind s = s.inPart j.ctrl (finishCommand {
      by_ := j.by_
      payload := j.by_
      epoch := none
      va := j.cword
      key := none
      val := if j.overflow then 0x8000000000000000 ||| Cause.lateovf.code.setWidth 64 else j.cval
      v1 := j.recVa
      status := 0
      intr := if j.intr then some (kind, if j.overflow then Cause.lateovf.code else 0, j.tag.setWidth 64) else none
      copy := none
      launch := none
      asked := none
      reply := []
      refused := [] })) ∧
    (jobPart s j.tag = none → writeJobArea j s = s) ∧
    ∀ q, jobPart s j.tag = some q → s.MemOk → j.swept.length ≤ 1024 → j.late.length < 2 ^ 32 → q.cfg.lateCap < 2 ^ 32 →
      (∀ r ∈ j.swept ++ j.late, r.packet.payload.length ≤ 268 ∧ r.packet.len < 2 ^ 32) →
      let base := physKey q.cfg.pid q.cfg.saveBase
      let t := writeJobArea j s
      let at_ := fun (o n : Nat) => t.peekNat (base + o) n
      let holds := fun (o : Nat) (r : Swept) =>
        let p := r.packet
        let f := (p.payload.length - 28 + 59) / 60
        at_ o 1 = 16 * r.port.die.toNat + r.port.k.toNat ∧ at_ (o + 1) 1 = p.vc.toNat ∧ at_ (o + 2) 1 = 1 + f ∧
        at_ (o + 3) 61 = 0 ∧ at_ (o + 64) 2 = p.job.toNat ∧ at_ (o + 66) 2 = p.src.toNat ∧ at_ (o + 68) 2 = p.dst.toNat ∧
        at_ (o + 70) 1 = p.kind.toNat ∧ at_ (o + 71) 1 = p.vc.toNat + 4 * f ∧ at_ (o + 72) 8 = p.seq.toNat ∧
        at_ (o + 80) 8 = p.addr.toNat ∧ at_ (o + 88) 4 = p.len ∧ at_ (o + 92) 4 = 0 ∧
        (∀ i, i < 28 → at_ (o + 96 + i) 1 = (p.payload.getD i 0).toNat) ∧
        (∀ k i, k < f → i < 60 → at_ (o + 128 + 64 * k + i) 1 = (p.payload.getD (28 + 60 * k + i) 0).toNat) ∧
        (∀ k, k ≤ f → BitVec.ofNat 32 (at_ (o + 64 + 64 * k + 60) 4) = crc32c (t.peek (base + o + 64 + 64 * k) 60)) ∧
        ∀ k, f < k → k < 5 → at_ (o + 64 + 64 * k) 64 = 0
      at_ 0 4 = 1 ∧
      (j.state, at_ 4 1) ∈ ([(.running, 0), (.switching, 1), (.out, 2), (.resuming, 3), (.dead, 4)] : List (JobState × Nat)) ∧
      at_ 5 1 = 0 ∧ at_ 6 2 = s.dev.node.toNat ∧ at_ 8 2 = j.tag.toNat ∧ at_ 10 2 = 0 ∧ at_ 12 4 = j.swept.length ∧
      at_ 16 4 = j.late.length ∧ at_ 20 4 = q.cfg.lateCap ∧ at_ 32 32 = 0 ∧
      (∀ d k, d < 4 → k < 16 → ((at_ 24 8).testBit (16 * d + k) = true ↔ k = 10 ∨ k = 11 ∨
        ∃ ref ∈ openLinks s j.tag, ref.die.toNat = d ∧ ref.k.toNat = k)) ∧
      (∀ i r, j.swept[i]? = some r → holds (64 + 384 * i) r) ∧
      ∀ i r, j.late[i]? = some r → holds (64 + 384 * (1024 + i)) r) ∧
  (∀ (s : State) (tag : BitVec 16) (j : Job), s.jobOf tag = some j →
    let node := s.dev.node
    let nodes := jobNodes s tag
    let off := j.state = .switching ∧ node ∈ nodes ∧ node ∉ j.offNodes ∧ jobHartsOff s tag = true
    (∀ z n, settleMgmt z = s →
      (off → n = node →
        (j.home = node → exec (.hartsOff tag n) z = .next (noteOff tag node s)) ∧
        (j.home ≠ node → exec (.hartsOff tag n) z = .next (sendJob .hartsOff tag [] j.home (s.setJob { j with offNodes := j.offNodes ++ [node] })))) ∧
      (¬ (off ∧ n = node) → exec (.hartsOff tag n) z = .next s)) ∧
    (j.state = .switching → (jobPart s tag).isSome = true →
      let swept := j.stopped = true ∧ jobHartsOff s tag = true ∧ sweepDone s j = true ∧ ∀ c ∈ j.reports, c.node ≠ node
      (swept → exec (.jobSwitchedOut tag) s = .next (reportCounts tag s)) ∧ (¬ swept → exec (.jobSwitchedOut tag) s = .next s)) ∧
    (j.state = .switching → (jobPart s tag).isSome = false → j.home = node → exec (.jobSwitchedOut tag) s = .next (trySwitched tag s)) ∧
    (j.state ≠ .switching → exec (.jobSwitchedOut tag) s = .next s) ∧
    (j.state = .resuming → j.stopped = false →
      (j.home = node → (jobPart s tag).isSome = true → exec (.jobResumed tag) s = .next (noteBack tag node s)) ∧
      (j.home = node → (jobPart s tag).isSome = false → exec (.jobResumed tag) s = .next (tryResumed tag s)) ∧
      (j.home ≠ node → node ∉ j.back → exec (.jobResumed tag) s =
        .next (sendJob .back tag [] j.home (s.setJob { j with back := j.back ++ [node] }))) ∧
      (j.home ≠ node → node ∈ j.back → exec (.jobResumed tag) s = .next s)) ∧
    (j.state ≠ .resuming ∨ j.stopped = true → exec (.jobResumed tag) s = .next s) ∧
    ∀ port (p : Packet), p.job = tag →
      let open_ := (j.state = .running ∨ j.state = .switching) ∧ port ∈ openLinks s tag ∧ (port, p.vc) ∉ j.marked
      (j.stopped = true → p.kind ≠ 8 → exec (.latePacket port p) s = .next (stoppedPacket port p s)) ∧
      (¬ (j.stopped = true ∧ p.kind ≠ 8) → exec (.latePacket port p) s = .next s) ∧
      (open_ → stoppedPacket port p s = s.setJob { j with swept := insertSwept ⟨port, p⟩ j.swept }) ∧
      (¬ open_ → stoppedPacket port p s = appendLate ⟨port, p⟩ s) ∧
      (j.full = true → appendLate ⟨port, p⟩ s = s) ∧
      (j.full = false → (j.state = .running ∨ j.state = .switching) → (∀ c ∈ j.reports, c.node ≠ node) → ∀ q, jobPart s tag = some q →
        (j.late.length < q.cfg.lateCap → appendLate ⟨port, p⟩ s = s.setJob { j with late := j.late ++ [⟨port, p⟩] }) ∧
        (q.cfg.lateCap ≤ j.late.length → appendLate ⟨port, p⟩ s = (s.setJob { j with
          full := true
          overflow := true }).inPart q.cfg.pid (postLate tag)))) ∧
  ∀ (s : State) (tag : BitVec 16) (j : Job), s.job tag = j →
    let nodes := jobNodes s tag
    let tell := fun (op : Byte) (more : List Byte) (u : State) => ((jobNodes u tag).filter (· != u.dev.node)).foldl (fun (u : State) n =>
      u.sendAs 0 u.dev.node 0 n 11 2 0 (3 + more.length) (op :: leBytes 2 tag.toNat ++ more)) u
    (∀ n, ∃ k, k = { j with offNodes := j.offNodes.filter (· != n) ++ [n] } ∧
      ((∀ m ∈ nodes, m ∈ k.offNodes) → noteOff tag n s = stopNow tag (tell 6 [] (s.setJob k))) ∧
      (¬ (∀ m ∈ nodes, m ∈ k.offNodes) → noteOff tag n s = s.setJob k)) ∧
    ((∀ m ∈ nodes, ∃ c ∈ j.reports, c.node = m) → ∃ u, u = jobOut tag j.overflow (tell 7 [if j.overflow then 1 else 0] s) ∧
      trySwitched tag s = completeJob (u.job tag) 6 u) ∧
    (¬ (∀ m ∈ nodes, ∃ c ∈ j.reports, c.node = m) → trySwitched tag s = s) ∧
    (∀ dead, jobOut tag dead s = (let k := { j with
        state := if dead then .dead else .out
        overflow := dead }
      let u := writeJobArea k (s.setJob k)
      u.mapHarts (fun h => if h.status = .waiting .job then { h with
        status := .ready
        queued := [] } else h))) ∧
    ((∀ m ∈ nodes, m ∈ j.back) → tryResumed tag s = completeJob j 7 (jobRuns tag (tell 8 [] s))) ∧
    (¬ (∀ m ∈ nodes, m ∈ j.back) → tryResumed tag s = s) ∧
    (∀ n, noteBack tag n s = tryResumed tag (s.setJob { j with back := j.back.filter (· != n) ++ [n] })) ∧
    ∀ (src : BitVec 16) (more : List Byte),
      let here := (jobPart s tag).isSome = true
      let home := j.home = s.dev.node
      (here → j.state = .running → doJobOp 0 tag src more s = beginSwitch { j with home := src } s) ∧
      (here → j.state = .out → doJobOp 1 tag src more s = beginResume { j with home := src } s) ∧
      (home → j.state = .switching → doJobOp 2 tag src more s = noteOff tag src s) ∧
      (home → doJobOp 3 tag src more s = noteCounts tag (Counts.ofBytes more) s) ∧
      (home → j.state = .resuming → doJobOp 4 tag src more s = noteBack tag src s) ∧
      (here → j.state = .switching → doJobOp 6 tag src more s = stopNow tag s) ∧
      (here → j.state = .switching ∨ j.state = .out → doJobOp 7 tag src more s = jobOut tag (more.headD 0 != 0) s) ∧
      (here → j.state = .resuming → doJobOp 8 tag src more s = jobRuns tag s) ∧
      (home → j.state = .dead → ∀ back, back = j.back.filter (· != src) ++ [src] →
        ((∀ m ∈ nodes, m ∈ back) → doJobOp 9 tag src more s = s.withDev { s.dev with jobs := s.dev.jobs.filter (fun k => k.tag != tag) }) ∧
        (¬ (∀ m ∈ nodes, m ∈ back) → doJobOp 9 tag src more s = s.setJob { j with back := back })) ∧
      (∀ c : Counts, let noted : Job := { j with reports := j.reports.filter (fun d => d.node != c.node) ++ [c] }
        let new := c.full = true ∧ ∀ d ∈ j.reports, ¬ (d.node = c.node ∧ d.full = true)
        let told := tell 3 c.bytes (s.setJob { noted with overflow := j.overflow || c.full })
        let rung := told.inPart j.ctrl (postLate tag)
        (j.state = .switching → new → noteCounts tag c s = trySwitched tag rung) ∧
        (j.state = .switching → ¬ new → noteCounts tag c s = trySwitched tag told) ∧
        (j.state ≠ .switching → new → noteCounts tag c s = jobOut tag true (tell 7 [1] rung)) ∧
        (j.state ≠ .switching → ¬ new → noteCounts tag c s = told)) ∧
      ∀ c : Counts, c = {
          node := s.dev.node
          swept := j.swept.length
          late := j.late.length
          full := j.full } →
        (home → reportCounts tag s = noteCounts tag c s) ∧
        (¬ home → reportCounts tag s = sendJob .counts tag c.bytes j.home
          (s.setJob { j with reports := j.reports.filter (fun d => d.node != c.node) ++ [c] }))

/-- O60. What the management plane does. A start message answers the status of R15, and one that is admitted extends MR3
and starts the control hart with the values of R16. A partition is configured only within its limits; that replaces
it, scrubs its halls, writes its page and extends MR2. Routes, a resize, a retired lane, the clock and UNC change as
their rules say; a hall that is removed is drained and scrubbed, and its scratchpad, its harts and its gangs pass to
another. Reset, verification, self-test, training and reconfiguration move the phase, the failure code and the
measurement registers as R354 to R358 say; a report is put out with its signature, its body the fields of R359 in
their order. A written page has the bytes of R336, and its resize posts. Pre-emption of a partition asks each of its
harts to leave; none of these happens while the job is being switched or such a pre-emption is in progress. An error
takes a slot that lies in the lane it is in. Migration changes nothing. Keys and digests, the order of the measured
table, how a drained hart leaves, what of a partition may be configured, which slot an error loses, and that a thermal
reset keeps the dies that passed are the model's choices (log entries 7, 21, 44, 45 and 46). (R9, R15, R16, R331,
R336, R342, R343, R354, R355, R357, R359, R360) -/
def Obligations.ManagementEventResults : Prop :=
  (∀ (s : State) (job : BitVec 16) (payload : List Byte),
    let m := Start.ofBytes (padTo 0 64 payload)
    let answer := fun (b : Byte) (u : State) => u.withDev { u.dev with outbox := u.dev.outbox ++ [.startReply job b] }
    (jobPart s job = none → startMessage job payload s = answer 1 s) ∧
    ∀ q t, jobPart s job = some q → s.focusPart q.cfg.pid = some t →
      let idle := t.dev.jobState t.part.cfg.job = .running
      let free := ∀ h ∈ t.allHarts, h.pid = t.part.cfg.pid → h.id = 0 → h.isLive = false
      let ok := m.reserved = false ∧ m.flags ≤ 1 ∧ leaseFits m.lease.min m.lease.pref m.lease.prio 3 ∧ m.pc.getLsbD 0 = false ∧
        m.exitVa.toNat % 8 = 0
      let room := isReduced t = true → m.lease.min ≤ 4 ∧ m.flags ≠ 1
      let ends := fun (b : Byte) (u : State) => startMessage job payload s = s.visit t (fun _ => answer b u)
      (¬ idle → ends 2 t) ∧ (idle → ¬ free → ends 3 t) ∧ (idle → free → ¬ ok → ends 4 t) ∧ (idle → free → ok → ¬ room → ends 5 t) ∧
      (idle → free → ok → room → ends 0 (startHart m (t.extended 3 (sha256 (padTo 0 64 payload)))))) ∧
  (∀ (s : State) (m : Start),
    let hall := s.part.cfg.halls.headD 0
    let st : Strip := { Strip.zero with
      pc := m.pc
      x := (Strip.zero.x.set 1 m.arg).set 2 m.stack }
    let h : Hart := { Hart.absent with
      pid := s.part.cfg.pid
      id := 0
      serial := s.part.nextSerial
      status := if (freeSlot s hall).isSome then .ready else .off .slot
      mode := .supervisor
      live := st
      ckpt := st
      ptroot := s.part.cfg.ptroot
      prio := BitVec.ofNat 2 m.lease.prio
      cybud := m.budget
      gang := 0
      gkey := s.part.nextAge
      hall := hall
      slot := freeSlot s hall
      spread := m.flags == 1
      exitVa := m.exitVa }
    let u := s.mapHarts (fun g => if g.pid = h.pid ∧ g.id = 0 then { g with status := .absent } else g)
    startHart m s = arbitrateGang h.pid h.gkey { u with
      harts := u.harts.filter (fun g => g.status != .absent) ++ [h]
      part := { u.part with
        gangs := u.part.gangs ++ [{
          id := 0
          declared := 1
          joined := 1
          size := 1
          hall := hall
          min := m.lease.min
          pref := m.lease.pref
          prio := m.lease.prio
          age := s.part.nextAge
          phase := 0
          arrived := []
          phaseGrant := none }]
        nextAge := s.part.nextAge + 1
        nextSerial := s.part.nextSerial + 1 } }) ∧
  (∀ (s : State) (c : PartCfg),
    (mayConfigure s c = true → c.wf = true ∧ c.job ∉ c.ctrlTags ∧ (phaseOf s = 2 ∨ phaseOf s = 3) ∧ c.memSize ≤ 2 ^ 47 ∧ c.halls.Nodup ∧
      memoryOk s c.pid c.memSize c.l2 c.chans = true ∧
      (∀ h ∈ c.halls, hallOffered s h = true ∧ ∀ q ∈ s.allParts, q.configured = true → q.cfg.pid ≠ c.pid → h ∉ q.cfg.halls) ∧
      (∀ q ∈ s.allParts, q.configured = true → q.cfg.pid ≠ c.pid → q.cfg.job ≠ c.job) ∧
      s.dev.jobState c.job ∉ [.switching, .resuming] ∧
      (∀ q ∈ s.allParts, q.configured = true → q.cfg.pid = c.pid → s.dev.jobState q.cfg.job ∉ [.switching, .resuming]) ∧
      ∀ h ∈ s.allHarts, h.pid = c.pid → h.isLive = true → h.preempt ≠ some .managed) ∧
    (mayConfigure s c = false → exec (.partitionConfigure c) s = .next s) ∧
    (mayConfigure s c = true →
      let u := dropPart c.pid s
      let v := ({ u with parts := u.parts ++ [Partition.fresh c true] } : State).withDev { u.dev with
        jobs := u.dev.jobs.filter (fun j => !(c.job :: jobsOf s c.pid).contains j.tag)
        tlb := u.dev.tlb.filter (fun e => e.pid != c.pid)
        contexts := u.dev.contexts.filter (· != c.pid) }
      let dead := s.dev.jobs.filter (fun j => (jobsOf s c.pid).contains j.tag && j.state == .dead && j.home != s.dev.node)
      let w := dead.foldl (fun (u : State) j => u.sendAs 0 u.dev.node 0 j.home 11 2 0 3 (9 :: leBytes 2 j.tag.toNat)) v
      exec (.partitionConfigure c) s = .next (measureTable ((c.halls.foldl (fun u h => scrubHall h u) w).inPart c.pid writePage)))) ∧
  (∀ (s : State) (p : PartId) (size : Nat) (l2 chans : BitVec 256), memoryOk s p size l2 chans = true →
    let ones := fun (m : BitVec 256) => ((List.range 256).filter (fun i => m.getLsbD i)).length
    4 ≤ ones l2 ∧ 8 ≤ ones chans ∧ size ≤ ones chans * 1500000000 ∧ chans &&& s.dev.withdrawn = 0 ∧
      ∀ q ∈ s.allParts, q.configured = true → q.cfg.pid ≠ p → q.cfg.l2 &&& l2 = 0 ∧ q.cfg.chans &&& chans = 0) ∧
  (∀ (s : State) node host routes peers, exec (.routeConfigure node ⟨host, routes, peers⟩) s = .next (s.withDev { s.dev with
    node := node
    host := host
    routes := routes
    peers := peers })) ∧
  (∀ (s : State), s.MemOk → s.part.cfg.wf = true → (s.part.cfg.windows.map (·.index)).Nodup →
    let c := s.part.cfg
    let t := writePage s
    let base := physKey c.pid 0
    let at_ := fun (o n : Nat) => t.peekNat (base + o) n
    at_ 0 2 = 1 ∧ at_ 2 1 = c.pid.toNat ∧ at_ 3 1 = 0 ∧ at_ 4 2 = c.node.toNat ∧ at_ 6 2 = c.job.toNat ∧
    (∀ h, h < 64 → ((at_ 8 8).testBit h = true ↔ h ∈ c.halls)) ∧ at_ 16 32 = c.l2.toNat ∧ at_ 48 32 = c.chans.toNat ∧
    (∀ o v, (o, v) ∈ [(80, c.memSize), (88, c.faultBase), (96, c.intrBase), (112, c.ctxBase), (120, c.ctxSize), (128, c.engBase),
      (136, c.engSize), (144, c.saveBase), (152, c.saveSize)] → at_ o 8 = v % 2 ^ 64) ∧
    at_ 104 1 = c.faultLog ∧ at_ 105 1 = c.intrLog ∧ at_ 106 6 = 0 ∧ at_ 160 4 = c.lateCap ∧ at_ 164 4 = 0 ∧
    (∀ i, i < 4 → at_ (168 + 2 * i) 2 = (c.ctrlTags.getD i 0).toNat) ∧ at_ 176 8 = c.limits.toNat ∧ at_ 184 8 = 0 ∧
    (∀ h, h < 48 → at_ (195 + 4 * h) 1 = 0 ∧
      ((∀ p ∈ c.partners, p.1 ≠ h) → at_ (192 + 4 * h) 3 = 0xFFFFFF) ∧
      ∀ a b d, c.partners.find? (fun p => decide (p.1 = h)) = some (h, a, b, d) →
        at_ (192 + 4 * h) 1 = a.toNat ∧ at_ (193 + 4 * h) 1 = b.toNat ∧ at_ (194 + 4 * h) 1 = d.toNat) ∧
    (∀ w ∈ c.windows, at_ (1024 + 16 * w.index.toNat) 2 = 1 + (if w.r then 2 else 0) + (if w.w then 4 else 0) ∧
      at_ (1026 + 16 * w.index.toNat) 2 = w.dest.toNat ∧ at_ (1028 + 16 * w.index.toNat) 4 = 0 ∧
      at_ (1032 + 16 * w.index.toNat) 8 = w.base.toNat) ∧
    (∀ i, i < 2048 → (∀ w ∈ c.windows, w.index.toNat ≠ i) → at_ (1024 + 16 * i) 16 = 0) ∧
    at_ 384 640 = 0 ∧ at_ 33792 31744 = 0 ∧ ∀ k, k < base ∨ base + 2 ^ 16 ≤ k → t.mem.get k = s.mem.get k) ∧
  (∀ (s : State), ∀ t, t = post true {
      kind := 8
      cause := 0
      hart := 0xFFFF
      seq := s.part.kind8
      v1 := word s.part.cfg.pid.toNat
      v2 := 0
      v3 := 0 } s → postResized s = t.withPart { t.part with kind8 := t.part.kind8 + 1 }) ∧
  (∀ (s : State) (p : PartId) (n : Nat), exec (.granuleMigration p n) s = .next s) ∧
  (∀ (s : State) (p : PartId) (t : State), s.focusPart p = some t →
    let quiet := (∀ j ∈ t.dev.jobs, j.tag = t.part.cfg.job → j.state ≠ .switching ∧ j.state ≠ .resuming) ∧
      ∀ h ∈ t.allHarts, h.pid = t.part.cfg.pid → h.isLive = true → h.preempt ≠ some .managed
    (∀ src dst, mayRemove t src dst = true →
      let hs := hartsIn t src
      let halls := (dst :: (hs.flatMap Hart.blockHalls).filter (· != src)).eraseDups
      exec (.resizeHall (.remove p src dst)) s = .next (s.visit t (fun u =>
        halls.foldl (fun u hall => arbitrate hall u) (rewritePage (scrubHall src (moveHall src dst (movePad src dst (hs.foldl drainHart u)))))))) ∧
    (∀ src dst, mayRemove t src dst = true → src ∈ t.part.cfg.halls ∧ dst ∈ t.part.cfg.halls ∧ src ≠ dst ∧
      (∀ h ∈ t.allHarts, h.pid = t.part.cfg.pid → h.isLive = true → h.hall ≠ dst) ∧
      ∀ h ∈ hartsIn t src, h.outgoing = [] ∧ h.acks = [] ∧ ¬ h.InFlight) ∧
    (∀ src dst, mayRemove t src dst = false → exec (.resizeHall (.remove p src dst)) s = .next s) ∧
    (∀ hall, quiet → hallOffered t hall = true → isReduced t = false → hallTaken t t.part.cfg.pid hall = false → hall ∉ t.part.cfg.halls →
      exec (.resizeHall (.add p hall)) s = .next (s.visit t (fun u =>
        let v := scrubHall hall u
        rewritePage (v.withPart { v.part with cfg := { v.part.cfg with halls := v.part.cfg.halls ++ [hall] } })))) ∧
    (∀ l2 chans : BitVec 256,
      (quiet → memoryOk t p t.part.cfg.memSize l2 chans = true → exec (.resizeMemory p l2 chans) s = .next (s.visit t (fun u =>
        rewritePage (u.withPart { u.part with
          cfg := { u.part.cfg with
            l2 := l2
            chans := chans } })))) ∧
      (memoryOk t p t.part.cfg.memSize l2 chans = false → exec (.resizeMemory p l2 chans) s = .next s)) ∧
    (quiet → exec (.partitionPreemption p) s = .next (s.visit t (fun u => yieldHalls u.part.cfg.halls
      ((u.allHarts.filter (fun h => h.pid == p && h.isLive)).foldl (fun u h => requestOff .managed h u) u)))) ∧
    (noSwitch t = false → exec (.partitionPreemption p) s = .next s ∧ (∀ hall, exec (.resizeHall (.add p hall)) s = .next s) ∧
      (∀ l2 chans, exec (.resizeMemory p l2 chans) s = .next s) ∧ ∀ src dst, exec (.resizeHall (.remove p src dst)) s = .next s)) ∧
  (∀ (s : State) (hall src dst : Nat) (h : Hart),
    (∀ cleared, cleared = s.wipe (padKey hall 0) (24 * 2 ^ 20) → scrubHall hall s = cleared.withDev { cleared.dev with
        bricks := s.dev.bricks.map (fun b => if b.1.1 = hall then (b.1, { b.2 with owner := none }) else b)
        tlb := s.dev.tlb.filter (fun e => e.hall != hall) }) ∧
    (∀ names : Nat → Nat, names = (fun n => if n = src then dst else n) → ∀ kept,
      kept = s.mapHarts (fun h => if h.pid = s.part.cfg.pid then { h with hall := names h.hall } else h) →
      moveHall src dst s = kept.withPart { kept.part with
        gangs := s.part.gangs.map (fun g => { g with hall := names g.hall })
        cfg := { s.part.cfg with
          halls := s.part.cfg.halls.filter (· != src)
          partners := movePartners src dst s.part.cfg.partners } }) ∧
    ((∃ l, h.status = .off (.launch l)) ∨ h.status = .off .job → drainHart s h = s) ∧
    (¬ ((∃ l, h.status = .off (.launch l)) ∨ h.status = .off .job) → ∃ why, drainHart s h =
      takeOff h.pid h.id why (s.modHartOf h.pid h.id Hart.rollback) ∧
      (h.preempt = none → why = .managed) ∧ ∀ w, h.preempt = some w → why = if w.rank < 2 then .managed else w) ∧
    rewritePage s = measureTable (postResized (writePage s)) ∧
    (∀ t, t = measureTable s → t = s.extended 2 (sha256 (tableBytes s))) ∧
    (s.MemOk → ∀ i, i < 24 * 2 ^ 20 → (movePad src dst s).mem.get (padKey dst i) = s.mem.get (padKey src i))) ∧
  (∀ (s : State) (p : PartId) (nonce : List Byte),
    let body := reportBody p nonce s
    let report := body ++ (List.range 17088).map (Config.identitySignature body)
    (settledFor s p = true → exec (.attestationReport p nonce) s =
      .next (s.withDev { s.dev with outbox := s.dev.outbox ++ [.report report] })) ∧
    (settledFor s p = false → exec (.attestationReport p nonce) s = .next s) ∧
    (settledFor s p = true ↔ (∀ q ∈ s.allParts, q.configured = true → q.cfg.pid = p → s.dev.jobState q.cfg.job ∉ [.switching, .resuming]) ∧
      ∀ h ∈ s.allHarts, h.pid = p → h.isLive = true → h.preempt ≠ some .managed) ∧
    body.length = 205 ∧ leNat (body.take 4) = 1 ∧ leNat ((body.drop 4).take 8) = s.dev.devstat.toNat ∧
    (∀ i : Fin 4, ∀ j, j < 32 → (body.drop (12 + 32 * i.val))[j]? = some (BitVec.ofNat 8 (s.dev.mr[i].toNat / 2 ^ (8 * (31 - j))))) ∧
    leNat ((body.drop 140).take 1) = p.toNat ∧ (body.drop 141).take 32 = sha256 (s.peek (physKey p 0) (2 ^ 16)) ∧
    (nonce.length = 32 → body.drop 173 = nonce)) ∧
  (∀ (s : State) (hall brick : Nat) (lane : BitVec 4), hall < 48 → brick < Config.bricksPerHall →
    let b := s.brickAt hall brick
    let n := s.dev.freeIdx
    ∃ f : Hart → Hart, (∀ h, Struck s (hall, brick) lane.toNat h (f h)) ∧ ∀ v, v = (s.mapHarts f).noteUncor →
    exec (.laneRetirement hall brick lane) s = .next (arbitrate hall (v.withDev { v.dev with
      freeIdx := n + 1
      bricks := assocSet v.dev.bricks (hall, brick) { b with retired := b.retired ||| (1#16 <<< lane.toNat) } }))) ∧
  ∀ (s : State),
    let d := s.dev
    let restarted := (({ State.reset with
      sched := s.sched
      dev := { Device.reset with freeIdx := d.freeIdx } } : State).extended 0 ((List.range 32).map Config.bootRomDigest))
    let nominal := if phaseOf s = 3 then 36 else 18
    let clock := min nominal (d.clock + 3)
    exec .uncClear s = .next (s.withDev { d with devstat := d.devstat &&& ~~~(4 : Word) }) ∧
    exec .throttle s = .next (s.withDev { d with
      devstat := d.devstat ||| 2
      clock := max 18 (d.clock - 3) }) ∧
    exec .unthrottle s = .next (s.withDev { d with
      devstat := if clock = nominal then d.devstat &&& ~~~(2 : Word) else d.devstat
      clock := clock }) ∧
    exec .deviceReset s = .next (restarted.withDev { restarted.dev with devstat := withPhase restarted.dev.devstat 1 0 }) ∧
    exec .thermalShutdown s = .next (restarted.withDev { restarted.dev with
      devstat := withPhase (restarted.dev.devstat ||| (d.devstat &&& 0xF0000)) 4 4 }) ∧
    (∀ fw : Firmware, phaseOf s = 1 → d.verified = false →
      let signed := fw.key.length = 48 ∧ fw.signature.length = 16224 ∧ sha256 fw.key = (List.range 32).map Config.vendorDigest ∧
        Config.slhVerify fw.key fw.image fw.signature = true
      let n := leNat (fw.image.take 64)
      let good := signed ∧ 64 ≤ fw.image.length ∧ field n 0 0 32 = 1 ∧ field n 8 0 64 = fw.image.length - 64 ∧ field n 16 0 384 = 0
      let old := field n 4 0 32 < (Config.minVersion 0).toNat
      (¬ good → exec (.firmwareVerify fw) s = .next (s.failedWith 1)) ∧
      (good → old → exec (.firmwareVerify fw) s = .next (s.failedWith 2)) ∧
      (good → ¬ old → exec (.firmwareVerify fw) s = .next ((s.extended 1 (sha256 fw.image)).withDev
        { (s.extended 1 (sha256 fw.image)).dev with verified := true }))) ∧
    (∀ passed : BitVec 4, phaseOf s = 1 → d.verified = true →
      (passed = 0 → exec (.dieSelfTest passed) s = .next (s.failedWith 5)) ∧
      (passed ≠ 0 → exec (.dieSelfTest passed) s = .next (s.withDev { d with
        devstat := withPhase (d.devstat ||| (passed.setWidth 64 <<< 16)) 2 0
        clock := 18 }))) ∧
    (∀ failed : BitVec 256, phaseOf s = 2 → readyBit s = false →
      let needed := ∃ p ∈ s.allParts, p.configured = true ∧ (p.cfg.chans &&& failed) ≠ 0
      (needed → exec (.hbmTraining failed) s = .next (s.failedWith 3)) ∧
      (¬ needed → exec (.hbmTraining failed) s = .next (s.withDev { d with
        withdrawn := d.withdrawn ||| failed
        devstat := d.devstat ||| 8 }))) ∧
    (¬ (∀ p ∈ s.allParts, p.configured = true → d.jobState p.cfg.job ∉ [.switching, .resuming]) →
      exec .fullServiceReconfigure s = .next s) ∧
    (phaseOf s = 2 → readyBit s = true → (∀ h ∈ s.allHarts, h.isLive = false) →
      (∀ p ∈ s.allParts, p.configured = true → d.jobState p.cfg.job ∉ [.switching, .resuming]) →
      exec .fullServiceReconfigure s = .next (((s.allParts.filter (fun p => p.configured)).map (fun p => p.cfg.pid)).foldl
        (fun u p => u.inPart p rewritePage) (s.withDev { d with
          devstat := withPhase (d.devstat &&& ~~~(8 : Word)) 3 0
          clock := 36 })))
end

