-- ==== Sys2Proof/Laws/State.lean ====
section
/-! SUPPORT. What each update of the state does to each of its parts, true by unfolding; a part that an update does not name is the one
it was. -/

set_option Elab.async false

namespace Sys2Proof.Machine

/-! ## State.modHart -/

@[simp] theorem State.modHart_mem (s : State) (f : Hart → Hart) : (s.modHart f).mem = s.mem := rfl
@[simp] theorem State.modHart_dev (s : State) (f : Hart → Hart) : (s.modHart f).dev = s.dev := rfl
@[simp] theorem State.modHart_part (s : State) (f : Hart → Hart) : (s.modHart f).part = s.part := rfl
@[simp] theorem State.modHart_parts (s : State) (f : Hart → Hart) : (s.modHart f).parts = s.parts := rfl
@[simp] theorem State.modHart_hart (s : State) (f : Hart → Hart) : (s.modHart f).hart = f s.hart := rfl
@[simp] theorem State.modHart_harts (s : State) (f : Hart → Hart) : (s.modHart f).harts = s.harts := rfl
@[simp] theorem State.modHart_sched (s : State) (f : Hart → Hart) : (s.modHart f).sched = s.sched := rfl

/-! ## State.modLive -/

@[simp] theorem State.modLive_mem (s : State) (f : Strip → Strip) : (s.modLive f).mem = s.mem := rfl
@[simp] theorem State.modLive_dev (s : State) (f : Strip → Strip) : (s.modLive f).dev = s.dev := rfl
@[simp] theorem State.modLive_part (s : State) (f : Strip → Strip) : (s.modLive f).part = s.part := rfl
@[simp] theorem State.modLive_parts (s : State) (f : Strip → Strip) : (s.modLive f).parts = s.parts := rfl
@[simp] theorem State.modLive_hart (s : State) (f : Strip → Strip) : (s.modLive f).hart = { s.hart with live := f s.hart.live } := rfl
@[simp] theorem State.modLive_harts (s : State) (f : Strip → Strip) : (s.modLive f).harts = s.harts := rfl
@[simp] theorem State.modLive_sched (s : State) (f : Strip → Strip) : (s.modLive f).sched = s.sched := rfl

/-! ## State.modPart -/

@[simp] theorem State.modPart_mem (s : State) (f : Partition → Partition) : (s.modPart f).mem = s.mem := rfl
@[simp] theorem State.modPart_dev (s : State) (f : Partition → Partition) : (s.modPart f).dev = s.dev := rfl
@[simp] theorem State.modPart_part (s : State) (f : Partition → Partition) : (s.modPart f).part = f s.part := rfl
@[simp] theorem State.modPart_parts (s : State) (f : Partition → Partition) : (s.modPart f).parts = s.parts := rfl
@[simp] theorem State.modPart_hart (s : State) (f : Partition → Partition) : (s.modPart f).hart = s.hart := rfl
@[simp] theorem State.modPart_harts (s : State) (f : Partition → Partition) : (s.modPart f).harts = s.harts := rfl
@[simp] theorem State.modPart_sched (s : State) (f : Partition → Partition) : (s.modPart f).sched = s.sched := rfl

/-! ## State.modDev -/

@[simp] theorem State.modDev_mem (s : State) (f : Device → Device) : (s.modDev f).mem = s.mem := rfl
@[simp] theorem State.modDev_dev (s : State) (f : Device → Device) : (s.modDev f).dev = f s.dev := rfl
@[simp] theorem State.modDev_part (s : State) (f : Device → Device) : (s.modDev f).part = s.part := rfl
@[simp] theorem State.modDev_parts (s : State) (f : Device → Device) : (s.modDev f).parts = s.parts := rfl
@[simp] theorem State.modDev_hart (s : State) (f : Device → Device) : (s.modDev f).hart = s.hart := rfl
@[simp] theorem State.modDev_harts (s : State) (f : Device → Device) : (s.modDev f).harts = s.harts := rfl
@[simp] theorem State.modDev_sched (s : State) (f : Device → Device) : (s.modDev f).sched = s.sched := rfl

/-! ## State.mapHarts -/

@[simp] theorem State.mapHarts_mem (s : State) (f : Hart → Hart) : (s.mapHarts f).mem = s.mem := rfl
@[simp] theorem State.mapHarts_dev (s : State) (f : Hart → Hart) : (s.mapHarts f).dev = s.dev := rfl
@[simp] theorem State.mapHarts_part (s : State) (f : Hart → Hart) : (s.mapHarts f).part = s.part := rfl
@[simp] theorem State.mapHarts_parts (s : State) (f : Hart → Hart) : (s.mapHarts f).parts = s.parts := rfl
@[simp] theorem State.mapHarts_hart (s : State) (f : Hart → Hart) : (s.mapHarts f).hart = f s.hart := rfl
@[simp] theorem State.mapHarts_harts (s : State) (f : Hart → Hart) : (s.mapHarts f).harts = s.harts.map f := rfl
@[simp] theorem State.mapHarts_sched (s : State) (f : Hart → Hart) : (s.mapHarts f).sched = s.sched := rfl

/-! ## State.poke -/

@[simp] theorem State.poke_mem (s : State) (k : Nat) (bs : List Byte) : (s.poke k bs).mem = s.mem.write k bs := rfl
@[simp] theorem State.poke_part (s : State) (k : Nat) (bs : List Byte) : (s.poke k bs).part = s.part := rfl
@[simp] theorem State.poke_parts (s : State) (k : Nat) (bs : List Byte) : (s.poke k bs).parts = s.parts := rfl
@[simp] theorem State.poke_hart (s : State) (k : Nat) (bs : List Byte) : (s.poke k bs).hart = s.hart := rfl
@[simp] theorem State.poke_harts (s : State) (k : Nat) (bs : List Byte) : (s.poke k bs).harts = s.harts := rfl
@[simp] theorem State.poke_sched (s : State) (k : Nat) (bs : List Byte) : (s.poke k bs).sched = s.sched := rfl

/-! ## State.wipe -/

@[simp] theorem State.wipe_mem (s : State) (k n : Nat) : (s.wipe k n).mem = s.mem.clear k n := rfl
@[simp] theorem State.wipe_part (s : State) (k n : Nat) : (s.wipe k n).part = s.part := rfl
@[simp] theorem State.wipe_parts (s : State) (k n : Nat) : (s.wipe k n).parts = s.parts := rfl
@[simp] theorem State.wipe_hart (s : State) (k n : Nat) : (s.wipe k n).hart = s.hart := rfl
@[simp] theorem State.wipe_harts (s : State) (k n : Nat) : (s.wipe k n).harts = s.harts := rfl
@[simp] theorem State.wipe_sched (s : State) (k n : Nat) : (s.wipe k n).sched = s.sched := rfl

/-! ## State.pokeNat -/

@[simp] theorem State.pokeNat_mem (s : State) (k n v : Nat) : (s.pokeNat k n v).mem = s.mem.write k (leBytes n v) := rfl
@[simp] theorem State.pokeNat_part (s : State) (k n v : Nat) : (s.pokeNat k n v).part = s.part := rfl
@[simp] theorem State.pokeNat_parts (s : State) (k n v : Nat) : (s.pokeNat k n v).parts = s.parts := rfl
@[simp] theorem State.pokeNat_hart (s : State) (k n v : Nat) : (s.pokeNat k n v).hart = s.hart := rfl
@[simp] theorem State.pokeNat_harts (s : State) (k n v : Nat) : (s.pokeNat k n v).harts = s.harts := rfl
@[simp] theorem State.pokeNat_sched (s : State) (k n v : Nat) : (s.pokeNat k n v).sched = s.sched := rfl

/-! ## State.pokeWord -/

@[simp] theorem State.pokeWord_mem (s : State) (k : Nat) (v : Word) : (s.pokeWord k v).mem = s.mem.write k (leBytes 8 v.toNat) := rfl
@[simp] theorem State.pokeWord_part (s : State) (k : Nat) (v : Word) : (s.pokeWord k v).part = s.part := rfl
@[simp] theorem State.pokeWord_parts (s : State) (k : Nat) (v : Word) : (s.pokeWord k v).parts = s.parts := rfl
@[simp] theorem State.pokeWord_hart (s : State) (k : Nat) (v : Word) : (s.pokeWord k v).hart = s.hart := rfl
@[simp] theorem State.pokeWord_harts (s : State) (k : Nat) (v : Word) : (s.pokeWord k v).harts = s.harts := rfl
@[simp] theorem State.pokeWord_sched (s : State) (k : Nat) (v : Word) : (s.pokeWord k v).sched = s.sched := rfl

/-! ## State.setX -/

@[simp] theorem State.setX_mem (s : State) (r : XReg) (v : Word) : (s.setX r v).mem = s.mem := rfl
@[simp] theorem State.setX_dev (s : State) (r : XReg) (v : Word) : (s.setX r v).dev = s.dev := rfl
@[simp] theorem State.setX_part (s : State) (r : XReg) (v : Word) : (s.setX r v).part = s.part := rfl
@[simp] theorem State.setX_parts (s : State) (r : XReg) (v : Word) : (s.setX r v).parts = s.parts := rfl
@[simp] theorem State.setX_hart (s : State) (r : XReg) (v : Word) : (s.setX r v).hart = { s.hart with live := s.hart.live.setX r v } := rfl
@[simp] theorem State.setX_harts (s : State) (r : XReg) (v : Word) : (s.setX r v).harts = s.harts := rfl
@[simp] theorem State.setX_sched (s : State) (r : XReg) (v : Word) : (s.setX r v).sched = s.sched := rfl

/-! ## State.advance -/

@[simp] theorem State.advance_mem (s : State) (len : Nat) : (s.advance len).mem = s.mem := rfl
@[simp] theorem State.advance_dev (s : State) (len : Nat) : (s.advance len).dev = s.dev := rfl
@[simp] theorem State.advance_part (s : State) (len : Nat) : (s.advance len).part = s.part := rfl
@[simp] theorem State.advance_parts (s : State) (len : Nat) : (s.advance len).parts = s.parts := rfl
@[simp] theorem State.advance_hart (s : State) (len : Nat) : (s.advance len).hart = { s.hart with live := { s.hart.live with pc := s.hart.live.pc + word len }, pending := s.hart.pending + 1, reply := [], refused := [], reading := none } := rfl
@[simp] theorem State.advance_harts (s : State) (len : Nat) : (s.advance len).harts = s.harts := rfl
@[simp] theorem State.advance_sched (s : State) (len : Nat) : (s.advance len).sched = s.sched := rfl

/-! ## State.goto -/

@[simp] theorem State.goto_mem (s : State) (pc : Word) : (s.goto pc).mem = s.mem := rfl
@[simp] theorem State.goto_dev (s : State) (pc : Word) : (s.goto pc).dev = s.dev := rfl
@[simp] theorem State.goto_part (s : State) (pc : Word) : (s.goto pc).part = s.part := rfl
@[simp] theorem State.goto_parts (s : State) (pc : Word) : (s.goto pc).parts = s.parts := rfl
@[simp] theorem State.goto_hart (s : State) (pc : Word) : (s.goto pc).hart = { s.hart with live := { s.hart.live with pc := pc }, pending := s.hart.pending + 1, reply := [], refused := [], reading := none } := rfl
@[simp] theorem State.goto_harts (s : State) (pc : Word) : (s.goto pc).harts = s.harts := rfl
@[simp] theorem State.goto_sched (s : State) (pc : Word) : (s.goto pc).sched = s.sched := rfl

/-! ## State.put -/

@[simp] theorem State.put_mem (s : State) (r : XReg) (v : Word) (len : Nat) : (s.put r v len).mem = s.mem := rfl
@[simp] theorem State.put_dev (s : State) (r : XReg) (v : Word) (len : Nat) : (s.put r v len).dev = s.dev := rfl
@[simp] theorem State.put_part (s : State) (r : XReg) (v : Word) (len : Nat) : (s.put r v len).part = s.part := rfl
@[simp] theorem State.put_parts (s : State) (r : XReg) (v : Word) (len : Nat) : (s.put r v len).parts = s.parts := rfl
@[simp] theorem State.put_hart (s : State) (r : XReg) (v : Word) (len : Nat) : (s.put r v len).hart = { s.hart with live := { s.hart.live.setX r v with pc := s.hart.live.pc + word len }, pending := s.hart.pending + 1, reply := [], refused := [], reading := none } := rfl
@[simp] theorem State.put_harts (s : State) (r : XReg) (v : Word) (len : Nat) : (s.put r v len).harts = s.harts := rfl
@[simp] theorem State.put_sched (s : State) (r : XReg) (v : Word) (len : Nat) : (s.put r v len).sched = s.sched := rfl

/-! ## State.complete -/

@[simp] theorem State.complete_mem (s : State) : (s.complete).mem = s.mem := rfl
@[simp] theorem State.complete_dev (s : State) : (s.complete).dev = s.dev := rfl
@[simp] theorem State.complete_part (s : State) : (s.complete).part = s.part := rfl
@[simp] theorem State.complete_parts (s : State) : (s.complete).parts = s.parts := rfl
@[simp] theorem State.complete_hart (s : State) : (s.complete).hart = s.hart.complete := rfl
@[simp] theorem State.complete_harts (s : State) : (s.complete).harts = s.harts := rfl
@[simp] theorem State.complete_sched (s : State) : (s.complete).sched = s.sched := rfl

/-! ## State.finish -/

@[simp] theorem State.finish_mem (s : State) (r : XReg) (v : Word) : (s.finish r v).mem = s.mem := rfl
@[simp] theorem State.finish_dev (s : State) (r : XReg) (v : Word) : (s.finish r v).dev = s.dev := rfl
@[simp] theorem State.finish_part (s : State) (r : XReg) (v : Word) : (s.finish r v).part = s.part := rfl
@[simp] theorem State.finish_parts (s : State) (r : XReg) (v : Word) : (s.finish r v).parts = s.parts := rfl
@[simp] theorem State.finish_hart (s : State) (r : XReg) (v : Word) : (s.finish r v).hart = s.hart.answer r v := rfl
@[simp] theorem State.finish_harts (s : State) (r : XReg) (v : Word) : (s.finish r v).harts = s.harts := rfl
@[simp] theorem State.finish_sched (s : State) (r : XReg) (v : Word) : (s.finish r v).sched = s.sched := rfl

/-! ## State.await -/

@[simp] theorem State.await_mem (s : State) (w : Wait) : (s.await w).mem = s.mem := rfl
@[simp] theorem State.await_dev (s : State) (w : Wait) : (s.await w).dev = s.dev := rfl
@[simp] theorem State.await_part (s : State) (w : Wait) : (s.await w).part = s.part := rfl
@[simp] theorem State.await_parts (s : State) (w : Wait) : (s.await w).parts = s.parts := rfl
@[simp] theorem State.await_hart (s : State) (w : Wait) : (s.await w).hart = { s.hart with status := .waiting w, pages := [], stale := false } := rfl
@[simp] theorem State.await_harts (s : State) (w : Wait) : (s.await w).harts = s.harts := rfl
@[simp] theorem State.await_sched (s : State) (w : Wait) : (s.await w).sched = s.sched := rfl

/-! ## State.tick -/

@[simp] theorem State.tick_mem (s : State) : (s.tick).mem = s.mem := rfl
@[simp] theorem State.tick_dev (s : State) : (s.tick).dev = { s.dev with cycle := s.dev.cycle + word (Config.ticks s.dev.freeIdx), freeIdx := s.dev.freeIdx + 1 } := rfl
@[simp] theorem State.tick_part (s : State) : (s.tick).part = s.part := rfl
@[simp] theorem State.tick_parts (s : State) : (s.tick).parts = s.parts := rfl
@[simp] theorem State.tick_hart (s : State) : (s.tick).hart = s.hart := rfl
@[simp] theorem State.tick_harts (s : State) : (s.tick).harts = s.harts := rfl
@[simp] theorem State.tick_sched (s : State) : (s.tick).sched = s.sched := rfl

/-! ## State.tlbInstall -/

@[simp] theorem State.tlbInstall_mem (s : State) (hall : Nat) (p : PartId) (root : Word) (a : Nat) (l : Leaf) : (s.tlbInstall hall p root a l).mem = s.mem := rfl
@[simp] theorem State.tlbInstall_part (s : State) (hall : Nat) (p : PartId) (root : Word) (a : Nat) (l : Leaf) : (s.tlbInstall hall p root a l).part = s.part := rfl
@[simp] theorem State.tlbInstall_parts (s : State) (hall : Nat) (p : PartId) (root : Word) (a : Nat) (l : Leaf) : (s.tlbInstall hall p root a l).parts = s.parts := rfl
@[simp] theorem State.tlbInstall_hart (s : State) (hall : Nat) (p : PartId) (root : Word) (a : Nat) (l : Leaf) : (s.tlbInstall hall p root a l).hart = s.hart := rfl
@[simp] theorem State.tlbInstall_harts (s : State) (hall : Nat) (p : PartId) (root : Word) (a : Nat) (l : Leaf) : (s.tlbInstall hall p root a l).harts = s.harts := rfl
@[simp] theorem State.tlbInstall_sched (s : State) (hall : Nat) (p : PartId) (root : Word) (a : Nat) (l : Leaf) : (s.tlbInstall hall p root a l).sched = s.sched := rfl

/-! ## State.setOwner -/

@[simp] theorem State.setOwner_mem (s : State) (hall b : Nat) (o : Option Nat) : (s.setOwner hall b o).mem = s.mem := rfl
@[simp] theorem State.setOwner_part (s : State) (hall b : Nat) (o : Option Nat) : (s.setOwner hall b o).part = s.part := rfl
@[simp] theorem State.setOwner_parts (s : State) (hall b : Nat) (o : Option Nat) : (s.setOwner hall b o).parts = s.parts := rfl
@[simp] theorem State.setOwner_hart (s : State) (hall b : Nat) (o : Option Nat) : (s.setOwner hall b o).hart = s.hart := rfl
@[simp] theorem State.setOwner_harts (s : State) (hall b : Nat) (o : Option Nat) : (s.setOwner hall b o).harts = s.harts := rfl
@[simp] theorem State.setOwner_sched (s : State) (hall b : Nat) (o : Option Nat) : (s.setOwner hall b o).sched = s.sched := rfl

/-! ## State.sendAs -/

@[simp] theorem State.sendAs_mem (s : State) (job src : BitVec 16) (die : Nat) (dst : BitVec 16) (kind : Nat) (vc : BitVec 2) (addr : Word) (len : Nat) (payload : List Byte) : (s.sendAs job src die dst kind vc addr len payload).mem = s.mem := rfl
@[simp] theorem State.sendAs_part (s : State) (job src : BitVec 16) (die : Nat) (dst : BitVec 16) (kind : Nat) (vc : BitVec 2) (addr : Word) (len : Nat) (payload : List Byte) : (s.sendAs job src die dst kind vc addr len payload).part = s.part := rfl
@[simp] theorem State.sendAs_parts (s : State) (job src : BitVec 16) (die : Nat) (dst : BitVec 16) (kind : Nat) (vc : BitVec 2) (addr : Word) (len : Nat) (payload : List Byte) : (s.sendAs job src die dst kind vc addr len payload).parts = s.parts := rfl
@[simp] theorem State.sendAs_hart (s : State) (job src : BitVec 16) (die : Nat) (dst : BitVec 16) (kind : Nat) (vc : BitVec 2) (addr : Word) (len : Nat) (payload : List Byte) : (s.sendAs job src die dst kind vc addr len payload).hart = s.hart := rfl
@[simp] theorem State.sendAs_harts (s : State) (job src : BitVec 16) (die : Nat) (dst : BitVec 16) (kind : Nat) (vc : BitVec 2) (addr : Word) (len : Nat) (payload : List Byte) : (s.sendAs job src die dst kind vc addr len payload).harts = s.harts := rfl
@[simp] theorem State.sendAs_sched (s : State) (job src : BitVec 16) (die : Nat) (dst : BitVec 16) (kind : Nat) (vc : BitVec 2) (addr : Word) (len : Nat) (payload : List Byte) : (s.sendAs job src die dst kind vc addr len payload).sched = s.sched := rfl

/-! ## State.request -/

@[simp] theorem State.request_mem (s : State) (from_ : Origin) (die key kind len : Nat) (payload : List Byte) : (s.request from_ die key kind len payload).mem = s.mem := rfl
@[simp] theorem State.request_part (s : State) (from_ : Origin) (die key kind len : Nat) (payload : List Byte) : (s.request from_ die key kind len payload).part = s.part := rfl
@[simp] theorem State.request_parts (s : State) (from_ : Origin) (die key kind len : Nat) (payload : List Byte) : (s.request from_ die key kind len payload).parts = s.parts := rfl
@[simp] theorem State.request_hart (s : State) (from_ : Origin) (die key kind len : Nat) (payload : List Byte) : (s.request from_ die key kind len payload).hart = s.hart := rfl
@[simp] theorem State.request_harts (s : State) (from_ : Origin) (die key kind len : Nat) (payload : List Byte) : (s.request from_ die key kind len payload).harts = s.harts := rfl
@[simp] theorem State.request_sched (s : State) (from_ : Origin) (die key kind len : Nat) (payload : List Byte) : (s.request from_ die key kind len payload).sched = s.sched := rfl

/-! ## State.askFor -/

@[simp] theorem State.askFor_mem (s : State) (key kind len : Nat) (payload : List Byte) : (s.askFor key kind len payload).mem = s.mem := rfl
@[simp] theorem State.askFor_part (s : State) (key kind len : Nat) (payload : List Byte) : (s.askFor key kind len payload).part = s.part := rfl
@[simp] theorem State.askFor_parts (s : State) (key kind len : Nat) (payload : List Byte) : (s.askFor key kind len payload).parts = s.parts := rfl
@[simp] theorem State.askFor_harts (s : State) (key kind len : Nat) (payload : List Byte) : (s.askFor key kind len payload).harts = s.harts := rfl
@[simp] theorem State.askFor_sched (s : State) (key kind len : Nat) (payload : List Byte) : (s.askFor key kind len payload).sched = s.sched := rfl

@[simp] theorem State.askFor_hart (s : State) (key kind len : Nat) (payload : List Byte) : (s.askFor key kind len payload).hart = { s.hart with asked := some s.dev.nextReq } := rfl

/-! ## State.ask -/

@[simp] theorem State.ask_mem (s : State) (key kind len : Nat) (payload : List Byte) (w : Wait) : (s.ask key kind len payload w).mem = s.mem := rfl
@[simp] theorem State.ask_part (s : State) (key kind len : Nat) (payload : List Byte) (w : Wait) : (s.ask key kind len payload w).part = s.part := rfl
@[simp] theorem State.ask_parts (s : State) (key kind len : Nat) (payload : List Byte) (w : Wait) : (s.ask key kind len payload w).parts = s.parts := rfl
@[simp] theorem State.ask_harts (s : State) (key kind len : Nat) (payload : List Byte) (w : Wait) : (s.ask key kind len payload w).harts = s.harts := rfl
@[simp] theorem State.ask_sched (s : State) (key kind len : Nat) (payload : List Byte) (w : Wait) : (s.ask key kind len payload w).sched = s.sched := rfl

@[simp] theorem State.ask_hart (s : State) (key kind len : Nat) (payload : List Byte) (w : Wait) : (s.ask key kind len payload w).hart = { s.hart with asked := some s.dev.nextReq, status := .waiting w } := rfl

/-! ## State.withReply -/

@[simp] theorem State.withReply_mem (s : State) (reply : List (Nat × List Byte)) (refused : List Nat) : (s.withReply reply refused).mem = s.mem := rfl
@[simp] theorem State.withReply_dev (s : State) (reply : List (Nat × List Byte)) (refused : List Nat) : (s.withReply reply refused).dev = s.dev := rfl
@[simp] theorem State.withReply_part (s : State) (reply : List (Nat × List Byte)) (refused : List Nat) : (s.withReply reply refused).part = s.part := rfl
@[simp] theorem State.withReply_parts (s : State) (reply : List (Nat × List Byte)) (refused : List Nat) : (s.withReply reply refused).parts = s.parts := rfl
@[simp] theorem State.withReply_harts (s : State) (reply : List (Nat × List Byte)) (refused : List Nat) : (s.withReply reply refused).harts = s.harts := rfl
@[simp] theorem State.withReply_sched (s : State) (reply : List (Nat × List Byte)) (refused : List Nat) : (s.withReply reply refused).sched = s.sched := rfl
@[simp] theorem State.withReply_hart (s : State) (reply : List (Nat × List Byte)) (refused : List Nat) : (s.withReply reply refused).hart = { s.hart with reply := reply, refused := refused } := rfl

/-! ## State.hartSend -/

@[simp] theorem State.hartSend_mem (s : State) (key kind len : Nat) (payload : List Byte) : (s.hartSend key kind len payload).mem = s.mem := rfl
@[simp] theorem State.hartSend_part (s : State) (key kind len : Nat) (payload : List Byte) : (s.hartSend key kind len payload).part = s.part := rfl
@[simp] theorem State.hartSend_parts (s : State) (key kind len : Nat) (payload : List Byte) : (s.hartSend key kind len payload).parts = s.parts := rfl
@[simp] theorem State.hartSend_harts (s : State) (key kind len : Nat) (payload : List Byte) : (s.hartSend key kind len payload).harts = s.harts := rfl
@[simp] theorem State.hartSend_sched (s : State) (key kind len : Nat) (payload : List Byte) : (s.hartSend key kind len payload).sched = s.sched := rfl
@[simp] theorem State.hartSend_hart (s : State) (key kind len : Nat) (payload : List Byte) : (s.hartSend key kind len payload).hart = { s.hart with acks := s.hart.acks ++ [((remoteTarget s.part.cfg key).1, s.dev.nextReq)] } := rfl

/-! ## State.modGang -/

@[simp] theorem State.modGang_mem (s : State) (id : Nat) (f : Gang → Gang) : (s.modGang id f).mem = s.mem := rfl
@[simp] theorem State.modGang_dev (s : State) (id : Nat) (f : Gang → Gang) : (s.modGang id f).dev = s.dev := rfl
@[simp] theorem State.modGang_parts (s : State) (id : Nat) (f : Gang → Gang) : (s.modGang id f).parts = s.parts := rfl
@[simp] theorem State.modGang_hart (s : State) (id : Nat) (f : Gang → Gang) : (s.modGang id f).hart = s.hart := rfl
@[simp] theorem State.modGang_harts (s : State) (id : Nat) (f : Gang → Gang) : (s.modGang id f).harts = s.harts := rfl
@[simp] theorem State.modGang_sched (s : State) (id : Nat) (f : Gang → Gang) : (s.modGang id f).sched = s.sched := rfl

/-! ## State.setLaunch -/

@[simp] theorem State.setLaunch_mem (s : State) (l : Launch) : (s.setLaunch l).mem = s.mem := rfl
@[simp] theorem State.setLaunch_dev (s : State) (l : Launch) : (s.setLaunch l).dev = s.dev := rfl
@[simp] theorem State.setLaunch_parts (s : State) (l : Launch) : (s.setLaunch l).parts = s.parts := rfl
@[simp] theorem State.setLaunch_hart (s : State) (l : Launch) : (s.setLaunch l).hart = s.hart := rfl
@[simp] theorem State.setLaunch_harts (s : State) (l : Launch) : (s.setLaunch l).harts = s.harts := rfl
@[simp] theorem State.setLaunch_sched (s : State) (l : Launch) : (s.setLaunch l).sched = s.sched := rfl

/-! ## State.modLaunch -/

@[simp] theorem State.modLaunch_mem (s : State) (handle : Slot) (f : Launch → Launch) : (s.modLaunch handle f).mem = s.mem := rfl
@[simp] theorem State.modLaunch_dev (s : State) (handle : Slot) (f : Launch → Launch) : (s.modLaunch handle f).dev = s.dev := rfl
@[simp] theorem State.modLaunch_parts (s : State) (handle : Slot) (f : Launch → Launch) : (s.modLaunch handle f).parts = s.parts := rfl
@[simp] theorem State.modLaunch_hart (s : State) (handle : Slot) (f : Launch → Launch) : (s.modLaunch handle f).hart = s.hart := rfl
@[simp] theorem State.modLaunch_harts (s : State) (handle : Slot) (f : Launch → Launch) : (s.modLaunch handle f).harts = s.harts := rfl
@[simp] theorem State.modLaunch_sched (s : State) (handle : Slot) (f : Launch → Launch) : (s.modLaunch handle f).sched = s.sched := rfl

/-! ## State.setCopy -/

@[simp] theorem State.setCopy_mem (s : State) (c : Copy) : (s.setCopy c).mem = s.mem := rfl
@[simp] theorem State.setCopy_dev (s : State) (c : Copy) : (s.setCopy c).dev = s.dev := rfl
@[simp] theorem State.setCopy_parts (s : State) (c : Copy) : (s.setCopy c).parts = s.parts := rfl
@[simp] theorem State.setCopy_hart (s : State) (c : Copy) : (s.setCopy c).hart = s.hart := rfl
@[simp] theorem State.setCopy_harts (s : State) (c : Copy) : (s.setCopy c).harts = s.harts := rfl
@[simp] theorem State.setCopy_sched (s : State) (c : Copy) : (s.setCopy c).sched = s.sched := rfl

/-! ## State.setObject -/

@[simp] theorem State.setObject_mem (s : State) (x : IxObj) : (s.setObject x).mem = s.mem := rfl
@[simp] theorem State.setObject_dev (s : State) (x : IxObj) : (s.setObject x).dev = s.dev := rfl
@[simp] theorem State.setObject_parts (s : State) (x : IxObj) : (s.setObject x).parts = s.parts := rfl
@[simp] theorem State.setObject_hart (s : State) (x : IxObj) : (s.setObject x).hart = s.hart := rfl
@[simp] theorem State.setObject_harts (s : State) (x : IxObj) : (s.setObject x).harts = s.harts := rfl
@[simp] theorem State.setObject_sched (s : State) (x : IxObj) : (s.setObject x).sched = s.sched := rfl

/-! ## State.setCursor -/

@[simp] theorem State.setCursor_mem (s : State) (c : Cursor) : (s.setCursor c).mem = s.mem := rfl
@[simp] theorem State.setCursor_dev (s : State) (c : Cursor) : (s.setCursor c).dev = s.dev := rfl
@[simp] theorem State.setCursor_parts (s : State) (c : Cursor) : (s.setCursor c).parts = s.parts := rfl
@[simp] theorem State.setCursor_hart (s : State) (c : Cursor) : (s.setCursor c).hart = s.hart := rfl
@[simp] theorem State.setCursor_harts (s : State) (c : Cursor) : (s.setCursor c).harts = s.harts := rfl
@[simp] theorem State.setCursor_sched (s : State) (c : Cursor) : (s.setCursor c).sched = s.sched := rfl

/-! ## State.addHart -/

@[simp] theorem State.addHart_mem (s : State) (h : Hart) : (s.addHart h).mem = s.mem := rfl
@[simp] theorem State.addHart_dev (s : State) (h : Hart) : (s.addHart h).dev = s.dev := rfl
@[simp] theorem State.addHart_part (s : State) (h : Hart) : (s.addHart h).part = s.part := rfl
@[simp] theorem State.addHart_parts (s : State) (h : Hart) : (s.addHart h).parts = s.parts := rfl
@[simp] theorem State.addHart_hart (s : State) (h : Hart) : (s.addHart h).hart = s.hart := rfl
@[simp] theorem State.addHart_sched (s : State) (h : Hart) : (s.addHart h).sched = s.sched := rfl

/-! ## State.setJob -/

@[simp] theorem State.setJob_mem (s : State) (j : Job) : (s.setJob j).mem = s.mem := rfl
@[simp] theorem State.setJob_part (s : State) (j : Job) : (s.setJob j).part = s.part := rfl
@[simp] theorem State.setJob_parts (s : State) (j : Job) : (s.setJob j).parts = s.parts := rfl
@[simp] theorem State.setJob_hart (s : State) (j : Job) : (s.setJob j).hart = s.hart := rfl
@[simp] theorem State.setJob_harts (s : State) (j : Job) : (s.setJob j).harts = s.harts := rfl
@[simp] theorem State.setJob_sched (s : State) (j : Job) : (s.setJob j).sched = s.sched := rfl

/-! ## State.modPort -/

@[simp] theorem State.modPort_mem (s : State) (r : PortRef) (f : Port → Port) : (s.modPort r f).mem = s.mem := rfl
@[simp] theorem State.modPort_part (s : State) (r : PortRef) (f : Port → Port) : (s.modPort r f).part = s.part := rfl
@[simp] theorem State.modPort_parts (s : State) (r : PortRef) (f : Port → Port) : (s.modPort r f).parts = s.parts := rfl
@[simp] theorem State.modPort_hart (s : State) (r : PortRef) (f : Port → Port) : (s.modPort r f).hart = s.hart := rfl
@[simp] theorem State.modPort_harts (s : State) (r : PortRef) (f : Port → Port) : (s.modPort r f).harts = s.harts := rfl
@[simp] theorem State.modPort_sched (s : State) (r : PortRef) (f : Port → Port) : (s.modPort r f).sched = s.sched := rfl

/-! ## State.noteUncor -/

@[simp] theorem State.noteUncor_mem (s : State) : (s.noteUncor).mem = s.mem := rfl
@[simp] theorem State.noteUncor_part (s : State) : (s.noteUncor).part = s.part := rfl
@[simp] theorem State.noteUncor_parts (s : State) : (s.noteUncor).parts = s.parts := rfl
@[simp] theorem State.noteUncor_hart (s : State) : (s.noteUncor).hart = s.hart := rfl
@[simp] theorem State.noteUncor_harts (s : State) : (s.noteUncor).harts = s.harts := rfl
@[simp] theorem State.noteUncor_sched (s : State) : (s.noteUncor).sched = s.sched := rfl

/-! ## Registers -/

theorem Strip.setX_x (r : XReg) (v : Word) (st : Strip) : (st.setX r v).x = if r = 0 then st.x else st.x.set r.toNat v := rfl

@[simp] theorem Strip.setX_ldl (r : XReg) (v : Word) (st : Strip) : (st.setX r v).ldl = ldlX r := rfl

@[simp] theorem Strip.setX_pc (r : XReg) (v : Word) (st : Strip) : (st.setX r v).pc = st.pc := rfl

/-- A register read after a write of one: x0 reads 0 and discards writes (R84). -/
theorem xr_setX (s : State) (d r : XReg) (v : Word) : (s.setX d v).xr r = if r = 0 then 0 else if r = d then v else s.xr r := by
  by_cases hr : r = 0
  · rw [if_pos hr]; exact if_pos hr
  · show (if r = 0 then 0 else (s.hart.live.setX d v).x[r.toNat]) = _
    rw [if_neg hr, if_neg hr]
    by_cases h : r = d
    · subst h
      simp only [Strip.setX, if_neg hr, Vector.getElem_set_self, if_true]
    · have hn : d.toNat ≠ r.toNat := fun e => h (BitVec.eq_of_toNat_eq e).symm
      rw [if_neg h, State.xr, if_neg hr]
      by_cases hd : d = 0
      · simp only [Strip.setX, if_pos hd]
      · simp only [Strip.setX, if_neg hd, Vector.getElem_set_ne _ _ hn]

@[simp] theorem xr_zero (s : State) : s.xr 0 = 0 := rfl

/-- The same through the common end of the scalar instructions. -/
theorem xr_put (s : State) (d r : XReg) (v : Word) (n : Nat) :
    (s.put d v n).xr r = if r = 0 then 0 else if r = d then v else s.xr r := xr_setX s d r v

/-- And through a closing instruction that writes a register. -/
theorem xr_finish (s : State) (d r : XReg) (v : Word) :
    (s.finish d v).xr r = if r = 0 then 0 else if r = d then v else s.xr r := xr_setX s d r v

@[simp] theorem xr_advance (s : State) (n : Nat) (r : XReg) : (s.advance n).xr r = s.xr r := rfl
@[simp] theorem xr_goto (s : State) (p : Word) (r : XReg) : (s.goto p).xr r = s.xr r := rfl
@[simp] theorem xr_complete (s : State) (r : XReg) : s.complete.xr r = s.xr r := rfl
@[simp] theorem xr_await (s : State) (w : Wait) (r : XReg) : (s.await w).xr r = s.xr r := rfl
@[simp] theorem xr_poke (s : State) (k : Nat) (bs : List Byte) (r : XReg) : (s.poke k bs).xr r = s.xr r := rfl
@[simp] theorem xr_modPart (s : State) (f : Partition → Partition) (r : XReg) : (s.modPart f).xr r = s.xr r := rfl
@[simp] theorem xr_modDev (s : State) (f : Device → Device) (r : XReg) : (s.modDev f).xr r = s.xr r := rfl

/-! ## The issuing hart at the end of a closing instruction -/

@[simp] theorem Hart.complete_pc (h : Hart) : h.complete.live.pc = h.live.pc + 4 := rfl
@[simp] theorem Hart.complete_ckpt (h : Hart) : h.complete.ckpt = h.complete.live := rfl
@[simp] theorem Hart.complete_status (h : Hart) : h.complete.status = .ready := rfl
@[simp] theorem Hart.complete_mortar (h : Hart) : h.complete.mortar = h.mortar := rfl
@[simp] theorem Hart.complete_pending (h : Hart) : h.complete.pending = 0 := rfl
@[simp] theorem Hart.answer_live (h : Hart) (r : XReg) (v : Word) :
    (h.answer r v).live = { h.live.setX r v with pc := h.live.pc + 4 } := rfl

end Sys2Proof.Machine
end

