-- ==== Sys2Proof/Laws/Closing.lean ====
section
/-! SUPPORT. What closing the strip does where nothing holds it back, and how the closing and the engine instructions go on from
there: the lemmas that the statements about them rest on. -/

set_option Elab.async false

namespace Sys2Proof.Machine

/-! ## The marks and the stores of a commit -/

/-- What the marks and the local stores of a commit leave alone. -/
structure SameButMemory (s t : State) : Prop where
  hart : t.hart = s.hart
  part : t.part = s.part
  parts : t.parts = s.parts
  harts : t.harts = s.harts
  sched : t.sched = s.sched
  dev : t.dev = { s.dev with
    tlb := t.dev.tlb
    damaged := t.dev.damaged }

theorem SameButMemory.refl (s : State) : SameButMemory s s := ⟨rfl, rfl, rfl, rfl, rfl, rfl⟩

theorem SameButMemory.trans {s t u : State} (h : SameButMemory s t) (k : SameButMemory t u) : SameButMemory s u :=
  ⟨k.hart.trans h.hart, k.part.trans h.part, k.parts.trans h.parts, k.harts.trans h.harts, k.sched.trans h.sched, by
    rw [k.dev, h.dev]⟩

theorem SameButMemory.foldl {α : Type} {f : State → α → State} (hf : ∀ s a, SameButMemory s (f s a)) (l : List α) (s : State) :
    SameButMemory s (l.foldl f s) := by
  induction l generalizing s with
  | nil => exact .refl s
  | cons a l ih => exact (hf s a).trans (ih _)

theorem poke_same (s : State) (k : Nat) (bs : List Byte) : SameButMemory s (s.poke k bs) := ⟨rfl, rfl, rfl, rfl, rfl, rfl⟩

theorem orWord_same (s : State) (k : Nat) (v : Word) : SameButMemory s (s.orWord k v) := by
  unfold State.orWord
  split
  · exact .refl s
  · exact ⟨rfl, rfl, rfl, rfl, rfl, rfl⟩

theorem markLeaf_same (s : State) {k : Nat} (v : Word) (hk : isRemote k = false) : SameButMemory s (s.markLeaf k v) := by
  have h := orWord_same s k v
  unfold State.markLeaf
  rw [if_neg (by simp [hk])]
  exact ⟨h.hart, h.part, h.parts, h.harts, h.sched, by rw [State.modDev_dev, h.dev]⟩

theorem markStored_same (s : State) {k : Nat} (hk : isRemote k = false) : SameButMemory s (markStored s k) := by
  unfold markStored
  split
  · exact .refl s
  · exact markLeaf_same s _ hk

theorem markAll_same (l : List Nat) (hl : ∀ k ∈ l, isRemote k = false) (s : State) : SameButMemory s (l.foldl markStored s) := by
  induction l generalizing s with
  | nil => exact .refl s
  | cons k l ih =>
    exact (markStored_same s (hl k (by simp))).trans (ih (fun j hj => hl j (by simp [hj])) _)

/-- Stores of this device are performed at once where no acknowledgement is waited for. -/
theorem drainStores_local (l : List Store) (s : State) (hl : l.all (fun st => !isRemote st.key) = true) (ha : s.hart.acks = []) :
    drainStores l s = (l.foldl (fun s st => s.poke st.key st.data) s, []) := by
  induction l generalizing s with
  | nil => rfl
  | cons st l ih =>
    simp only [List.all_cons, Bool.and_eq_true, Bool.not_eq_eq_eq_not, Bool.not_true] at hl
    simp only [drainStores, hl.1, ha, List.foldl_cons]
    exact ih _ hl.2 ha

/-! ## Closing where nothing holds it back -/

/-- The leaves of the pages that a quiet hart has stored to lie on this device. -/
theorem State.Quiet.leaves {s : State} (h : s.Quiet) : ∀ k ∈ (s.hart.mortar.filterMap (·.leaf)).eraseDups, isRemote k = false := by
  intro k hk
  rw [List.mem_eraseDups, List.mem_filterMap] at hk
  obtain ⟨st, hs, he⟩ := hk
  have := List.all_eq_true.1 h.2.2.2.2 st hs
  simp only [he, Option.all_some, Bool.and_eq_true, Bool.not_eq_true'] at this
  exact this.2

theorem State.Quiet.stores {s : State} (h : s.Quiet) : s.hart.mortar.all (fun st => !isRemote st.key) = true := by
  rw [List.all_eq_true]
  intro st hs
  have := List.all_eq_true.1 h.2.2.2.2 st hs
  simp only [Bool.and_eq_true] at this
  exact this.1

theorem State.Quiet.commit_same {s : State} (h : s.Quiet) :
    SameButMemory (s.modHart (fun h => { h.reopen with
      outgoing := h.outgoing ++ h.mortar
      mortar := []
      staleOut := h.staleOut || (h.stale && !h.mortar.isEmpty) })) s.commit := by
  have h := markAll_same _ h.leaves s
  refine ⟨?_, h.part, h.parts, h.harts, h.sched, h.dev⟩
  simp only [State.commit, State.modHart_hart, h.hart]

/-- A quiet hart past its commit: the bytes of other devices that are older than its stores are gone. -/
def Hart.pastCommit (h : Hart) : Hart :=
  { h.reopen with
    mortar := []
    staleOut := false
    reply := if h.mortar = [] then h.reply else []
    refused := if h.mortar = [] then h.refused else [] }

theorem State.Quiet.closed_same {s : State} (h : s.Quiet) : SameButMemory (s.modHart Hart.pastCommit) s.closed := by
  have hc := h.commit_same
  have hm := h.stores
  obtain ⟨ho, ha, -, -⟩ := h
  have hh : s.commit.hart = { s.hart.reopen with
      outgoing := s.hart.mortar
      mortar := []
      staleOut := s.hart.staleOut || (s.hart.stale && !s.hart.mortar.isEmpty) } := by simpa [ho] using hc.hart
  have hd := drainStores_local s.commit.hart.outgoing s.commit (by rw [hh]; exact hm) (by rw [hh]; exact ha)
  have hp := SameButMemory.foldl (fun (u : State) (st : Store) => poke_same u st.key st.data) s.commit.hart.outgoing s.commit
  have hx : s.closed = (s.commit.hart.outgoing.foldl (fun u st => u.poke st.key st.data) s.commit).modHart
      (fun h => { h with
        outgoing := []
        staleOut := h.staleOut && !(([] : List Store).isEmpty && h.acks.isEmpty)
        reply := if [] = h.outgoing then h.reply else []
        refused := if [] = h.outgoing then h.refused else [] }) := by simp only [State.closed, State.drain, hd]
  rw [hx]
  refine ⟨?_, hp.part.trans hc.part, hp.parts.trans hc.parts, hp.harts.trans hc.harts, hp.sched.trans hc.sched, ?_⟩
  · have hacks : s.hart.reopen.acks = [] := ha
    have hout : s.hart.reopen.outgoing = [] := ho
    have hr : s.hart.reopen.reply = s.hart.reply := rfl
    have hf : s.hart.reopen.refused = s.hart.refused := rfl
    rw [State.modHart_hart, State.modHart_hart, hp.hart, hh]
    unfold Hart.pastCommit
    rw [← hr, ← hf]
    generalize s.hart.reopen = g at *
    cases g
    simp_all
  · have h1 := hp.dev
    have h2 := hc.dev
    simp only [State.modHart_dev] at h2 ⊢
    rw [h1, h2]

/-- The hart past its commit. -/
theorem State.Quiet.closed_hart {s : State} (h : s.Quiet) : s.closed.hart = s.hart.pastCommit := h.closed_same.hart

theorem State.Quiet.closed_part {s : State} (h : s.Quiet) : s.closed.part = s.part := h.closed_same.part
theorem State.Quiet.closed_parts {s : State} (h : s.Quiet) : s.closed.parts = s.parts := h.closed_same.parts
theorem State.Quiet.closed_harts {s : State} (h : s.Quiet) : s.closed.harts = s.harts := h.closed_same.harts
theorem State.Quiet.closed_sched {s : State} (h : s.Quiet) : s.closed.sched = s.sched := h.closed_same.sched

/-- The registers of the strip are as they were. -/
theorem State.Quiet.closed_live {s : State} (h : s.Quiet) : s.closed.hart.live = s.hart.live := by rw [h.closed_hart]; rfl

theorem State.Quiet.closed_xr {s : State} (h : s.Quiet) (r : XReg) : s.closed.xr r = s.xr r := by
  simp only [State.xr, h.closed_live]

/-- What engines have sent for a quiet hart is acknowledged also past its commit. -/
theorem State.Quiet.closed_owes {s : State} (h : s.Quiet) : s.closed.hart.owes s.closed = false := by
  have hd : s.closed.dev.outstanding = s.dev.outstanding := by rw [h.closed_same.dev]; rfl
  have hw := h.2.2.1
  simp only [Hart.owes, State.owing, hd, h.closed_part, h.closed_hart] at hw ⊢
  exact hw

/-- A closing instruction goes on past its commit. -/
theorem State.Quiet.closeStrip {s : State} (h : s.Quiet) (release : Bool) : closeStrip release s = (s.closed, true) := by
  have hh := h.closed_hart
  have hw := h.closed_owes
  obtain ⟨ho, ha, -, hp, -⟩ := h
  have h1 : s.closed.hart.outgoing = [] := by rw [hh]; exact ho
  have h2 : s.closed.hart.acks = [] := by rw [hh]; exact ha
  have h3 : s.closed.hart.preempt = none := by rw [hh]; exact hp
  change afterCommit release s.closed = (s.closed, true)
  simp [afterCommit, hw, h1, h2, h3]

theorem State.Quiet.closing {s : State} (h : s.Quiet) (release : Bool) (body : M Unit) :
    closing release body s = retry body s.closed := by
  simp only [Machine.closing, h.closeStrip]

/-- What retries goes on as it is where it waits for nothing. -/
theorem retry_ok {α : Type} {m : M α} {s t : State} {x : α} (h : m s = .ok x t) : retry m s = .ok x t := by
  simp only [retry, h]

theorem retry_trap {α : Type} {m : M α} {s t : State} {c : Cause} {v w : Word} (h : m s = .error (.trap c v w) t) :
    retry m s = .error (.trap c v w) t := by
  simp only [retry, h]

/-- A closing instruction that completes. -/
theorem State.Quiet.run_closing {s t : State} (h : s.Quiet) (release : Bool) (body : M Unit) (hb : body s.closed = .ok () t) :
    run (Machine.closing release body) s = .next t := by
  simp only [run, h.closing, retry_ok hb]

/-- An engine instruction in full service goes on with its checks and its command past the commit. -/
theorem State.Quiet.engine_body {s : State} (h : s.Quiet) (hf : isReduced s = false) (w : BitVec 32) (body : M Unit) :
    (do needFull w; Machine.closing true body : M Unit) s = retry body s.closed := by
  show EStateM.bind (needFull w) (fun _ => Machine.closing true body) s = _
  simp only [EStateM.bind, needFull, bind, read, hf]
  exact h.closing true body

/-- A command that finds room enters its queue. -/
theorem EngineReady.enter {s : State} {e : EngineKind} (h : EngineReady s e) (body : M Unit) : enter e body s.closed = body s.closed := by
  have hq : s.closed.hart.queueFull e = false := by
    rw [h.quiet.closed_hart]
    exact h.room
  simp [Machine.enter, hq]

/-- An engine instruction that completes or waits. -/
theorem EngineReady.ok {s t : State} {e : EngineKind} (h : EngineReady s e) {w : BitVec 32} {body : M Unit}
    (hb : body s.closed = .ok () t) : engineOp w body s = .next t := by
  simp only [engineOp, run, h.quiet.engine_body h.full, retry_ok hb]

/-- An engine instruction whose check fails traps past the commit. -/
theorem EngineReady.trap {s t : State} {e : EngineKind} (h : EngineReady s e) {w : BitVec 32} {body : M Unit} {c : Cause} {v x : Word}
    (hb : body s.closed = .error (.trap c v x) t) : engineOp w body s = .next (takeTrap c v x t) := by
  simp only [engineOp, run, h.quiet.engine_body h.full, retry_trap hb]

/-- A command accepted and complete at once. -/
theorem takeAndGo_run (e : EngineKind) (s : State) : takeAndGo e s = .ok () (s.accepts e).completed := rfl

/-- A command accepted and answered at once. -/
theorem takeAndAnswer_run (e : EngineKind) (r : XReg) (v : Word) (s : State) :
    takeAndAnswer e r v s = .ok () ((s.accepts e).answered r v) := rfl

theorem takeIn_run (e : EngineKind) (s : State) : takeIn e s = .ok (s.issuer e (s.hart.ordinal e)) (s.accepts e) := rfl

/-! ## The checks that engine instructions begin with -/

theorem needSupervisor_run {s : State} (h : s.isSuper) (w : BitVec 32) : needSupervisor w s = .ok () s := by
  show (if s.hart.mode = .supervisor then pure () else trapWord .priv w : M Unit) s = _
  rw [if_pos (show s.hart.mode = .supervisor from h)]
  rfl

theorem needLaunch_run {s : State} {h : Word} {l : Launch} (hl : s.launchNamed h = some l) : needLaunch h s = .ok l s := by
  show (match s.launchNamed h with
    | some l => pure l
    | none => trap .fhandle h : M Launch) s = _
  rw [hl]
  rfl

theorem needCursor_run {s : State} {h : Word} {c : Cursor} (hc : s.cursorNamed h = some c) : needCursor h s = .ok c s := by
  show (match s.cursorNamed h with
    | some c => pure c
    | none => trap .curhandle h : M Cursor) s = _
  rw [hc]
  rfl

theorem needReadable_run {s : State} {h : Word} {x : IxObj} (hx : s.readableObject h = some x) : needReadable h s = .ok x s := by
  show (match s.readableObject h with
    | some x => pure x
    | none => trap .ixhandle h : M IxObj) s = _
  rw [hx]
  rfl

theorem needOwned_run {s : State} {h : Word} {x : IxObj} (hx : s.readableObject h = some x) (ho : x.owner = s.hart.domain) :
    needOwned h s = .ok x s := by
  show EStateM.bind (needReadable h) _ s = _
  simp only [EStateM.bind, needReadable_run hx]
  show EStateM.bind (check (x.owner == s.hart.domain) .ixowner h) (fun _ => pure x) s = _
  simp only [EStateM.bind, ho, beq_self_eq_true, check]
  rfl

theorem needCopy_run {s : State} {h : Word} {c : Copy} (hc : copyOf s h = some c) : needCopy h s = .ok c s := by
  show (match copyOf s h with
    | some c => pure c
    | none => trap .chan h : M Copy) s = _
  rw [hc]
  rfl

theorem check_true (c : Cause) (v : Word) (s : State) : check true c v s = .ok () s := rfl
theorem check_false (c : Cause) (v : Word) (s : State) : check false c v s = .error (.trap c v 0) s := rfl

end Sys2Proof.Machine
end

