-- ==== Sys2Proof/Laws/Memory.lean ====
section
/-! SUPPORT. The laws of memory: what a read gives after a write, and that every operation keeps the canonical form. -/

set_option Elab.async false

namespace Sys2Proof.Machine

/-! ## Canonical form as a lower bound and a rest -/

/-- Every address of the cells is at least b. -/
def Above (b : Nat) (m : Memory) : Prop := ∀ c ∈ m, b ≤ c.1

theorem cellsWf_cons (c : Host.Cell) (m : Memory) :
    cellsWf (c :: m) = true ↔ c.2 ≠ 0 ∧ Above (c.1 + 1) m ∧ cellsWf m = true := by
  induction m generalizing c with
  | nil => simp [cellsWf, Above]
  | cons d rest ih =>
    simp only [cellsWf, Bool.and_eq_true, bne_iff_ne, ne_eq, decide_eq_true_eq, Above, List.mem_cons, forall_eq_or_imp]
    constructor
    · rintro ⟨⟨h0, h1⟩, h2⟩
      have h3 := (ih d).1 h2
      exact ⟨h0, ⟨by omega, fun e he => by have := h3.2.1 e he; omega⟩, h2⟩
    · rintro ⟨h0, ⟨h1, -⟩, h2⟩
      exact ⟨⟨h0, by omega⟩, h2⟩

theorem wf_nil : Memory.wf [] = true := rfl

theorem wf_cons (c : Host.Cell) (m : Memory) :
    Memory.wf (c :: m) = true ↔ c.2 ≠ 0 ∧ Above (c.1 + 1) m ∧ Memory.wf m = true := cellsWf_cons c m

theorem Above.mono {a b : Nat} {m : Memory} (h : Above b m) (hab : a ≤ b) : Above a m := fun c hc => Nat.le_trans hab (h c hc)

/-! ## One byte -/

theorem set_above {m : Memory} {b k : Nat} (v : Byte) (hm : Above b m) (hk : b ≤ k) : Above b (m.set k v) := by
  induction m with
  | nil => unfold Memory.set; split <;> simp [Above, hk]
  | cons c rest ih =>
    have hr : Above b rest := fun d hd => hm d (by simp [hd])
    have hc : b ≤ c.1 := hm c (by simp)
    have hi := ih hr
    unfold Memory.set
    repeat' split
    all_goals intro d hd
    · exact hm d hd
    · rcases List.mem_cons.1 hd with rfl | hd
      · exact hk
      · exact hm d hd
    · exact hr d hd
    · rcases List.mem_cons.1 hd with rfl | hd
      · exact hk
      · exact hr d hd
    · rcases List.mem_cons.1 hd with rfl | hd
      · exact hc
      · exact hi d hd

/-- A write of one byte keeps the canonical form. -/
theorem set_wf {m : Memory} (k : Nat) (v : Byte) (h : m.wf = true) : (m.set k v).wf = true := by
  induction m with
  | nil => unfold Memory.set; split <;> simp_all [Memory.wf, cellsWf]
  | cons c rest ih =>
    obtain ⟨h0, h1, h2⟩ := (wf_cons c rest).1 h
    unfold Memory.set
    repeat' split
    · exact h
    · refine (wf_cons _ _).2 ⟨‹_›, ?_, h⟩
      intro d hd
      rcases List.mem_cons.1 hd with rfl | hd
      · simp only; omega
      · have := h1 d hd; simp only; omega
    · exact h2
    · refine (wf_cons _ _).2 ⟨‹_›, ?_, h2⟩
      intro d hd
      have := h1 d hd
      simp only; omega
    · exact (wf_cons _ _).2 ⟨h0, set_above v h1 (by omega), ih h2⟩

theorem get_above {m : Memory} {b k : Nat} (hm : Above b m) (hk : k < b) : m.get k = 0 := by
  induction m with
  | nil => rfl
  | cons c rest ih =>
    have hc : b ≤ c.1 := hm c (by simp)
    have hr : Above b rest := fun d hd => hm d (by simp [hd])
    simp only [Memory.get, if_neg (show c.1 ≠ k by omega)]
    exact ih hr

/-- A read after a write of one byte. -/
theorem get_set {m : Memory} (h : m.wf = true) (k j : Nat) (v : Byte) :
    (m.set k v).get j = if j = k then v else m.get j := by
  induction m with
  | nil =>
    unfold Memory.set
    by_cases hj : j = k
    · subst hj; split <;> simp_all [Memory.get]
    · split <;> simp [Memory.get, Ne.symm hj]
  | cons c rest ih =>
    obtain ⟨h0, h1, h2⟩ := (wf_cons c rest).1 h
    unfold Memory.set
    split
    · rename_i hk
      split
      · subst v
        split
        · subst j
          exact get_above (b := c.1) (fun d hd => by
            rcases List.mem_cons.1 hd with rfl | hd
            · exact Nat.le_refl _
            · have := h1 d hd; omega) hk
        · rfl
      · show (if k = j then v else Memory.get (c :: rest) j) = _
        by_cases hj : j = k
        · simp [hj]
        · simp [hj, Ne.symm hj]
    · split
      · rename_i hk
        subst hk
        split
        · subst v
          split
          · subst j; exact get_above h1 (by omega)
          · rename_i hj; simp only [Memory.get, if_neg (Ne.symm hj)]
        · by_cases hj : j = c.1
          · subst hj; simp [Memory.get]
          · simp [Memory.get, Ne.symm hj, hj]
      · rename_i hk hk'
        simp only [Memory.get]
        split
        · rename_i hj; subst hj; simp [Ne.symm hk']
        · exact ih h2

/-! ## Several bytes -/

theorem write_wf {m : Memory} (k : Nat) (bs : List Byte) (h : m.wf = true) : (m.write k bs).wf = true := by
  induction bs generalizing m k with
  | nil => exact h
  | cons b rest ih => exact ih (k + 1) (set_wf k b h)

/-- A byte read after a write of bytes from k up. -/
theorem get_write {m : Memory} (h : m.wf = true) (k : Nat) (bs : List Byte) (j : Nat) :
    (m.write k bs).get j = if k ≤ j ∧ j < k + bs.length then bs.getD (j - k) 0 else m.get j := by
  induction bs generalizing m k with
  | nil =>
    have : ¬(k ≤ j ∧ j < k + ([] : List Byte).length) := by simp
    rw [if_neg this]; rfl
  | cons b rest ih =>
    rw [Memory.write, ih (set_wf k b h), get_set h]
    by_cases h1 : k + 1 ≤ j ∧ j < k + 1 + rest.length
    · have h2 : k ≤ j ∧ j < k + (b :: rest).length := by simp only [List.length_cons]; omega
      rw [if_pos h1, if_pos h2, show j - k = (j - (k + 1)) + 1 by omega, List.getD_cons_succ]
    · rw [if_neg h1]
      by_cases h2 : j = k
      · subst h2; simp
      · have h3 : ¬(k ≤ j ∧ j < k + (b :: rest).length) := by simp only [List.length_cons]; omega
        rw [if_neg h2, if_neg h3]

/-- A write leaves every byte outside it alone. -/
theorem get_write_outside {m : Memory} (h : m.wf = true) {k : Nat} {bs : List Byte} {j : Nat}
    (hj : j < k ∨ k + bs.length ≤ j) : (m.write k bs).get j = m.get j := by
  rw [get_write h, if_neg (by omega)]

theorem filter_above {m : Memory} {b : Nat} (p : Host.Cell → Bool) (h : Above b m) : Above b (m.filter p) :=
  fun c hc => h c (List.mem_filter.1 hc).1

theorem filter_wf {m : Memory} (p : Host.Cell → Bool) (h : m.wf = true) : Memory.wf (m.filter p) = true := by
  induction m with
  | nil => rfl
  | cons c rest ih =>
    obtain ⟨h0, h1, h2⟩ := (wf_cons c rest).1 h
    rw [List.filter_cons]
    split
    · exact (wf_cons _ _).2 ⟨h0, filter_above p h1, ih h2⟩
    · exact ih h2

theorem clear_wf {m : Memory} (k n : Nat) (h : m.wf = true) : (m.clear k n).wf = true := filter_wf _ h

/-- A byte read after n bytes from k up have been cleared. -/
theorem get_clear (m : Memory) (k n j : Nat) : (m.clear k n).get j = if k ≤ j ∧ j < k + n then 0 else m.get j := by
  induction m with
  | nil => simp [Memory.clear, Memory.get]
  | cons c rest ih =>
    simp only [Memory.clear] at ih
    simp only [Memory.clear, List.filter_cons, decide_eq_true_eq]
    by_cases hc : c.1 < k ∨ k + n ≤ c.1
    · rw [if_pos hc]
      simp only [Memory.get]
      by_cases hj : c.1 = j
      · have : ¬(k ≤ j ∧ j < k + n) := by omega
        simp [hj, this]
      · simp only [if_neg hj]; exact ih
    · rw [if_neg hc, ih]
      by_cases hr : k ≤ j ∧ j < k + n
      · simp [hr]
      · have : c.1 ≠ j := by omega
        simp [hr, Memory.get, this]

/-! ## Numbers -/

@[simp] theorem leBytes_length (n v : Nat) : (leBytes n v).length = n := by
  induction n generalizing v with
  | zero => rfl
  | succ n ih => simp [leBytes, ih]

/-- Little-endian bytes read back as the number they came from, modulo their width (R35). -/
theorem leNat_leBytes (n v : Nat) : leNat (leBytes n v) = v % 2 ^ (8 * n) := by
  induction n generalizing v with
  | zero => simp [leBytes, leNat, Nat.mod_one]
  | succ n ih =>
    have e : 2 ^ (8 * (n + 1)) = 256 * 2 ^ (8 * n) := by rw [Nat.mul_succ, Nat.add_comm, Nat.pow_add]
    simp only [leBytes, leNat, BitVec.toNat_ofNat, ih]
    rw [e, Nat.mod_mul]

theorem read_length (m : Memory) (k n : Nat) : (m.read k n).length = n := by simp [Memory.read]

/-- The bytes written read back. -/
theorem read_write {m : Memory} (h : m.wf = true) (k : Nat) (bs : List Byte) : (m.write k bs).read k bs.length = bs := by
  apply List.ext_getElem
  · simp [Memory.read]
  · intro i h1 h2
    simp only [Memory.read, List.getElem_map, List.getElem_range]
    rw [get_write h, if_pos (by omega), Nat.add_sub_cancel_left]
    simp [List.getD, h2]

end Sys2Proof.Machine
end

