-- ==== Sys2Proof/Laws/MemFrame.lean ====
section
/-! SUPPORT. The operations that leave memory as it was. -/

set_option Elab.async false
set_option linter.all false

namespace Sys2Proof.Machine

/-- A fold of steps that leave memory leaves memory. -/
theorem foldl_mem {α : Type} {f : State → α → State} (hf : ∀ s x, (f s x).mem = s.mem) (l : List α) (s : State) :
    (l.foldl f s).mem = s.mem := by
  induction l generalizing s with
  | nil => rfl
  | cons x xs ih => rw [List.foldl_cons, ih, hf]

/-! ## Parts of the state -/

@[simp] theorem modHartOf_mem (s : State) (p : PartId) (id : Nat) (f : Hart → Hart) : (s.modHartOf p id f).mem = s.mem := rfl

theorem focusPart_mem {s t : State} {p : PartId} (h : s.focusPart p = some t) : t.mem = s.mem := by
  unfold State.focusPart at h
  repeat' split at h
  all_goals simp_all only [Option.some.injEq, reduceCtorEq]
  all_goals subst h; rfl

theorem focusHart_mem {s t : State} {p : PartId} {id : Nat} (h : s.focusHart p id = some t) : t.mem = s.mem := by
  unfold State.focusHart at h
  repeat' split at h
  · cases h; rfl
  · rename_i hp
    cases h
    exact (focusPart_mem hp :)
  · cases h

@[simp] theorem refocus_mem (s : State) (p : PartId) (id : Nat) : (s.refocus p id).mem = s.mem := by
  unfold State.refocus
  split
  · exact focusHart_mem ‹_›
  · rfl

/-! ## Queues and packets -/

@[simp] theorem sendWrite_mem (s : State) (f : Origin) (die key : Nat) (bs : List Byte) : (s.sendWrite f die key bs).mem = s.mem := by
  unfold State.sendWrite
  exact foldl_mem (by intros; rfl) _ _

@[simp] theorem hartWrite_mem (s : State) (key : Nat) (bs : List Byte) : (s.hartWrite key bs).mem = s.mem := by
  unfold State.hartWrite
  exact foldl_mem (by intros; rfl) _ _

@[simp] theorem request_mem (s : State) (f : Origin) (die k kind len : Nat) (bs : List Byte) : (s.request f die k kind len bs).mem = s.mem := rfl

/-! ## The arbiter -/

@[simp] theorem freeTags_mem (s : State) (bs : List (Nat × Nat)) (tag : Nat) : (s.freeTags bs tag).mem = s.mem :=
  foldl_mem (by intro s b; split <;> rfl) _ _

@[simp] theorem tagGrant_mem (s : State) : s.tagGrant.mem = s.mem := foldl_mem (by intros; rfl) _ _

@[simp] theorem serveHart_mem (hall share : Nat) (s : State) (h : Hart) : (serveHart hall share s h).mem = s.mem := by
  unfold serveHart; split <;> rfl

@[simp] theorem serveGang_mem (hall share : Nat) (p : PartId) (key : Nat) (s : State) : (serveGang hall share p key s).mem = s.mem := by
  unfold serveGang; dsimp only
  split
  · exact (foldl_mem (by intros; rfl) _ _).trans (foldl_mem (fun _ _ => serveHart_mem ..) _ _)
  · exact foldl_mem (fun _ _ => serveHart_mem ..) _ _

@[simp] theorem handOut_mem (hall : Nat) (s : State) : (handOut hall s).mem = s.mem :=
  foldl_mem (fun _ _ => serveGang_mem ..) _ _

@[simp] theorem takeOff_mem (p : PartId) (id : Nat) (why : Off) (s : State) : (takeOff p id why s).mem = s.mem := by
  unfold takeOff; dsimp only
  split
  · rfl
  · rfl
  · exact freeTags_mem ..

@[simp] theorem requestOff_mem (why : Off) (h : Hart) (s : State) : (requestOff why h s).mem = s.mem := by
  unfold requestOff; dsimp only
  generalize h.status = st
  cases st with
  | waiting w =>
    cases w
    case acks =>
      dsimp only
      split
      · exact takeOff_mem ..
      · rfl
    all_goals first | rfl | exact takeOff_mem ..
  | off w =>
    dsimp only
    split
    · exact takeOff_mem ..
    · rfl
  | held => exact takeOff_mem ..
  | _ => rfl

@[simp] theorem fillSlots_mem (hall n : Nat) (s : State) : (fillSlots hall n s).mem = s.mem := by
  induction n generalizing s with
  | zero => rfl
  | succ n ih => unfold fillSlots; split <;> simp [ih]

@[simp] theorem yieldHall_mem (hall : Nat) (s : State) : (yieldHall hall s).mem = s.mem := by simp [yieldHall]

@[simp] theorem yieldHalls_mem (halls : List Nat) (s : State) : (yieldHalls halls s).mem = s.mem :=
  foldl_mem (fun _ _ => yieldHall_mem ..) _ _

@[simp] theorem takeAway_mem (why : Off) (h : Hart) (s : State) : (takeAway why h s).mem = s.mem :=
  (yieldHalls_mem ..).trans (takeOff_mem ..)

@[simp] theorem applyTarget_mem (hall share : Nat) (s : State) (h : Hart) : (applyTarget hall share s h).mem = s.mem := by
  unfold applyTarget
  split <;> dsimp only <;> split <;> simp

@[simp] theorem arbitrateOnce_mem (hall : Nat) (s : State) : (arbitrateOnce hall s).mem = s.mem := by
  unfold arbitrateOnce
  rw [yieldHall_mem]
  exact foldl_mem (fun _ _ => foldl_mem (fun _ _ => applyTarget_mem ..) _ _) _ _

@[simp] theorem releaseTasks_mem (p : PartId) (handle : Slot) (s : State) : (releaseTasks p handle s).mem = s.mem := rfl




/-! ## Launches -/

@[simp] theorem answerFnext_mem (id : Nat) (v : Word) (s : State) : (answerFnext id v s).mem = s.mem := rfl

@[simp] theorem dismissFnext_mem (l : Launch) (s : State) : (dismissFnext l s).mem = s.mem := by
  unfold dismissFnext
  rw [State.modLaunch_mem]
  exact foldl_mem (by intros; rfl) _ _

@[simp] theorem freeLaunch_mem (l : Launch) (s : State) : (freeLaunch l s).mem = s.mem := rfl

@[simp] theorem tryFree_mem (handle : Slot) (s : State) : (tryFree handle s).mem = s.mem := by
  unfold tryFree; repeat' split
  all_goals simp

/-! ## Harts -/

@[simp] theorem wakeGang_mem (p : PartId) (g : Nat) (s : State) : (wakeGang p g s).mem = s.mem := rfl
@[simp] theorem leaveGang_mem (s : State) : (leaveGang s).mem = s.mem := rfl
@[simp] theorem freeCopies_mem (n : Nat) (s : State) : (freeCopies n s).mem = s.mem := rfl
@[simp] theorem awaitRemote_mem (k n : Nat) (s : State) : (awaitRemote k n s).mem = s.mem := rfl

@[simp] theorem afterCommit_mem (r : Bool) (s : State) : (afterCommit r s).1.mem = s.mem := by
  unfold afterCommit
  repeat' split
  all_goals simp

@[simp] theorem sendAtomic_mem (op n : Nat) (loc : Loc) (rd : XReg) (c a : Word) (s : State) :
    (sendAtomic op n loc rd c a s).mem = s.mem := rfl

@[simp] theorem invalidate_mem (k : BitVec 5) (a : Word) (s : State) : (invalidate k a s).mem = s.mem := rfl

@[simp] theorem afterSave_mem (id : Nat) (s : State) : (afterSave id s).mem = s.mem := by simp [afterSave]


@[simp] theorem writePool_mem (f : Partition → Partition) (s : State) : (writePool f s).mem = s.mem := by
  unfold writePool; split <;> simp


@[simp] theorem phaseShare_mem (s : State) : (phaseShare s).2.mem = s.mem := by
  unfold phaseShare; dsimp only
  repeat' split
  all_goals simp

@[simp] theorem fitHall_mem (hall n : Nat) (s : State) : (fitHall hall n s).mem = s.mem := by
  unfold fitHall; simp

@[simp] theorem takeGrant_mem (s : State) : (takeGrant s).1.mem = s.mem := by
  unfold takeGrant; dsimp only
  repeat' split
  · simp
  · exact (foldl_mem (fun _ _ => fitHall_mem ..) _ _).trans ((foldl_mem (fun _ _ => fitHall_mem ..) _ _).trans (by simp))
  · simp

@[simp] theorem settleGrant_mem (s : State) : (settleGrant s).mem = s.mem := by
  unfold settleGrant; simp

@[simp] theorem joinGang_mem (id hall : Nat) (r : SpawnRec) (s : State) : (joinGang id hall r s).mem = s.mem := by
  unfold joinGang
  repeat' split
  all_goals rfl


/-! ## Engines -/

@[simp] theorem releaseCopy_mem (c : Copy) (s : State) : (releaseCopy c s).mem = s.mem := rfl
@[simp] theorem setChunkBit_mem (c : Copy) (e : Nat) (s : State) : (setChunkBit c e s).mem = s.mem := rfl
@[simp] theorem wakeAll_mem (w : Wait) (s : State) : (wakeAll w s).mem = s.mem := rfl
@[simp] theorem unlink_mem (h : Slot) (s : State) : (unlink h s).mem = s.mem := rfl
@[simp] theorem dropObject_mem (x : IxObj) (s : State) : (dropObject x s).mem = s.mem := rfl


@[simp] theorem fnext_mem (rd : XReg) (l : Launch) (t : Task) (s : State) : (fnext rd l t s).mem = s.mem := by
  unfold fnext
  repeat' split
  all_goals simp


@[simp] theorem startSave_mem (b : Nat) (l : Launch) (s : State) : (startSave b l s).mem = s.mem := by
  unfold startSave; dsimp only
  exact (foldl_mem (fun _ _ => yieldHall_mem ..) _ _).trans ((foldl_mem (fun _ _ => requestOff_mem ..) _ _).trans (by simp))

@[simp] theorem serveNext_mem (l : Launch) (s : State) : (serveNext l s).mem = s.mem := by
  unfold serveNext
  repeat' split
  all_goals simp

/-! ## The fabric and the management plane -/

@[simp] theorem respond_mem (p : Packet) (kind len : Nat) (payload : List Byte) (s : State) :
    (respond p kind len payload s).mem = s.mem := rfl

@[simp] theorem stopJob_mem (j : Job) (s : State) : (stopJob j s).mem = s.mem := by
  unfold stopJob; dsimp only
  exact foldl_mem (by intros; rfl) _ _

@[simp] theorem wakeJob_mem (s : State) : (wakeJob s).mem = s.mem := rfl




@[simp] theorem shrinkOne_mem (s : State) (h : Hart) : (shrinkOne s h).mem = s.mem := by
  unfold shrinkOne; split <;> rfl
@[simp] theorem wake_mem (s : State) : s.wake.mem = s.mem := rfl
@[simp] theorem sendOut_mem (r : PortRef) (p : Packet) (s : State) : (sendOut r p s).mem = s.mem := by
  unfold sendOut; split <;> rfl
@[simp] theorem setPhase_mem (a b : Nat) (s : State) : (setPhase a b s).mem = s.mem := rfl
@[simp] theorem setBit_mem (a : Nat) (b : Bool) (s : State) : (setBit a b s).mem = s.mem := rfl
@[simp] theorem extend_mem (i : Fin 4) (d : List Byte) (s : State) : (extend i d s).mem = s.mem := rfl
@[simp] theorem measureTable_mem (s : State) : (measureTable s).mem = s.mem := rfl
@[simp] theorem reply_mem (p : BitVec 16) (b : Byte) (s : State) : (reply p b s).mem = s.mem := rfl
@[simp] theorem dropPart_mem (p : PartId) (s : State) : (dropPart p s).mem = s.mem := rfl
@[simp] theorem moveHall_mem (a b : Nat) (s : State) : (moveHall a b s).mem = s.mem := rfl
@[simp] theorem drainHart_mem (s : State) (h : Hart) : (drainHart s h).mem = s.mem := by
  unfold drainHart
  split
  · rfl
  · rfl
  · exact (takeOff_mem ..).trans rfl
@[simp] theorem failDevice_mem (c : Nat) (s : State) : (failDevice c s).mem = s.mem := by
  unfold failDevice; dsimp only; split <;> rfl
@[simp] theorem afterReset_mem (s : State) : (afterReset s).mem = [] := rfl

/-! ## Time -/

@[simp] theorem charge_mem (s : State) : s.charge.mem = s.mem := by
  unfold State.charge; dsimp only
  split <;> rfl

/-! ## The same, said of the canonical form -/

@[simp] theorem modHartOf_memOk (s : State) (p : PartId) (id : Nat) (f : Hart → Hart) :
    (s.modHartOf p id f).MemOk ↔ s.MemOk := by simp [State.MemOk]
@[simp] theorem refocus_memOk (s : State) (p : PartId) (id : Nat) : (s.refocus p id).MemOk ↔ s.MemOk := by simp [State.MemOk]
@[simp] theorem sendWrite_memOk (s : State) (f : Origin) (die key : Nat) (bs : List Byte) :
    (s.sendWrite f die key bs).MemOk ↔ s.MemOk := by simp [State.MemOk]
@[simp] theorem freeTags_memOk (s : State) (bs : List (Nat × Nat)) (tag : Nat) :
    (s.freeTags bs tag).MemOk ↔ s.MemOk := by simp [State.MemOk]
@[simp] theorem tagGrant_memOk (s : State) : s.tagGrant.MemOk ↔ s.MemOk := by simp [State.MemOk]
@[simp] theorem serveHart_memOk (hall share : Nat) (s : State) (h : Hart) :
    (serveHart hall share s h).MemOk ↔ s.MemOk := by simp [State.MemOk]
@[simp] theorem handOut_memOk (hall : Nat) (s : State) : (handOut hall s).MemOk ↔ s.MemOk := by simp [State.MemOk]
@[simp] theorem takeOff_memOk (p : PartId) (id : Nat) (why : Off) (s : State) :
    (takeOff p id why s).MemOk ↔ s.MemOk := by simp [State.MemOk]
@[simp] theorem requestOff_memOk (why : Off) (h : Hart) (s : State) :
    (requestOff why h s).MemOk ↔ s.MemOk := by simp [State.MemOk]
@[simp] theorem fillSlots_memOk (hall n : Nat) (s : State) : (fillSlots hall n s).MemOk ↔ s.MemOk := by simp [State.MemOk]
@[simp] theorem yieldHall_memOk (hall : Nat) (s : State) : (yieldHall hall s).MemOk ↔ s.MemOk := by simp [State.MemOk]
@[simp] theorem serveGang_memOk (hall share : Nat) (p : PartId) (key : Nat) (s : State) :
    (serveGang hall share p key s).MemOk ↔ s.MemOk := by simp [State.MemOk]
@[simp] theorem yieldHalls_memOk (halls : List Nat) (s : State) : (yieldHalls halls s).MemOk ↔ s.MemOk := by simp [State.MemOk]
@[simp] theorem takeAway_memOk (why : Off) (h : Hart) (s : State) : (takeAway why h s).MemOk ↔ s.MemOk := by simp [State.MemOk]
@[simp] theorem hartWrite_memOk (s : State) (key : Nat) (bs : List Byte) :
    (s.hartWrite key bs).MemOk ↔ s.MemOk := by simp [State.MemOk]
@[simp] theorem applyTarget_memOk (hall share : Nat) (s : State) (h : Hart) :
    (applyTarget hall share s h).MemOk ↔ s.MemOk := by simp [State.MemOk]
@[simp] theorem arbitrateOnce_memOk (hall : Nat) (s : State) :
    (arbitrateOnce hall s).MemOk ↔ s.MemOk := by simp [State.MemOk]
@[simp] theorem releaseTasks_memOk (p : PartId) (handle : Slot) (s : State) :
    (releaseTasks p handle s).MemOk ↔ s.MemOk := by simp [State.MemOk]
@[simp] theorem answerFnext_memOk (id : Nat) (v : Word) (s : State) :
    (answerFnext id v s).MemOk ↔ s.MemOk := by simp [State.MemOk]
@[simp] theorem dismissFnext_memOk (l : Launch) (s : State) : (dismissFnext l s).MemOk ↔ s.MemOk := by simp [State.MemOk]
@[simp] theorem freeLaunch_memOk (l : Launch) (s : State) : (freeLaunch l s).MemOk ↔ s.MemOk := by simp [State.MemOk]
@[simp] theorem tryFree_memOk (handle : Slot) (s : State) : (tryFree handle s).MemOk ↔ s.MemOk := by simp [State.MemOk]
@[simp] theorem wakeGang_memOk (p : PartId) (g : Nat) (s : State) : (wakeGang p g s).MemOk ↔ s.MemOk := by simp [State.MemOk]
@[simp] theorem leaveGang_memOk (s : State) : (leaveGang s).MemOk ↔ s.MemOk := by simp [State.MemOk]
@[simp] theorem freeCopies_memOk (n : Nat) (s : State) : (freeCopies n s).MemOk ↔ s.MemOk := by simp [State.MemOk]
@[simp] theorem awaitRemote_memOk (k n : Nat) (s : State) : (awaitRemote k n s).MemOk ↔ s.MemOk := by simp [State.MemOk]
@[simp] theorem afterCommit_memOk (r : Bool) (s : State) : (afterCommit r s).1.MemOk ↔ s.MemOk := by simp [State.MemOk]
@[simp] theorem sendAtomic_memOk (op n : Nat) (loc : Loc) (rd : XReg) (c a : Word) (s : State) :
    (sendAtomic op n loc rd c a s).MemOk ↔ s.MemOk := by simp [State.MemOk]
@[simp] theorem invalidate_memOk (k : BitVec 5) (a : Word) (s : State) :
    (invalidate k a s).MemOk ↔ s.MemOk := by simp [State.MemOk]
@[simp] theorem afterSave_memOk (id : Nat) (s : State) : (afterSave id s).MemOk ↔ s.MemOk := by simp [State.MemOk]
@[simp] theorem writePool_memOk (f : Partition → Partition) (s : State) :
    (writePool f s).MemOk ↔ s.MemOk := by simp [State.MemOk]
@[simp] theorem phaseShare_memOk (s : State) : (phaseShare s).2.MemOk ↔ s.MemOk := by simp [State.MemOk]
@[simp] theorem fitHall_memOk (hall n : Nat) (s : State) : (fitHall hall n s).MemOk ↔ s.MemOk := by simp [State.MemOk]
@[simp] theorem takeGrant_memOk (s : State) : (takeGrant s).1.MemOk ↔ s.MemOk := by simp [State.MemOk]
@[simp] theorem settleGrant_memOk (s : State) : (settleGrant s).MemOk ↔ s.MemOk := by simp [State.MemOk]
@[simp] theorem joinGang_memOk (id hall : Nat) (r : SpawnRec) (s : State) :
    (joinGang id hall r s).MemOk ↔ s.MemOk := by simp [State.MemOk]
@[simp] theorem releaseCopy_memOk (c : Copy) (s : State) : (releaseCopy c s).MemOk ↔ s.MemOk := by simp [State.MemOk]
@[simp] theorem setChunkBit_memOk (c : Copy) (e : Nat) (s : State) :
    (setChunkBit c e s).MemOk ↔ s.MemOk := by simp [State.MemOk]
@[simp] theorem wakeAll_memOk (w : Wait) (s : State) : (wakeAll w s).MemOk ↔ s.MemOk := by simp [State.MemOk]
@[simp] theorem unlink_memOk (h : Slot) (s : State) : (unlink h s).MemOk ↔ s.MemOk := by simp [State.MemOk]
@[simp] theorem dropObject_memOk (x : IxObj) (s : State) : (dropObject x s).MemOk ↔ s.MemOk := by simp [State.MemOk]
@[simp] theorem fnext_memOk (rd : XReg) (l : Launch) (t : Task) (s : State) :
    (fnext rd l t s).MemOk ↔ s.MemOk := by simp [State.MemOk]
@[simp] theorem startSave_memOk (b : Nat) (l : Launch) (s : State) :
    (startSave b l s).MemOk ↔ s.MemOk := by simp [State.MemOk]
@[simp] theorem serveNext_memOk (l : Launch) (s : State) : (serveNext l s).MemOk ↔ s.MemOk := by simp [State.MemOk]
@[simp] theorem respond_memOk (p : Packet) (kind len : Nat) (payload : List Byte) (s : State) :
    (respond p kind len payload s).MemOk ↔ s.MemOk := by simp [State.MemOk]
@[simp] theorem stopJob_memOk (j : Job) (s : State) : (stopJob j s).MemOk ↔ s.MemOk := by simp [State.MemOk]
@[simp] theorem wakeJob_memOk (s : State) : (wakeJob s).MemOk ↔ s.MemOk := by simp [State.MemOk]
@[simp] theorem shrinkOne_memOk (s : State) (h : Hart) : (shrinkOne s h).MemOk ↔ s.MemOk := by simp [State.MemOk]
@[simp] theorem wake_memOk (s : State) : s.wake.MemOk ↔ s.MemOk := by simp [State.MemOk]
@[simp] theorem sendOut_memOk (r : PortRef) (p : Packet) (s : State) :
    (sendOut r p s).MemOk ↔ s.MemOk := by simp [State.MemOk]
@[simp] theorem setPhase_memOk (a b : Nat) (s : State) : (setPhase a b s).MemOk ↔ s.MemOk := by simp [State.MemOk]
@[simp] theorem setBit_memOk (a : Nat) (b : Bool) (s : State) : (setBit a b s).MemOk ↔ s.MemOk := by simp [State.MemOk]
@[simp] theorem extend_memOk (i : Fin 4) (d : List Byte) (s : State) :
    (extend i d s).MemOk ↔ s.MemOk := by simp [State.MemOk]
@[simp] theorem measureTable_memOk (s : State) : (measureTable s).MemOk ↔ s.MemOk := by simp [State.MemOk]
@[simp] theorem reply_memOk (p : BitVec 16) (b : Byte) (s : State) : (reply p b s).MemOk ↔ s.MemOk := by simp [State.MemOk]
@[simp] theorem dropPart_memOk (p : PartId) (s : State) : (dropPart p s).MemOk ↔ s.MemOk := by simp [State.MemOk]
@[simp] theorem moveHall_memOk (a b : Nat) (s : State) : (moveHall a b s).MemOk ↔ s.MemOk := by simp [State.MemOk]
@[simp] theorem drainHart_memOk (s : State) (h : Hart) : (drainHart s h).MemOk ↔ s.MemOk := by simp [State.MemOk]
@[simp] theorem failDevice_memOk (c : Nat) (s : State) : (failDevice c s).MemOk ↔ s.MemOk := by simp [State.MemOk]
@[simp] theorem charge_memOk (s : State) : s.charge.MemOk ↔ s.MemOk := by simp [State.MemOk]

end Sys2Proof.Machine
end

