-- ==== Sys2Proof/Laws/MemOk.lean ====
section
/-! SUPPORT. Every operation keeps the canonical form of memory: what the shared operations do, and the rules by which an instruction
keeps it. -/

set_option Elab.async false
set_option linter.all false

namespace Sys2Proof.Machine

/-- What leaves memory alone keeps the form. -/
theorem ok_of_mem {s t : State} (h : s.MemOk) (e : t.mem = s.mem) : t.MemOk := by
  unfold State.MemOk; rw [e]; exact h

theorem ok_foldl {α : Type} {f : State → α → State} (hf : ∀ s x, s.MemOk → (f s x).MemOk) (l : List α) {s : State}
    (h : s.MemOk) : (l.foldl f s).MemOk := by
  induction l generalizing s with
  | nil => exact h
  | cons x xs ih => exact ih (hf s x h)

@[simp] theorem modHart_ok (s : State) (f : Hart → Hart) : (s.modHart f).MemOk ↔ s.MemOk := Iff.rfl
@[simp] theorem modLive_ok (s : State) (f : Strip → Strip) : (s.modLive f).MemOk ↔ s.MemOk := Iff.rfl
@[simp] theorem modPart_ok (s : State) (f : Partition → Partition) : (s.modPart f).MemOk ↔ s.MemOk := Iff.rfl
@[simp] theorem modDev_ok (s : State) (f : Device → Device) : (s.modDev f).MemOk ↔ s.MemOk := Iff.rfl
@[simp] theorem mapHarts_ok (s : State) (f : Hart → Hart) : (s.mapHarts f).MemOk ↔ s.MemOk := Iff.rfl
@[simp] theorem modHartOf_ok (s : State) (p : PartId) (i : Nat) (f : Hart → Hart) : (s.modHartOf p i f).MemOk ↔ s.MemOk := Iff.rfl
@[simp] theorem modGang_ok (s : State) (i : Nat) (f : Gang → Gang) : (s.modGang i f).MemOk ↔ s.MemOk := Iff.rfl
@[simp] theorem modLaunch_ok (s : State) (x : Slot) (f : Launch → Launch) : (s.modLaunch x f).MemOk ↔ s.MemOk := Iff.rfl
@[simp] theorem setLaunch_ok (s : State) (l : Launch) : (s.setLaunch l).MemOk ↔ s.MemOk := Iff.rfl
@[simp] theorem setCopy_ok (s : State) (c : Copy) : (s.setCopy c).MemOk ↔ s.MemOk := Iff.rfl
@[simp] theorem setObject_ok (s : State) (c : IxObj) : (s.setObject c).MemOk ↔ s.MemOk := Iff.rfl
@[simp] theorem setCursor_ok (s : State) (c : Cursor) : (s.setCursor c).MemOk ↔ s.MemOk := Iff.rfl
@[simp] theorem setJob_ok (s : State) (c : Job) : (s.setJob c).MemOk ↔ s.MemOk := Iff.rfl
@[simp] theorem setX_ok (s : State) (r : XReg) (v : Word) : (s.setX r v).MemOk ↔ s.MemOk := Iff.rfl
@[simp] theorem put_ok (s : State) (r : XReg) (v : Word) (n : Nat) : (s.put r v n).MemOk ↔ s.MemOk := Iff.rfl
@[simp] theorem advance_ok (s : State) (n : Nat) : (s.advance n).MemOk ↔ s.MemOk := Iff.rfl
@[simp] theorem goto_ok (s : State) (p : Word) : (s.goto p).MemOk ↔ s.MemOk := Iff.rfl
@[simp] theorem complete_ok (s : State) : s.complete.MemOk ↔ s.MemOk := Iff.rfl
@[simp] theorem finish_ok (s : State) (r : XReg) (v : Word) : (s.finish r v).MemOk ↔ s.MemOk := Iff.rfl
@[simp] theorem await_ok (s : State) (w : Wait) : (s.await w).MemOk ↔ s.MemOk := Iff.rfl
@[simp] theorem tick_ok (s : State) : s.tick.MemOk ↔ s.MemOk := Iff.rfl
@[simp] theorem noteUncor_ok (s : State) : s.noteUncor.MemOk ↔ s.MemOk := Iff.rfl

/-! ## The operations that write memory -/

@[simp] theorem poke_ok {s : State} (k : Nat) (bs : List Byte) (h : s.MemOk) : (s.poke k bs).MemOk := write_wf k bs h
@[simp] theorem wipe_ok {s : State} (k n : Nat) (h : s.MemOk) : (s.wipe k n).MemOk := clear_wf k n h
@[simp] theorem pokeNat_ok {s : State} (k n v : Nat) (h : s.MemOk) : (s.pokeNat k n v).MemOk := write_wf _ _ h
@[simp] theorem pokeWord_ok {s : State} (k : Nat) (v : Word) (h : s.MemOk) : (s.pokeWord k v).MemOk := write_wf _ _ h
@[simp] theorem orWord_ok {s : State} (k : Nat) (v : Word) (h : s.MemOk) : (s.orWord k v).MemOk := by
  unfold State.orWord
  split
  · exact h
  · exact pokeWord_ok _ _ h

@[simp] theorem markLeaf_ok {s : State} (k : Nat) (v : Word) (h : s.MemOk) : (s.markLeaf k v).MemOk := by
  unfold State.markLeaf
  rw [modDev_ok]
  split
  · exact h
  · exact orWord_ok _ _ h

theorem visit_ok {s t : State} {f : State → State} (h : s.MemOk) (hf : (f t).MemOk) : (s.visit t f).MemOk := by
  unfold State.visit; dsimp only
  split
  · exact h
  · exact ok_of_mem hf (refocus_mem ..)

@[simp] theorem asHart_ok {s : State} (p : PartId) (id : Nat) {f : State → State} (hf : ∀ t, t.MemOk → (f t).MemOk) (h : s.MemOk) :
    (s.asHart p id f).MemOk := by
  unfold State.asHart
  split
  · exact visit_ok h (hf _ (ok_of_mem h (focusHart_mem ‹_›)))
  · exact h

@[simp] theorem inPart_ok {s : State} (p : PartId) {f : State → State} (hf : ∀ t, t.MemOk → (f t).MemOk) (h : s.MemOk) :
    (s.inPart p f).MemOk := by
  unfold State.inPart
  split
  · exact visit_ok h (hf _ (ok_of_mem h (focusPart_mem ‹_›)))
  · exact h

@[simp] theorem xlate_ok {s : State} (k : Kind) (a : Word) (h : s.MemOk) : (xlate k a s).1.MemOk := by
  unfold xlate; dsimp only
  repeat' split
  all_goals first | exact h | exact markLeaf_ok (s := s.tlbInstall ..) _ _ h

@[simp] theorem ringPut_ok {s : State} (intr : Bool) (e : Entry) (h : s.MemOk) : (ringPut intr e s).MemOk := by
  unfold ringPut; dsimp only
  split
  · exact pokeWord_ok _ _ h
  · exact pokeWord_ok _ _ (poke_ok _ _ h)

@[simp] theorem sendInterrupt_ok {s : State} (intr : Bool) (h : s.MemOk) : (sendInterrupt intr s).MemOk := by
  unfold sendInterrupt; dsimp only
  split
  · exact h
  · exact pokeWord_ok _ _ h

@[simp] theorem post_ok {s : State} (intr : Bool) (e : Entry) (h : s.MemOk) : (post intr e s).MemOk := by
  unfold post; dsimp only
  repeat' split
  · exact h
  · exact sendInterrupt_ok _ (ringPut_ok _ _ h)
  · exact h
  · exact sendInterrupt_ok _ (ringPut_ok _ _ h)

@[simp] theorem postHart_ok {s : State} (intr : Bool) (k : Nat) (c : BitVec 8) (v1 v2 v3 : Word) (h : s.MemOk) :
    (postHart intr k c v1 v2 v3 s).MemOk := (modHart_ok _ _).2 (post_ok _ _ h)
@[simp] theorem postEngine_ok {s : State} (intr : Bool) (k : Nat) (c : BitVec 8) (b : Issuer) (v1 v2 : Word) (h : s.MemOk) :
    (postEngine intr k c b v1 v2 s).MemOk := post_ok _ _ h
@[simp] theorem postResized_ok {s : State} (h : s.MemOk) : (postResized s).MemOk := (modPart_ok _ _).2 (post_ok _ _ h)
@[simp] theorem postLate_ok {s : State} (t : BitVec 16) (h : s.MemOk) : (postLate t s).MemOk := (modPart_ok _ _).2 (post_ok _ _ h)

@[simp] theorem engineStore_ok {s : State} (b : Issuer) (w : Option (Word × Word)) (loc : Loc) (bs : List Byte) (h : s.MemOk) :
    (s.engineStore b w loc bs).MemOk := by
  unfold State.engineStore
  split
  · exact ok_of_mem h (sendWrite_mem ..)
  · exact poke_ok _ _ h

theorem endObject_mem (c : Completion) (w : Bool) (s : State) : (c.endObject w s).mem = s.mem := by
  unfold Completion.endObject; dsimp only
  split <;> rfl

@[simp] theorem completeNow_ok {s : State} (c : Completion) (p : Except (BitVec 8) Loc) (h : s.MemOk) : (completeNow c p s).MemOk := by
  unfold completeNow; dsimp only
  refine ok_of_mem ?_ (endObject_mem ..)
  have ring : ∀ t : State, t.MemOk → State.MemOk (match c.intr with
      | some i => postEngine true i.1 i.2.1 c.by_ i.2.2 0 t
      | none => t) := by
    intro t ht
    split
    · exact postEngine_ok _ _ _ _ _ _ ht
    · exact ht
  have told : ∀ t : State, t.MemOk → State.MemOk (if c.status = 0 then t else postEngine false 2 c.status c.by_ c.v1 c.va t) := by
    intro t ht
    split
    · exact ht
    · exact postEngine_ok _ _ _ _ _ _ ht
  apply ring
  cases p with
  | ok loc => exact told _ (engineStore_ok _ _ _ _ h)
  | error e => exact postEngine_ok _ _ _ _ _ _ (told _ h)

@[simp] theorem askTable_mem (c : Completion) (s : State) : (askTable c s).mem = s.mem := by
  unfold askTable
  split <;> rfl

@[simp] theorem finishCommand_ok {s : State} (c : Completion) (h : s.MemOk) : (finishCommand c s).MemOk := by
  unfold finishCommand
  split
  · exact completeNow_ok _ _ h
  · exact ok_of_mem h (askTable_mem ..)

@[simp] theorem settleCompletion_ok {s : State} (c : Completion) (h : s.MemOk) : (settleCompletion c s).MemOk := by
  unfold settleCompletion
  split
  · exact completeNow_ok _ _ h
  · exact ok_of_mem h (askTable_mem ..)

/-! ## Launches -/

@[simp] theorem completeLaunch_ok {s : State} (l : Launch) (h : s.MemOk) : (completeLaunch l s).MemOk :=
  ok_of_mem (finishCommand_ok _ h) (dismissFnext_mem ..)

theorem settleState_ok {s : State} (l : Launch) (h : s.MemOk) : (settleState l s).MemOk := by
  unfold settleState
  repeat' split
  all_goals first | exact h | exact completeLaunch_ok _ h | exact ok_of_mem h (dismissFnext_mem ..)

@[simp] theorem settleLaunch_ok {s : State} (x : Slot) (h : s.MemOk) : (settleLaunch x s).MemOk := by
  unfold settleLaunch
  split
  · exact h
  · exact ok_of_mem (settleState_ok _ h) (tryFree_mem ..)

@[simp] theorem taskEnded_ok {s : State} (id : Nat) (h : s.MemOk) : (taskEnded id s).MemOk := by
  unfold taskEnded; dsimp only
  split
  · exact h
  · exact settleLaunch_ok _ ((modLaunch_ok ..).2 h)

/-! ## Arbitration events -/

@[simp] theorem unpark_ok {s : State} (hall : Nat) (h : s.MemOk) : (unpark hall s).MemOk := by
  unfold unpark; dsimp only
  refine ok_foldl ?_ _ (ok_foldl ?_ _ h)
  · intro s b h
    split
    · exact h
    · exact inPart_ok _ (fun t ht => ok_foldl (fun _ _ => settleLaunch_ok _) _ ht) h
  · exact fun s b h => ok_foldl (fun _ _ h => ok_of_mem h (releaseTasks_mem ..)) _ h

@[simp] theorem arbitrate_ok {s : State} (hall : Nat) (h : s.MemOk) : (arbitrate hall s).MemOk := by
  have h1 := ok_of_mem h (arbitrateOnce_mem hall s)
  unfold arbitrate; dsimp only
  split
  · exact h1
  · exact ok_of_mem (unpark_ok _ h1) (arbitrateOnce_mem ..)

theorem arbitrateAll_ok {s : State} (halls : List Nat) (h : s.MemOk) : (halls.foldl (fun s hall => arbitrate hall s) s).MemOk :=
  ok_foldl (fun _ _ => arbitrate_ok _) _ h

@[simp] theorem arbitrateGang_ok {s : State} (p : PartId) (g : Nat) (h : s.MemOk) : (arbitrateGang p g s).MemOk := by
  unfold arbitrateGang
  split
  · exact h
  · split
    · exact h
    · exact arbitrateAll_ok _ h

/-! ## Strips -/

@[simp] theorem markStored_ok {s : State} (k : Nat) (h : s.MemOk) : (markStored s k).MemOk := by
  unfold markStored
  split
  · exact h
  · exact markLeaf_ok _ _ h

@[simp] theorem commit_ok {s : State} (h : s.MemOk) : s.commit.MemOk :=
  (modHart_ok _ _).2 (ok_foldl (fun _ _ => markStored_ok _) _ h)

theorem drainStores_ok (l : List Store) {s : State} (h : s.MemOk) : (drainStores l s).1.MemOk := by
  induction l generalizing s with
  | nil => exact h
  | cons st rest ih =>
    unfold drainStores
    repeat' split
    · exact ih (ok_of_mem h (hartWrite_mem ..))
    · exact h
    · exact ih (poke_ok _ _ h)
    · exact h

@[simp] theorem drain_ok {s : State} (h : s.MemOk) : s.drain.MemOk := (modHart_ok _ _).2 (drainStores_ok _ h)

@[simp] theorem closeStrip_ok {s : State} (r : Bool) (h : s.MemOk) : (closeStrip r s).1.MemOk :=
  ok_of_mem (drain_ok (commit_ok h)) (afterCommit_mem ..)

@[simp] theorem markPage_ok {s : State} (loc : Loc) (h : s.MemOk) : (markPage loc s).MemOk := by
  unfold markPage
  split
  · exact markStored_ok _ h
  · exact h

@[simp] theorem afterMark_ok {s : State} (loc : Loc) {f : State → State} (hf : ∀ t, t.MemOk → (f t).MemOk) (h : s.MemOk) :
    (afterMark loc f s).MemOk := by
  unfold afterMark
  split
  · exact hf _ h
  · exact markPage_ok _ h

@[simp] theorem performNow_ok {s : State} (loc : Loc) (bs : List Byte) (h : s.MemOk) : (performNow loc bs s).MemOk := by
  unfold performNow; dsimp only
  split
  · exact ok_of_mem (markPage_ok _ h) (hartWrite_mem ..)
  · exact poke_ok _ _ (markPage_ok _ h)

/-! ## The end of a hart -/

@[simp] theorem writeExit_ok {s : State} (v : Word) (h : s.MemOk) : (writeExit v s).MemOk := by
  unfold writeExit
  split
  · exact h
  · have h1 := xlate_ok .store s.hart.exitVa h
    split <;> rename_i e <;> rw [e] at h1
    · split
      · exact ok_of_mem (markPage_ok _ h1) (sendWrite_mem ..)
      · exact performNow_ok _ _ h1
    · exact postHart_ok _ _ _ _ _ _ h1

@[simp] theorem endHart_ok {s : State} (v : Word) (h : s.MemOk) : (endHart v s).MemOk := by
  have h1 := writeExit_ok v h
  unfold endHart; dsimp only
  refine arbitrateAll_ok _ (taskEnded_ok _ ?_)
  rw [mapHarts_ok, modHart_ok]
  refine ok_of_mem ?_ ((freeTags_mem ..).trans ((freeCopies_mem ..).trans (leaveGang_mem _)))
  split
  · exact postHart_ok _ _ _ _ _ _ h1
  · exact h1

@[simp] theorem askOnce_mem (k n : Nat) (s : State) : (askOnce k n s).mem = s.mem := by
  unfold askOnce; split <;> rfl

@[simp] theorem endAfterStores_ok {s : State} (v : Word) (h : s.MemOk) : (endAfterStores v s).MemOk := by
  unfold endAfterStores
  split
  · exact h
  · split
    · exact endHart_ok _ h
    · have h1 := xlate_ok .store s.hart.exitVa h
      split <;> rename_i e <;> rw [e] at h1
      · exact ok_of_mem h1 (askOnce_mem ..)
      · exact endHart_ok _ h
      · split
        · exact endHart_ok _ h
        · exact markPage_ok _ h1

@[simp] theorem takeTrap_ok {s : State} (c : Cause) (v w : Word) (h : s.MemOk) : (takeTrap c v w s).MemOk := by
  unfold takeTrap; dsimp only
  repeat' split
  · exact endAfterStores_ok _ (postHart_ok _ _ _ _ _ _ h)
  · exact h
  · exact endAfterStores_ok _ (postHart_ok _ _ _ _ _ _ h)
  · exact h

/-! ## Sequences of effects -/

/-- A sequence of effects keeps the form, however it ends. -/
structure Keeps {ε α : Type} (m : EStateM ε State α) : Prop where
  ok : ∀ s, s.MemOk → ∀ x t, m s = .ok x t → t.MemOk
  error : ∀ s, s.MemOk → ∀ e t, m s = .error e t → t.MemOk

/-- An outcome whose next state has the form. -/
def OutOk (o : Out) : Prop := ∀ t, o = .next t → t.MemOk

@[simp] theorem outOk_next {t : State} (h : t.MemOk) : OutOk (.next t) := by intro u e; cases e; exact h

@[simp] theorem outOk_fault (f : Fault) : OutOk (.fault f) := by intro u e; cases e

@[simp] theorem keeps_pure {ε α : Type} (x : α) : Keeps (pure x : EStateM ε State α) :=
  ⟨fun _ h _ _ e => by cases e; exact h, fun _ _ _ _ e => by cases e⟩

@[simp] theorem keeps_bind {ε α β : Type} {m : EStateM ε State α} {f : α → EStateM ε State β} (hm : Keeps m) (hf : ∀ x, Keeps (f x)) :
    Keeps (m >>= f) := by
  have unfold_bind : ∀ s, (m >>= f) s = match m s with
      | .ok a t => f a t
      | .error e t => .error e t := by
    intro s
    show EStateM.bind m f s = _
    unfold EStateM.bind
    cases m s <;> rfl
  constructor
  · intro s h x t e
    rw [unfold_bind] at e
    split at e
    · exact (hf _).ok _ (hm.ok s h _ _ ‹_›) _ _ e
    · cases e
  · intro s h x t e
    rw [unfold_bind] at e
    split at e
    · exact (hf _).error _ (hm.ok s h _ _ ‹_›) _ _ e
    · cases e; exact hm.error s h _ _ ‹_›

@[simp] theorem keeps_map {ε α β : Type} {m : EStateM ε State α} {f : α → β} (hm : Keeps m) : Keeps (f <$> m) :=
  keeps_bind hm fun _ => keeps_pure _

@[simp] theorem keeps_throw {ε α : Type} (x : ε) : Keeps (throw x : EStateM ε State α) := by
  constructor <;> intro s h y t e <;> cases e
  exact h

@[simp] theorem keeps_get {ε : Type} : Keeps (get : EStateM ε State State) :=
  ⟨fun _ h _ _ e => by cases e; exact h, fun _ _ _ _ e => by cases e⟩

@[simp] theorem keeps_modify {ε : Type} {f : State → State} (hf : ∀ s, s.MemOk → (f s).MemOk) :
    Keeps (modify f : EStateM ε State PUnit) :=
  ⟨fun _ h _ _ e => by cases e; exact hf _ h, fun _ _ _ _ e => by cases e⟩

@[simp] theorem keeps_ite {ε α : Type} {c : Prop} [Decidable c] {a b : EStateM ε State α} (ha : Keeps a) (hb : Keeps b) :
    Keeps (if c then a else b) := by
  split
  · exact ha
  · exact hb

/-- What reads the state and goes on with what it found. -/
theorem keeps_get_bind {ε α : Type} {f : State → EStateM ε State α}
    (hf : ∀ s, s.MemOk → (∀ x t, f s s = .ok x t → t.MemOk) ∧ (∀ x t, f s s = .error x t → t.MemOk)) : Keeps (get >>= f) :=
  ⟨fun s h x t e => (hf s h).1 x t e, fun s h x t e => (hf s h).2 x t e⟩

@[simp] theorem keeps_trap {α : Type} (c : Cause) (v w : Word) : Keeps (trap c v w : M α) := keeps_throw _
@[simp] theorem keeps_trapWord {α : Type} (c : Cause) (w : BitVec 32) : Keeps (trapWord c w : M α) := keeps_throw _
@[simp] theorem keeps_check (ok : Bool) (c : Cause) (v : Word) : Keeps (check ok c v) := by
  unfold check; exact keeps_ite (keeps_pure _) (keeps_trap _ _ _)
@[simp] theorem keeps_read {α : Type} (f : State → α) : Keeps (read f) :=
  ⟨fun _ h _ _ e => by cases e; exact h, fun _ _ _ _ e => by cases e⟩
@[simp] theorem keeps_update {f : State → State} (hf : ∀ s, s.MemOk → (f s).MemOk) : Keeps (update f) :=
  ⟨fun _ h _ _ e => by cases e; exact hf _ h, fun _ _ _ _ e => by cases e⟩

theorem outOk_run {m : M Unit} (hm : Keeps m) {s : State} (h : s.MemOk) : OutOk (run m s) := by
  unfold run
  split <;> rename_i e
  · exact outOk_next (hm.ok s h _ _ e)
  · exact outOk_next (takeTrap_ok _ _ _ (hm.error s h _ _ e))
  · exact outOk_next (ok_of_mem (hm.error s h _ _ e) (awaitRemote_mem ..))
  · exact outOk_next (ok_of_mem (hm.error s h _ _ e) rfl)
  · exact outOk_next ((modHart_ok _ _).2 (hm.error s h _ _ e))
  · exact outOk_next (closeStrip_ok _ h)
  · exact outOk_fault _

/-! ## Accesses -/

@[simp] theorem keeps_translate (k : Kind) (a : Word) : Keeps (translate k a) := by
  have h1 := fun s => @xlate_ok s k a
  constructor <;> intro s h x t e <;> have h2 := h1 s h <;> unfold translate at e <;> split at e <;> rename_i e1 <;>
    rw [e1] at h2 <;> cases e <;> exact h2

@[simp] theorem keeps_fetchBytes (loc : Loc) (n : Nat) (u : Nat → Abort) : Keeps (fetchBytes loc n u) := by
  constructor <;> intro s h x t e <;> unfold fetchBytes at e <;> repeat' split at e
  all_goals cases e
  all_goals exact h

@[simp] theorem keeps_retry {α : Type} {m : M α} (hm : Keeps m) : Keeps (retry m) := by
  constructor <;> intro s h x t e <;> unfold retry at e <;> split at e
  · cases e
  · cases e
  · exact hm.ok s h _ _ e
  · cases e; exact h
  · cases e; exact h
  · exact hm.error s h _ _ e

@[simp] theorem keeps_loadScalar (a : Word) (n : Nat) : Keeps (loadScalar a n) :=
  keeps_retry (keeps_bind (keeps_check _ _ _) fun _ => keeps_bind (keeps_translate _ _) fun _ =>
    keeps_bind (keeps_fetchBytes _ _ _) fun _ => keeps_pure _)

@[simp] theorem keeps_closing (r : Bool) {b : M Unit} (hb : Keeps b) : Keeps (closing r b) := by
  have h1 := fun s => @closeStrip_ok s r
  constructor <;> intro s h x t e <;> have h2 := h1 s h <;> unfold closing at e <;> split at e <;> rename_i e1 <;> rw [e1] at h2
  · exact (keeps_retry hb).ok _ h2 _ _ e
  · cases e; exact h2
  · exact (keeps_retry hb).error _ h2 _ _ e
  · cases e

@[simp] theorem keeps_makeRoom (as : List Word) : Keeps (makeRoom as) := by
  constructor <;> intro s h x t e <;> unfold makeRoom at e <;> dsimp only at e <;> split at e <;> cases e
  all_goals exact h

@[simp] theorem keeps_emit (sts : List Store) : Keeps (emit sts) := keeps_update fun _ h => h

@[simp] theorem keeps_storeScalar (a v : Word) (n len : Nat) : Keeps (storeScalar a v n len) :=
  keeps_retry (keeps_bind (keeps_makeRoom _) fun _ => keeps_bind (keeps_check _ _ _) fun _ => keeps_bind (keeps_translate _ _) fun _ =>
    keeps_bind (keeps_emit _) fun _ => keeps_update fun _ h => h)

@[simp] theorem keeps_needSupervisor (w : BitVec 32) : Keeps (needSupervisor w) :=
  keeps_bind (keeps_read _) fun _ => keeps_ite (keeps_pure _) (keeps_trapWord _ _)

@[simp] theorem keeps_needFull (w : BitVec 32) : Keeps (needFull w) :=
  keeps_bind (keeps_read _) fun _ => keeps_ite (keeps_trapWord _ _) (keeps_pure _)

end Sys2Proof.Machine
end

