-- ==== Sys2Proof/Laws/MemOps.lean ====
section
/-! SUPPORT. The shared operations of the vector and engine instructions keep the canonical form of memory. -/

set_option Elab.async false
set_option linter.all false

namespace Sys2Proof.Machine

/-! ## Vectors -/

@[simp] theorem keeps_finishVector (n : Nat) : Keeps (finishVector n) := by
  constructor <;> intro s h x t e <;> unfold finishVector at e <;> dsimp only at e <;> cases e
  split <;> simp (maxDischargeDepth := 16) [*]

@[simp] theorem keeps_ownVector : Keeps (ownVector) := by
  constructor <;> intro s h x t e <;> unfold ownVector at e <;> dsimp only at e <;> repeat' split at e
  all_goals cases e
  all_goals simp (maxDischargeDepth := 16) [*]

@[simp] theorem keeps_raiseFault (f : Option EFault) : Keeps (raiseFault f) := by
  constructor <;> intro s h x t e <;> unfold raiseFault at e <;> repeat' split at e
  all_goals cases e
  all_goals simp (maxDischargeDepth := 16) [*]

@[simp] theorem keeps_checkElem (k : Kind) (b : Nat) (x : Elt) : Keeps (checkElem k b x) := by
  have h1 := fun s => @xlate_ok s k x.addr
  constructor <;> intro s h y t e <;> have h2 := h1 s h <;> unfold checkElem at e <;> dsimp only at e <;> split at e
  · cases e; exact h
  · split at e <;> rename_i e1 <;> rw [e1] at h2
    · cases e; exact h2
    · cases e
    · cases e
    · repeat' split at e
      all_goals cases e; exact h2
  · cases e
  · split at e <;> rename_i e1 <;> rw [e1] at h2
    · cases e
    · cases e; exact h2
    · cases e; exact h2
    · repeat' split at e
      all_goals cases e

@[simp] theorem keeps_checkElems (k : Kind) (b : Nat) (l : List Elt) : Keeps (checkElems k b l) := by
  induction l with
  | nil => simp (maxDischargeDepth := 16) [checkElems]
  | cons x xs ih =>
    unfold checkElems
    repeat' first
      | with_reducible apply keeps_closing
      | with_reducible apply keeps_retry
      | with_reducible apply keeps_bind
      | with_reducible apply keeps_ite
      | with_reducible apply keeps_update
      | intro _
      | split
      | dsimp only
    all_goals simp (maxDischargeDepth := 16) [*]

@[simp] theorem keeps_awaitElems (b : Nat) (l : List (Elt × Loc)) (f : Option EFault) : Keeps (awaitElems b l f) := by
  induction l generalizing f with
  | nil => exact keeps_pure _
  | cons x xs ih =>
    constructor <;> intro s h y t e <;> unfold awaitElems at e <;> dsimp only at e <;> repeat' split at e
    all_goals first
      | exact (ih _).ok s h _ _ e
      | exact (ih _).error s h _ _ e
      | (cases e; done)
      | (cases e; exact h)

@[simp] theorem keeps_loadElems (b : Nat) (l : List Elt) : Keeps (loadElems b l) := by
  simp (maxDischargeDepth := 16) [loadElems]

@[simp] theorem keeps_readElems (b : Nat) (l : List (Elt × Loc)) : Keeps (readElems b l) := by
  induction l with
  | nil => simp (maxDischargeDepth := 16) [readElems]
  | cons x xs ih =>
    unfold readElems
    repeat' first
      | with_reducible apply keeps_closing
      | with_reducible apply keeps_retry
      | with_reducible apply keeps_bind
      | with_reducible apply keeps_ite
      | with_reducible apply keeps_update
      | intro _
      | split
      | dsimp only
    all_goals simp (maxDischargeDepth := 16) [*]

@[simp] theorem keeps_vectorChecks (u : VUse) : Keeps (vectorChecks u) := by
  unfold vectorChecks
  repeat' first
    | with_reducible apply keeps_closing
    | with_reducible apply keeps_retry
    | with_reducible apply keeps_bind
    | with_reducible apply keeps_ite
    | with_reducible apply keeps_update
    | intro _
    | split
    | dsimp only
  all_goals simp (maxDischargeDepth := 16) [*]

@[simp] theorem keeps_readScales (b : Binding) (l : List (Elt × Loc)) : Keeps (readScales b l) := by
  unfold readScales
  repeat' first
    | with_reducible apply keeps_closing
    | with_reducible apply keeps_retry
    | with_reducible apply keeps_bind
    | with_reducible apply keeps_ite
    | with_reducible apply keeps_update
    | intro _
    | split
    | dsimp only
  all_goals simp (maxDischargeDepth := 16) [*]

@[simp] theorem keeps_checkScales (b : Binding) (p n : Nat) : Keeps (checkScales b p n) := by
  unfold checkScales
  repeat' first
    | with_reducible apply keeps_closing
    | with_reducible apply keeps_retry
    | with_reducible apply keeps_bind
    | with_reducible apply keeps_ite
    | with_reducible apply keeps_update
    | intro _
    | split
    | dsimp only
  all_goals simp (maxDischargeDepth := 16) [*]

@[simp] theorem keeps_pop (p : Shp) (w : BitVec 32) (v : VReg) : Keeps (pop p w v) := by
  unfold pop
  repeat' first
    | with_reducible apply keeps_closing
    | with_reducible apply keeps_retry
    | with_reducible apply keeps_bind
    | with_reducible apply keeps_ite
    | with_reducible apply keeps_update
    | intro _
    | split
    | dsimp only
  all_goals simp (maxDischargeDepth := 16) [*]

@[simp] theorem keeps_roomForAppend (p : Shp) (d : Option VReg) : Keeps (roomForAppend p d) := by
  unfold roomForAppend
  repeat' first
    | with_reducible apply keeps_closing
    | with_reducible apply keeps_retry
    | with_reducible apply keeps_bind
    | with_reducible apply keeps_ite
    | with_reducible apply keeps_update
    | intro _
    | split
    | dsimp only
  all_goals simp (maxDischargeDepth := 16) [*]

@[simp] theorem keeps_prepareAppend (p : Shp) (w : BitVec 32) (d : Option VReg) (f : Option EFault) : Keeps (prepareAppend p w d f) := by
  unfold prepareAppend
  repeat' first
    | with_reducible apply keeps_closing
    | with_reducible apply keeps_retry
    | with_reducible apply keeps_bind
    | with_reducible apply keeps_ite
    | with_reducible apply keeps_update
    | intro _
    | split
    | dsimp only
  all_goals simp (maxDischargeDepth := 16) [*]

@[simp] theorem keeps_checkAppend (p : Shp) (a : Append) (st : Strip) : Keeps (checkAppend p a st) := keeps_check _ _ _

@[simp] theorem keeps_doAppend (p : Shp) (a : Option Append) : Keeps (doAppend p a) := by
  cases a <;> simp (maxDischargeDepth := 16) [doAppend]

@[simp] theorem keeps_popAll (p : Shp) (w : BitVec 32) (l : List VReg) : Keeps (popAll p w l) := by
  induction l with
  | nil => simp (maxDischargeDepth := 16) [popAll]
  | cons x xs ih =>
    unfold popAll
    repeat' first
      | with_reducible apply keeps_closing
      | with_reducible apply keeps_retry
      | with_reducible apply keeps_bind
      | with_reducible apply keeps_ite
      | with_reducible apply keeps_update
      | intro _
      | split
      | dsimp only
    all_goals simp (maxDischargeDepth := 16) [*]

@[simp] theorem keeps_checkLost (u : VUse) (p : Shp) : Keeps (checkLost u p) := by
  simp (maxDischargeDepth := 16) [checkLost]

@[simp] theorem keeps_popSources (u : VUse) (p : Shp) : Keeps (popSources u p) := by
  simp (maxDischargeDepth := 16) [popSources]

@[simp] theorem keeps_vectorOpIf (u : VUse) (n : Nat) {own eff : Shp → M Unit} (ho : ∀ p, Keeps (own p)) (he : ∀ p, Keeps (eff p)) :
    Keeps (vectorOpIf u n own eff) := by
  simp (maxDischargeDepth := 16) [vectorOpIf, *]

@[simp] theorem keeps_vectorOp (u : VUse) (n : Nat) {eff : Shp → M Unit} (he : ∀ p, Keeps (eff p)) : Keeps (vectorOp u n eff) := by
  simp (maxDischargeDepth := 16) [vectorOp, *]

@[simp] theorem keeps_onStrip (f : Shp → Strip → Strip) (p : Shp) : Keeps (onStrip f p) := by simp (maxDischargeDepth := 16) [onStrip]

@[simp] theorem keeps_loadWith (w : BitVec 32) (m : MReg) (a : VReg) (off : Option VReg) (elts : State → Shp → List Elt) (lay : Strip → Shp → List Nat → List Nat) : Keeps (loadWith w m a off elts lay) := by
  simp (maxDischargeDepth := 16) [loadWith]

@[simp] theorem keeps_storeWith (w : BitVec 32) (m : MReg) (a : VReg) (off : Option VReg) (addr : AddrFn) : Keeps (storeWith w m a off addr) := by
  simp (maxDischargeDepth := 16) [storeWith]

/-! ## Spans -/

@[simp] theorem keeps_translateSpan (k : Kind) (l : List (Nat × Nat)) : Keeps (translateSpan k l) := by
  induction l with
  | nil => simp (maxDischargeDepth := 16) [translateSpan]
  | cons x xs ih =>
    unfold translateSpan
    repeat' first
      | with_reducible apply keeps_closing
      | with_reducible apply keeps_retry
      | with_reducible apply keeps_bind
      | with_reducible apply keeps_ite
      | with_reducible apply keeps_update
      | intro _
      | split
      | dsimp only
    all_goals simp (maxDischargeDepth := 16) [*]

@[simp] theorem keeps_readPieces (l : List Piece) : Keeps (readPieces l) := by
  induction l with
  | nil => simp (maxDischargeDepth := 16) [readPieces]
  | cons x xs ih =>
    unfold readPieces
    repeat' first
      | with_reducible apply keeps_closing
      | with_reducible apply keeps_retry
      | with_reducible apply keeps_bind
      | with_reducible apply keeps_ite
      | with_reducible apply keeps_update
      | intro _
      | split
      | dsimp only
    all_goals simp (maxDischargeDepth := 16) [*]

@[simp] theorem keeps_readSpan (l : List (Nat × Nat)) : Keeps (readSpan l) := by
  simp (maxDischargeDepth := 16) [readSpan]

@[simp] theorem writeSpan_ok (l : List Piece) (bs : List Byte) {s : State} (h : s.MemOk) : (writeSpan l bs s).MemOk :=
  drain_ok ((modHart_ok _ _).2 (ok_foldl (fun _ _ => markStored_ok _) _ h))

/-! ## Engines -/

@[simp] theorem keeps_enter (e : EngineKind) {b : M Unit} (hb : Keeps b) : Keeps (enter e b) := by
  constructor <;> intro s h x t e <;> unfold enter at e <;> split at e
  · cases e; simp (maxDischargeDepth := 16) [*]
  · exact hb.ok _ h _ _ e
  · cases e
  · exact hb.error _ h _ _ e

@[simp] theorem keeps_takeIn (e : EngineKind) : Keeps (takeIn e) := by
  constructor <;> intro s h x t e <;> unfold takeIn at e <;> cases e
  simp (maxDischargeDepth := 16) [*]

@[simp] theorem keeps_takeAndGo (e : EngineKind) : Keeps (takeAndGo e) := by
  simp (maxDischargeDepth := 16) [takeAndGo]

@[simp] theorem keeps_takeAndAnswer (e : EngineKind) (r : XReg) (v : Word) : Keeps (takeAndAnswer e r v) := by
  simp (maxDischargeDepth := 16) [takeAndAnswer]

@[simp] theorem keeps_engineTranslate (k : Kind) (a : Nat) : Keeps (engineTranslate k a) := by
  constructor <;> intro s h x t e <;> unfold engineTranslate at e <;> repeat' split at e
  all_goals cases e
  all_goals simp (maxDischargeDepth := 16) [*]

@[simp] theorem keeps_engineReadSpan (f : Nat → Nat) (l : List (Nat × Nat)) : Keeps (engineReadSpan f l) := by
  induction l with
  | nil => simp (maxDischargeDepth := 16) [engineReadSpan]
  | cons x xs ih =>
    unfold engineReadSpan
    repeat' first
      | with_reducible apply keeps_closing
      | with_reducible apply keeps_retry
      | with_reducible apply keeps_bind
      | with_reducible apply keeps_ite
      | with_reducible apply keeps_update
      | intro _
      | split
      | dsimp only
    all_goals simp (maxDischargeDepth := 16) [*]

@[simp] theorem keeps_engineRead (a n : Nat) : Keeps (engineRead a n) := by
  simp (maxDischargeDepth := 16) [engineRead]

@[simp] theorem keeps_blockRecord (a : Word) (n : Nat) : Keeps (blockRecord a n) := by
  simp (maxDischargeDepth := 16) [blockRecord]

@[simp] theorem keeps_queueUp (e : EngineKind) (w : Wait) : Keeps (queueUp e w) := keeps_update fun _ h => h

@[simp] theorem keeps_engineWriteSpan (l : List (Nat × Nat)) : Keeps (engineWriteSpan l) := by
  induction l with
  | nil => simp (maxDischargeDepth := 16) [engineWriteSpan]
  | cons x xs ih =>
    unfold engineWriteSpan
    repeat' first
      | with_reducible apply keeps_closing
      | with_reducible apply keeps_retry
      | with_reducible apply keeps_bind
      | with_reducible apply keeps_ite
      | with_reducible apply keeps_update
      | intro _
      | split
      | dsimp only
    all_goals simp (maxDischargeDepth := 16) [*]

@[simp] theorem engineWrite_ok (b : Issuer) (l : List (Loc × Nat)) (bs : List Byte) {s : State} (h : s.MemOk) :
    (engineWrite b l bs s).MemOk := by
  induction l generalizing bs s with
  | nil => exact h
  | cons x xs ih => exact ih _ (engineStore_ok _ _ _ _ h)

@[simp] theorem keeps_readRecord (a : Word) : Keeps (readRecord a) := by
  simp (maxDischargeDepth := 16) [readRecord]

@[simp] theorem engineOp_ok (w : BitVec 32) {b : M Unit} (hb : Keeps b) {s : State} (h : s.MemOk) : OutOk (engineOp w b s) := by
  unfold engineOp
  exact outOk_run (by simp (maxDischargeDepth := 16) [*]) h

/-! ## Copies -/

@[simp] theorem keeps_needCopy (h : Word) : Keeps (needCopy h) := by
  unfold needCopy
  repeat' first
    | with_reducible apply keeps_closing
    | with_reducible apply keeps_retry
    | with_reducible apply keeps_bind
    | with_reducible apply keeps_ite
    | with_reducible apply keeps_update
    | intro _
    | split
    | dsimp only
  all_goals simp (maxDischargeDepth := 16) [*]

@[simp] theorem finishCopy_ok (c : Copy) (st : CopyState) (x : BitVec 8) (v : Word) {s : State} (h : s.MemOk) : (finishCopy c st x v s).MemOk := by
  exact finishCommand_ok _ h

@[simp] theorem pokeAll_ok (l : List (Nat × Byte)) {s : State} (h : s.MemOk) : (s.pokeAll l).MemOk :=
  ok_foldl (fun _ _ => poke_ok _ _) _ h

@[simp] theorem scrambleChunk_ok (c : Copy) (e : Nat) {s : State} (h : s.MemOk) : (scrambleChunk c e s).MemOk := by
  unfold scrambleChunk; dsimp only
  repeat' split
  all_goals simp (maxDischargeDepth := 16) [*]

@[simp] theorem cancelCopy_ok (c : Copy) {s : State} (h : s.MemOk) : (cancelCopy c s).MemOk := by
  unfold cancelCopy; dsimp only
  split
  · refine finishCopy_ok _ _ _ _ ?_
    split
    · exact ok_foldl (fun _ _ => scrambleChunk_ok _ _) _ h
    · exact h
  · exact h

@[simp] theorem runChunk_ok (c : Copy) (e : Nat) {s : State} (h : s.MemOk) : (runChunk c e s).1.MemOk := by
  unfold runChunk
  split <;> simp (maxDischargeDepth := 16) [*]

@[simp] theorem chunkDone_ok (c : Copy) (e : Nat) {s : State} (h : s.MemOk) : (chunkDone c e s).MemOk := by
  have h1 := runChunk_ok c e h
  unfold chunkDone; dsimp only
  repeat' split
  all_goals simp (maxDischargeDepth := 16) [h1]

@[simp] theorem endAtOnce_ok (c : Copy) {s : State} (h : s.MemOk) : (endAtOnce c s).MemOk := by
  unfold endAtOnce
  repeat' split
  all_goals simp (maxDischargeDepth := 16) [*]

/-! ## Blocks -/

@[simp] theorem setMetaState_ok (b : Issuer) (id st : Nat) {s : State} (h : s.MemOk) : (s.setMetaState b id st).MemOk := by
  unfold State.setMetaState
  split
  · exact engineStore_ok _ _ _ _ h
  · exact h

@[simp] theorem keeps_awaitPiece (p : Option (Nat × Nat)) : Keeps (awaitPiece p) := by
  cases p <;> simp [awaitPiece]

@[simp] theorem setMeta_ok (b : Issuer) (id : Nat) (m : Meta) {s : State} (h : s.MemOk) : (s.setMeta b id m).MemOk := by
  unfold State.setMeta
  repeat' split
  all_goals simp (maxDischargeDepth := 16) [*]

@[simp] theorem keeps_loadElement (b : Nat) (x : Elt) : Keeps (loadElement b x) := by
  unfold loadElement
  repeat' first
    | with_reducible apply keeps_closing
    | with_reducible apply keeps_retry
    | with_reducible apply keeps_bind
    | with_reducible apply keeps_ite
    | with_reducible apply keeps_update
    | intro _
    | split
    | dsimp only
  all_goals simp (maxDischargeDepth := 16) [*]

@[simp] theorem keeps_xlatElement (base : Word) (w e pos : Nat) : Keeps (xlatElement base w e pos) := by
  unfold xlatElement
  repeat' first
    | with_reducible apply keeps_closing
    | with_reducible apply keeps_retry
    | with_reducible apply keeps_bind
    | with_reducible apply keeps_ite
    | with_reducible apply keeps_update
    | intro _
    | split
    | dsimp only
  all_goals simp (maxDischargeDepth := 16) [*]

@[simp] theorem keeps_xlatElements (base : Word) (w : Nat) (stop : Bool) (l : List (Nat × Nat)) : Keeps (xlatElements base w stop l) := by
  induction l with
  | nil => simp (maxDischargeDepth := 16) [xlatElements]
  | cons x xs ih =>
    unfold xlatElements
    repeat' first
      | with_reducible apply keeps_closing
      | with_reducible apply keeps_retry
      | with_reducible apply keeps_bind
      | with_reducible apply keeps_ite
      | with_reducible apply keeps_update
      | intro _
      | split
      | dsimp only
    all_goals simp (maxDischargeDepth := 16) [*]

@[simp] theorem keeps_vxlatOp (w : BitVec 32) (o : VVX) (pred : MReg) (bits : Option MReg) : Keeps (vxlatOp w o pred bits) := by
  unfold vxlatOp
  repeat' first
    | with_reducible apply keeps_closing
    | with_reducible apply keeps_retry
    | with_reducible apply keeps_bind
    | with_reducible apply keeps_ite
    | with_reducible apply keeps_update
    | intro _
    | split
    | dsimp only
  all_goals simp (maxDischargeDepth := 16) [*]

/-- A command that may have to read its objects anew keeps what its body keeps. -/
@[simp] theorem keeps_ofObjects (e : EngineKind) {m : M Unit} (hm : Keeps m) : Keeps (ofObjects e m) := by
  constructor <;> intro s h x t e1 <;> unfold ofObjects at e1 <;> split at e1
  · cases e1
  · exact hm.ok s h _ _ e1
  · cases e1; exact hm.error s h _ _ ‹_›
  · exact hm.error s h _ _ e1

@[simp] theorem blkOp_ok {α : Type} (w : BitVec 32) {c : M α} {b : α → M Unit} (hc : Keeps c) (hb : ∀ x, Keeps (b x)) {s : State}
    (h : s.MemOk) : OutOk (blkOp w c b s) := by
  unfold blkOp
  simp (maxDischargeDepth := 16) [*]

@[simp] theorem keeps_checkMetas (n : Nat) : Keeps (checkMetas n) := by
  unfold checkMetas
  repeat' first
    | with_reducible apply keeps_closing
    | with_reducible apply keeps_retry
    | with_reducible apply keeps_bind
    | with_reducible apply keeps_ite
    | with_reducible apply keeps_update
    | intro _
    | split
    | dsimp only
  all_goals simp (maxDischargeDepth := 16) [*]

@[simp] theorem keeps_checkMeta (n : Nat) : Keeps (checkMeta n) := by
  unfold checkMeta
  refine keeps_bind keeps_get fun s => ?_
  split <;> simp (maxDischargeDepth := 16)

@[simp] theorem keeps_takeFree : Keeps takeFree := by
  unfold takeFree
  repeat' first
    | with_reducible apply keeps_closing
    | with_reducible apply keeps_retry
    | with_reducible apply keeps_bind
    | with_reducible apply keeps_ite
    | with_reducible apply keeps_update
    | intro _
    | split
    | dsimp only
  all_goals simp (maxDischargeDepth := 16) [*]

@[simp] theorem keeps_needBlock (id : Word) : Keeps (needBlock id) := by
  simp (maxDischargeDepth := 16) [needBlock]

@[simp] theorem keeps_balloc (a : XReg) (st : Nat) : Keeps (balloc a st) := by
  unfold balloc
  repeat' first
    | with_reducible apply keeps_closing
    | with_reducible apply keeps_retry
    | with_reducible apply keeps_bind
    | with_reducible apply keeps_ite
    | with_reducible apply keeps_update
    | intro _
    | split
    | dsimp only
  all_goals simp (maxDischargeDepth := 16) [*]

@[simp] theorem keeps_enginePlace (b : Issuer) (k : Kind) (a : Nat) : Keeps (enginePlace b k a) := by
  constructor <;> intro s h x t e <;> unfold enginePlace at e <;> repeat' split at e
  all_goals cases e
  all_goals simp (maxDischargeDepth := 16) [*]

@[simp] theorem keeps_engineBytes (loc : Loc) (n : Nat) : Keeps (engineBytes loc n) := by
  constructor <;> intro s h x t e <;> unfold engineBytes at e <;> split at e <;> rename_i e1 <;> cases e
  · exact (keeps_fetchBytes _ _ _).ok _ h _ _ e1
  · exact (keeps_fetchBytes _ _ _).error _ h _ _ e1
  · exact (keeps_fetchBytes _ _ _).error _ h _ _ e1

@[simp] theorem keeps_engineLoadSpan (b : Issuer) (l : List (Nat × Nat)) : Keeps (engineLoadSpan b l) := by
  induction l with
  | nil => simp (maxDischargeDepth := 16) [engineLoadSpan]
  | cons x xs ih =>
    unfold engineLoadSpan
    repeat' first
      | with_reducible apply keeps_closing
      | with_reducible apply keeps_retry
      | with_reducible apply keeps_bind
      | with_reducible apply keeps_ite
      | with_reducible apply keeps_update
      | intro _
      | split
      | dsimp only
    all_goals simp (maxDischargeDepth := 16) [*]

@[simp] theorem keeps_engineLoad (b : Issuer) (a n : Nat) : Keeps (engineLoad b a n) := by
  simp (maxDischargeDepth := 16) [engineLoad]

@[simp] theorem keeps_enginePut (b : Issuer) (l : List (Nat × Nat)) (bs : List Byte) : Keeps (enginePut b l bs) := by
  induction l generalizing bs with
  | nil => simp (maxDischargeDepth := 16) [enginePut]
  | cons x xs ih => simp (maxDischargeDepth := 16) +contextual [enginePut, ih]

@[simp] theorem keeps_engineSave (b : Issuer) (a : Nat) (bs : List Byte) : Keeps (engineSave b a bs) := by
  simp (maxDischargeDepth := 16) [engineSave]

@[simp] theorem keeps_forM {ε α : Type} {f : α → EStateM ε State PUnit} (hf : ∀ x, Keeps (f x)) (l : List α) : Keeps (forM l f) := by
  induction l with
  | nil => exact keeps_pure _
  | cons x xs ih => exact keeps_bind (hf x) fun _ => ih

@[simp] theorem keeps_copyBlock (i : Issuer) (a b : Nat) : Keeps (copyBlock i a b) := by
  simp (maxDischargeDepth := 16) [copyBlock]

@[simp] theorem completeCommand_ok (b p : Issuer) (ep r c v : Word) (x : BitVec 8) {s : State} (h : s.MemOk) :
    (completeCommand b p ep r c v x s).MemOk := finishCommand_ok _ h

@[simp] theorem keeps_statusOf {m : E Unit} (hm : Keeps m) : Keeps (statusOf m) := by
  constructor <;> intro s h x t e <;> unfold statusOf at e <;> split at e <;> rename_i e1 <;> cases e
  · exact hm.ok s h _ _ e1
  · exact hm.error s h _ _ e1
  · exact hm.error s h _ _ e1
  · exact h

@[simp] theorem bcowDone_ok {s : State} (h : s.MemOk) : (bcowDone s).MemOk := by
  unfold bcowDone; dsimp only
  split
  · split
    · exact h
    · rw [modHart_ok]
      split
      · exact h
      · exact postEngine_ok _ _ _ _ _ _ h
  · exact h

@[simp] theorem keeps_promotionRecord (a : Word) : Keeps (promotionRecord a) := by
  simp (maxDischargeDepth := 16) [promotionRecord]

@[simp] theorem keeps_metaReady (id : Nat) : Keeps (metaReady id) := by
  constructor <;> intro s h x t e <;> unfold metaReady at e <;> split at e <;> cases e
  all_goals exact h

@[simp] theorem keeps_promote (p : Promotion) : Keeps (promote p) := by
  simp (maxDischargeDepth := 16) [promote]

@[simp] theorem askPromotion_ok (p : Promotion) (k n : Nat) {s : State} (h : s.MemOk) : (askPromotion p k n s).MemOk := by
  unfold askPromotion
  split
  · exact h
  · exact h

@[simp] theorem endPromotion_ok (p : Promotion) (c : BitVec 8) {s : State} (h : s.MemOk) : (endPromotion p c s).MemOk := by
  unfold endPromotion; dsimp only
  rw [wakeAll_memOk]
  exact ok_foldl (fun _ _ => completeCommand_ok _ _ _ _ _ _ _) _ ((modPart_ok _ _).2 h)

@[simp] theorem promotionDone_ok (id : Nat) {s : State} (h : s.MemOk) : (promotionDone id s).MemOk := by
  unfold promotionDone; dsimp only
  split
  · exact h
  · have ends : ∀ (p : Promotion) (st : Nat) (c : BitVec 8) (t : State), t.MemOk →
        (endPromotion p c ((t.setMetaState p.by_ id st).withReply s.hart.reply s.hart.refused)).MemOk := fun p st c t ht =>
      endPromotion_ok _ _ ((modHart_ok _ _).2 (setMetaState_ok _ _ _ ht))
    have hv : ∀ p : Promotion, (s.withReply p.reply p.refused).MemOk := fun _ => h
    split <;> rename_i e
    · exact ends _ _ _ _ ((keeps_promote _).ok _ (hv _) _ _ e)
    · exact ends _ _ _ _ ((keeps_promote _).ok _ (hv _) _ _ e)
    · exact askPromotion_ok _ _ _ h
    · exact ends _ _ _ _ ((keeps_promote _).error _ (hv _) _ _ e)
    · exact (keeps_promote _).error _ (hv _) _ _ e

@[simp] theorem keeps_compactionRecord (a : Word) : Keeps (compactionRecord a) := by
  simp (maxDischargeDepth := 16) [compactionRecord]

@[simp] theorem keeps_entry (c : Compaction) (j : Nat) : Keeps (c.entry j) := by
  simp (maxDischargeDepth := 16) [Compaction.entry]

@[simp] theorem keeps_setEntry (c : Compaction) (j id : Nat) : Keeps (c.setEntry j id) := by
  simp (maxDischargeDepth := 16) [Compaction.setEntry]

@[simp] theorem keeps_failWith {α : Type} (c : Cause) : Keeps (failWith c : E α) := keeps_throw _

@[simp] theorem keeps_engineMeta (id : Nat) : Keeps (engineMeta id) := by
  unfold engineMeta
  repeat' first
    | with_reducible apply keeps_closing
    | with_reducible apply keeps_retry
    | with_reducible apply keeps_bind
    | with_reducible apply keeps_ite
    | with_reducible apply keeps_update
    | intro _
    | split
    | dsimp only
  all_goals simp (maxDischargeDepth := 16) [*]

@[simp] theorem keeps_residentBlock (b : Bool) (id : Nat) : Keeps (residentBlock b id) := by
  unfold residentBlock
  repeat' first
    | with_reducible apply keeps_closing
    | with_reducible apply keeps_retry
    | with_reducible apply keeps_bind
    | with_reducible apply keeps_ite
    | with_reducible apply keeps_update
    | intro _
    | split
    | dsimp only
  all_goals simp (maxDischargeDepth := 16) [*]

theorem keeps_set_from {ε α : Type} {f : State → EStateM ε State α}
    (hf : ∀ s, s.MemOk → ∀ r, f s s = r → match r with
      | .ok _ t => t.MemOk
      | .error _ t => t.MemOk) : Keeps (get >>= f) := by
  constructor
  · intro s h x t e; exact hf s h _ e
  · intro s h x t e; exact hf s h _ e

theorem keeps_set_bind {ε α : Type} {t : State} (ht : t.MemOk) {f : PUnit → EStateM ε State α} (hf : Keeps (f ⟨⟩)) :
    Keeps (set t >>= f) := by
  constructor
  · intro s _ x u e; exact hf.ok t ht x u e
  · intro s _ x u e; exact hf.error t ht x u e

/-- What reads the state, which has the form, and may put a state made from it back. -/
theorem keeps_get_then {ε α : Type} {f : State → EStateM ε State α} (hf : ∀ s, s.MemOk → Keeps (f s)) : Keeps (get >>= f) := by
  constructor
  · intro s h x t e; exact (hf s h).ok s h x t e
  · intro s h x t e; exact (hf s h).error s h x t e

@[simp] theorem keeps_tryCatch {ε α : Type} {m : EStateM ε State α} {f : ε → EStateM ε State α} (hm : Keeps m)
    (hf : ∀ x, Keeps (f x)) : Keeps (tryCatch m f) := by
  have unfold_try : ∀ s, (tryCatch m f : EStateM ε State α) s = match m s with
      | .error e t => f e t
      | .ok x t => .ok x t := by
    intro s
    show EStateM.tryCatch m f s = _
    unfold EStateM.tryCatch
    cases m s <;> rfl
  constructor
  · intro s h x t e
    rw [unfold_try] at e
    split at e
    · exact (hf _).ok _ (hm.error s h _ _ ‹_›) _ _ e
    · cases e; exact hm.ok s h _ _ ‹_›
  · intro s h x t e
    rw [unfold_try] at e
    split at e
    · exact (hf _).error _ (hm.error s h _ _ ‹_›) _ _ e
    · cases e

@[simp] theorem keeps_makePrivate (c : Compaction) (j : Nat) : Keeps (c.makePrivate j) := by
  unfold Compaction.makePrivate
  refine keeps_bind (by simp) fun _ => keeps_bind (by simp) fun _ => keeps_ite (by simp) ?_
  refine keeps_get_then fun s h => ?_
  split
  · exact keeps_throw _
  · exact keeps_failWith _
  · exact keeps_failWith _
  · refine keeps_set_bind (setMeta_ok _ _ _ (setMeta_ok _ _ _ h)) (keeps_bind ?_ fun _ => ?_)
    · exact keeps_tryCatch (keeps_copyBlock _ _ _) fun _ => keeps_bind (keeps_modify fun _ => setMetaState_ok _ _ _) fun _ => keeps_throw _
    · simp

@[simp] theorem keeps_moveOne (c : Compaction) (k : Nat) : Keeps (c.moveOne k) := by simp (maxDischargeDepth := 16) [Compaction.moveOne]

@[simp] theorem keeps_withdraw (c : Compaction) (j : Nat) : Keeps (c.withdraw j) := by
  unfold Compaction.withdraw
  refine keeps_bind (by simp) fun _ => keeps_ite (by simp) (keeps_get_then fun s h => keeps_bind (by simp) fun _ => ?_)
  repeat' split
  · simp
  · simp
  · exact keeps_set_bind (by simp (maxDischargeDepth := 16) [*]) (by simp)

@[simp] theorem keeps_work (c : Compaction) : Keeps c.work := by
  unfold Compaction.work; dsimp only
  split <;> simp (maxDischargeDepth := 16)

@[simp] theorem keeps_accept (c : Compaction) : Keeps c.accept := by
  simp (maxDischargeDepth := 16) [Compaction.accept]

@[simp] theorem keeps_run (c : Compaction) : Keeps c.run := by
  constructor <;> intro s h x t e <;> unfold Compaction.run at e <;> split at e <;> rename_i e1
  · exact (keeps_accept _).ok _ ((keeps_work _).ok _ h _ _ e1) _ _ e
  · exact (keeps_accept _).ok _ ((keeps_work _).error _ h _ _ e1) _ _ e
  · cases e
  · exact (show Keeps (queueUp .blk .promotion) by simp).ok _ h _ _ e
  · exact (keeps_accept _).error _ ((keeps_work _).ok _ h _ _ e1) _ _ e
  · exact (keeps_accept _).error _ ((keeps_work _).error _ h _ _ e1) _ _ e
  · cases e; exact h
  · exact (show Keeps (queueUp .blk .promotion) by simp).error _ h _ _ e

@[simp] theorem compactionDone_ok {s : State} (h : s.MemOk) : (compactionDone s).MemOk := by
  unfold compactionDone
  split
  · exact h
  · exact completeCommand_ok _ _ _ _ _ _ _ ((modPart_ok _ _).2 h)

@[simp] theorem reclaimNow_ok {s : State} (h : s.MemOk) : (reclaimNow s).MemOk := by
  unfold reclaimNow; dsimp only
  rw [wakeAll_memOk, modPart_ok]
  split
  · exact ok_foldl (fun _ _ => engineStore_ok _ _ _ _) _ h
  · exact h

/-! ## Span objects -/

@[simp] theorem touchStorage_ok (x : IxObj) {s : State} (h : s.MemOk) : (touchStorage x s).MemOk := by
  exact ok_foldl (fun _ _ => engineStore_ok _ _ _ _) _ h

@[simp] theorem keeps_checkStorage (l : List IxObj) : Keeps (checkStorage l) := by
  unfold checkStorage
  repeat' first
    | with_reducible apply keeps_closing
    | with_reducible apply keeps_retry
    | with_reducible apply keeps_bind
    | with_reducible apply keeps_ite
    | with_reducible apply keeps_update
    | intro _
    | split
    | dsimp only
  all_goals simp (maxDischargeDepth := 16) [*]

@[simp] theorem keeps_smallRecord (a : Word) (n : Nat) : Keeps (smallRecord a n) := by
  simp (maxDischargeDepth := 16) [smallRecord]

@[simp] theorem keeps_readTokens (a : Word) (n : Nat) : Keeps (readTokens a n) := by
  unfold readTokens
  repeat' first
    | with_reducible apply keeps_closing
    | with_reducible apply keeps_retry
    | with_reducible apply keeps_bind
    | with_reducible apply keeps_ite
    | with_reducible apply keeps_update
    | intro _
    | split
    | dsimp only
  all_goals simp (maxDischargeDepth := 16) [*]

@[simp] theorem keeps_tokenRun (a : Word) : Keeps (tokenRun a) := by
  simp (maxDischargeDepth := 16) [tokenRun]

@[simp] theorem keeps_storePages (l : List (Nat × Nat)) : Keeps (storePages l) := by
  induction l with
  | nil => simp (maxDischargeDepth := 16) [storePages]
  | cons x xs ih =>
    unfold storePages
    repeat' first
      | with_reducible apply keeps_closing
      | with_reducible apply keeps_retry
      | with_reducible apply keeps_bind
      | with_reducible apply keeps_ite
      | with_reducible apply keeps_update
      | intro _
      | split
      | dsimp only
    all_goals simp (maxDischargeDepth := 16) [*]

@[simp] theorem keeps_needReadable (h : Word) : Keeps (needReadable h) := by
  unfold needReadable
  repeat' first
    | with_reducible apply keeps_closing
    | with_reducible apply keeps_retry
    | with_reducible apply keeps_bind
    | with_reducible apply keeps_ite
    | with_reducible apply keeps_update
    | intro _
    | split
    | dsimp only
  all_goals simp (maxDischargeDepth := 16) [*]

@[simp] theorem keeps_needOwned (h : Word) : Keeps (needOwned h) := by
  simp (maxDischargeDepth := 16) [needOwned]

@[simp] theorem keeps_needCursor (h : Word) : Keeps (needCursor h) := by
  unfold needCursor
  repeat' first
    | with_reducible apply keeps_closing
    | with_reducible apply keeps_retry
    | with_reducible apply keeps_bind
    | with_reducible apply keeps_ite
    | with_reducible apply keeps_update
    | intro _
    | split
    | dsimp only
  all_goals simp (maxDischargeDepth := 16) [*]

@[simp] theorem spanOp_ok {α : Type} (w : BitVec 32) {c : M α} {b : α → M Unit} (hc : Keeps c) (hb : ∀ x, Keeps (b x)) {s : State}
    (h : s.MemOk) : OutOk (spanOp w c b s) := by
  unfold spanOp
  simp (maxDischargeDepth := 16) [*]

@[simp] theorem keeps_objectRecord (a : Word) : Keeps (objectRecord a) := by
  simp (maxDischargeDepth := 16) [objectRecord]

@[simp] theorem keeps_linkedObject (h : Word) : Keeps (linkedObject h) := by
  unfold linkedObject
  repeat' first
    | with_reducible apply keeps_closing
    | with_reducible apply keeps_retry
    | with_reducible apply keeps_bind
    | with_reducible apply keeps_ite
    | with_reducible apply keeps_update
    | intro _
    | split
    | dsimp only
  all_goals simp (maxDischargeDepth := 16) [*]

@[simp] theorem keeps_proposalRecord (a : Word) : Keeps (proposalRecord a) := by
  simp (maxDischargeDepth := 16) [proposalRecord]

@[simp] theorem writeOutput_ok (g : Hart) {s : State} (h : s.MemOk) : (writeOutput g s).MemOk := by
  unfold writeOutput
  split
  · rw [modHartOf_memOk]; exact ok_foldl (fun _ _ => engineStore_ok _ _ _ _) _ h
  · exact h

/-! ## Launches -/

@[simp] theorem keeps_launchPages (l : List (Nat × Nat)) : Keeps (launchPages l) := by
  induction l with
  | nil => simp (maxDischargeDepth := 16) [launchPages]
  | cons x xs ih =>
    unfold launchPages
    repeat' first
      | with_reducible apply keeps_closing
      | with_reducible apply keeps_retry
      | with_reducible apply keeps_bind
      | with_reducible apply keeps_ite
      | with_reducible apply keeps_update
      | intro _
      | split
      | dsimp only
    all_goals simp (maxDischargeDepth := 16) [*]

@[simp] theorem keeps_needLaunch (h : Word) : Keeps (needLaunch h) := by
  unfold needLaunch
  repeat' first
    | with_reducible apply keeps_closing
    | with_reducible apply keeps_retry
    | with_reducible apply keeps_bind
    | with_reducible apply keeps_ite
    | with_reducible apply keeps_update
    | intro _
    | split
    | dsimp only
  all_goals simp (maxDischargeDepth := 16) [*]

@[simp] theorem keeps_needTask (l : Launch) : Keeps (needTask l) := by
  unfold needTask
  repeat' first
    | with_reducible apply keeps_closing
    | with_reducible apply keeps_retry
    | with_reducible apply keeps_bind
    | with_reducible apply keeps_ite
    | with_reducible apply keeps_update
    | intro _
    | split
    | dsimp only
  all_goals simp (maxDischargeDepth := 16) [*]

@[simp] theorem keeps_taskCommand (l : Launch) {b : M Unit} (hb : Keeps b) : Keeps (taskCommand l b) := by
  unfold taskCommand
  split <;> simp (maxDischargeDepth := 16) [*]

@[simp] theorem keeps_launchCommand (l : Launch) (a : List LaunchState) {b : M Unit} (hb : Keeps b) : Keeps (launchCommand l a b) := by
  unfold launchCommand
  split <;> simp (maxDischargeDepth := 16) [*]

@[simp] theorem writePages_ok (b : Issuer) (l : List (Nat × Nat)) (bs : List Byte) {s : State} (h : s.MemOk) :
    (writePages b l bs s).MemOk := by
  induction l generalizing bs s with
  | nil => exact h
  | cons x xs ih => exact ih _ (engineStore_ok _ _ _ _ h)

@[simp] theorem parkedToSaved_ok (l : Launch) {s : State} (h : s.MemOk) : (parkedToSaved l s).MemOk := by
  unfold parkedToSaved
  repeat' split
  all_goals simp (maxDischargeDepth := 16) [*]

@[simp] theorem saveReleased_mem (l : Launch) (s : State) : (saveReleased l s).mem = s.mem := by
  unfold saveReleased; dsimp only
  split <;> rfl

@[simp] theorem saveWritten_ok (l : Launch) {s : State} (h : s.MemOk) : (saveWritten l s).MemOk :=
  ok_of_mem ((setLaunch_ok _ _).2 (writePages_ok _ _ _ h)) (saveReleased_mem ..)

@[simp] theorem keeps_readPages (a : Nat) (l : List (Nat × Nat)) : Keeps (readPages a l) := by
  induction l generalizing a with
  | nil => exact keeps_pure _
  | cons x xs ih => exact keeps_bind (keeps_fetchBytes _ _ _) fun _ => keeps_bind (ih _) fun _ => keeps_pure _

/-! ## Packets -/

@[simp] theorem performRead_ok (p : Packet) {s : State} (h : s.MemOk) : (performRead p s).MemOk := by
  unfold performRead; dsimp only
  repeat' split
  all_goals simp (maxDischargeDepth := 16) [*]

@[simp] theorem performWrite_ok (p : Packet) {s : State} (h : s.MemOk) : (performWrite p s).MemOk := by
  unfold performWrite
  repeat' split
  all_goals simp (maxDischargeDepth := 16) [*]

@[simp] theorem performAtomic_ok (p : Packet) {s : State} (h : s.MemOk) : (performAtomic p s).MemOk := by
  unfold performAtomic; dsimp only
  repeat' split
  all_goals first | exact h | simp (maxDischargeDepth := 16) [*]

theorem takeRequest_ok {k : Byte} {p : Packet} {s t : State} {r : Request} (e : takeRequest k p s = some (r, t)) (h : s.MemOk) :
    t.MemOk := by
  unfold takeRequest at e
  rw [Option.map_eq_some_iff] at e
  obtain ⟨x, -, e⟩ := e
  cases e
  exact h

@[simp] theorem settleStores_ok {s : State} (h : s.MemOk) : (settleStores s).MemOk := by
  unfold settleStores
  split
  · exact h
  · exact endAfterStores_ok _ h
  · exact h

@[simp] theorem ackHart_ok (r : Request) (b : Bool) {s : State} (h : s.MemOk) : (ackHart r b s).MemOk := by
  unfold ackHart; dsimp only
  split
  · split
    · exact settleStores_ok (drain_ok (postHart_ok _ _ _ _ _ _ h))
    · exact settleStores_ok (drain_ok h)
  · exact h

@[simp] theorem answerHart_ok (r : Request) (p : Packet) {s : State} (h : s.MemOk) : (answerHart r p s).MemOk := by
  unfold answerHart; dsimp only
  split
  · exact ackHart_ok _ _ h
  · split
    · exact endAfterStores_ok _ ((modHart_ok _ _).2 h)
    · exact (modHart_ok _ _).2 h

@[simp] theorem settleCompletions_ok {s : State} (h : s.MemOk) : (settleCompletions s).MemOk :=
  ok_foldl (fun _ _ => (tryFree_memOk ..).2) _ (ok_foldl (fun _ _ => settleCompletion_ok _) _ h)

@[simp] theorem engineRefused_ok (b : Issuer) (w : Option (Word × Word)) (a : Word) {s : State} (h : s.MemOk) :
    (engineRefused b w a s).MemOk := by
  unfold engineRefused
  split
  · exact postEngine_ok _ _ _ _ _ _ h
  · exact (modPart_ok _ _).2 (postEngine_ok _ _ _ _ _ _ h)

@[simp] theorem ackPayload_ok (pid : PartId) (b : Issuer) (r : Bool) (a : Word) {s : State} (h : s.MemOk) :
    (ackPayload pid b r a s).MemOk := by
  refine asHart_ok _ _ (fun t ht => ?_) (inPart_ok _ (fun t ht => settleCompletions_ok ?_) h)
  · split
    · exact settleStores_ok ht
    · exact ht
  · split
    · exact engineRefused_ok _ _ _ ht
    · exact ht

@[simp] theorem performAck_ok (p : Packet) {s : State} (h : s.MemOk) : (performAck p s).MemOk := by
  unfold performAck; dsimp only
  split
  · exact h
  · rename_i e
    have h1 := takeRequest_ok e h
    split
    · exact asHart_ok _ _ (fun _ => ackHart_ok _ _) h1
    · exact ackPayload_ok _ _ _ _ h1
    · split
      · exact inPart_ok _ (fun _ => engineRefused_ok _ _ _) h1
      · exact h1
    · split
      · exact inPart_ok _ (fun _ => post_ok _ _) h1
      · exact h1
    · exact h1

@[simp] theorem hostTurns_ok (n : Nat) {s : State} (h : s.MemOk) : (hostTurns n s).MemOk := by
  induction n generalizing s with
  | zero => exact h
  | succ n ih =>
    unfold hostTurns; dsimp only
    repeat' split
    all_goals first
      | exact h
      | exact ih ((modPart_ok _ _).2 h)
      | exact ih ((modPart_ok _ _).2 (poke_ok _ _ h))

@[simp] theorem settleHost_ok {s : State} (h : s.MemOk) : (settleHost s).MemOk := hostTurns_ok _ h

@[simp] theorem performHostWrite_ok (p : Packet) {s : State} (h : s.MemOk) : (performHostWrite p s).MemOk := by
  unfold performHostWrite
  split
  · exact inPart_ok _ (fun _ ht => settleHost_ok ((modPart_ok _ _).2 ht)) h
  · exact h

@[simp] theorem performResponse_ok (k : Byte) (p : Packet) {s : State} (h : s.MemOk) : (performResponse k p s).MemOk := by
  unfold performResponse
  split
  · exact h
  · rename_i e
    have h1 := takeRequest_ok e h
    split
    · exact asHart_ok _ _ (fun _ => answerHart_ok _ _) h1
    · exact inPart_ok _ (fun _ ht => ht) h1
    · exact inPart_ok _ (fun _ ht => settleCompletions_ok ((modPart_ok _ _).2 ht)) h1
    · exact inPart_ok _ (fun _ ht => settleHost_ok ((modPart_ok _ _).2 ht)) h1
    · exact h1

@[simp] theorem startHart_ok (m : Start) {s : State} (h : s.MemOk) : (startHart m s).MemOk := by
  unfold startHart; dsimp only
  exact arbitrateGang_ok _ _ h

@[simp] theorem startMessage_ok (j : BitVec 16) (bs : List Byte) {s : State} (h : s.MemOk) : (startMessage j bs s).MemOk := by
  unfold startMessage
  split
  · exact h
  · refine inPart_ok _ (fun t ht => ?_) h
    dsimp only
    rw [reply_memOk]
    split
    · exact startHart_ok _ ht
    · exact ht

@[simp] theorem perform_ok (p : Packet) {s : State} (h : s.MemOk) : (perform p s).MemOk := by
  unfold perform
  split
  · exact performRead_ok _ h
  · exact performResponse_ok _ _ h
  · exact performWrite_ok _ h
  · exact performAck_ok _ h
  · exact performAtomic_ok _ h
  · exact performResponse_ok _ _ h
  · exact performHostWrite_ok _ h
  · exact startMessage_ok _ _ h
  · exact h
  · exact h

@[simp] theorem performNext_ok (p : Packet) {s : State} (h : s.MemOk) : (performNext p s).MemOk := by simp (maxDischargeDepth := 16) [performNext, *]

@[simp] theorem deliverHeld_ok (n : Nat) {s : State} (h : s.MemOk) : (deliverHeld n s).MemOk := by
  induction n generalizing s with
  | zero => exact h
  | succ n ih =>
    unfold deliverHeld
    split
    · exact h
    · exact ih (by simp (maxDischargeDepth := 16) [*])

@[simp] theorem deliver_ok (p : Packet) {s : State} (h : s.MemOk) : (deliver p s).MemOk := by
  unfold deliver; dsimp only
  repeat' split
  all_goals simp (maxDischargeDepth := 16) [*]

/-! ## The gang switch -/

@[simp] theorem writeJobArea_ok (j : Job) {s : State} (h : s.MemOk) : (writeJobArea j s).MemOk := by
  unfold writeJobArea; dsimp only
  split
  · exact h
  · exact ok_foldl (fun _ _ => poke_ok _ _) _ (ok_foldl (fun _ _ => poke_ok _ _) _ (poke_ok _ _ h))

@[simp] theorem completeJob_ok (j : Job) (k : Nat) {s : State} (h : s.MemOk) : (completeJob j k s).MemOk := by
  unfold completeJob
  exact inPart_ok _ (fun _ => finishCommand_ok _) h

@[simp] theorem tellJob_mem (op : JobOp) (tag : BitVec 16) (bs : List Byte) (s : State) : (tellJob op tag bs s).mem = s.mem :=
  foldl_mem (by intros; rfl) _ _

@[simp] theorem jobLeave_mem (tag : BitVec 16) (s : State) : (jobLeave tag s).mem = s.mem := by
  unfold jobLeave
  split
  · rfl
  · exact (yieldHalls_mem ..).trans (foldl_mem (fun _ _ => requestOff_mem ..) _ _)

@[simp] theorem beginSwitch_mem (j : Job) (s : State) : (beginSwitch j s).mem = s.mem := (jobLeave_mem ..).trans rfl

@[simp] theorem stopNow_mem (tag : BitVec 16) (s : State) : (stopNow tag s).mem = s.mem := by
  unfold stopNow; dsimp only
  split
  · rfl
  · exact stopJob_mem ..

@[simp] theorem noteOff_mem (tag node : BitVec 16) (s : State) : (noteOff tag node s).mem = s.mem := by
  unfold noteOff; dsimp only
  split
  · exact (stopNow_mem ..).trans (tellJob_mem ..)
  · rfl

@[simp] theorem jobOut_ok (tag : BitVec 16) (d : Bool) {s : State} (h : s.MemOk) : (jobOut tag d s).MemOk :=
  (wakeJob_memOk _).2 (writeJobArea_ok _ h)

@[simp] theorem trySwitched_ok (tag : BitVec 16) {s : State} (h : s.MemOk) : (trySwitched tag s).MemOk := by
  unfold trySwitched; dsimp only
  split
  · exact completeJob_ok _ _ (jobOut_ok _ _ (ok_of_mem h (tellJob_mem ..)))
  · exact h

@[simp] theorem noteCounts_ok (tag : BitVec 16) (c : Counts) {s : State} (h : s.MemOk) : (noteCounts tag c s).MemOk := by
  unfold noteCounts
  extract_lets j new j1 s1 s2
  have h1 : s1.MemOk := ok_of_mem (t := s1) h (tellJob_mem ..)
  have h2 : s2.MemOk := by
    unfold s2
    split
    · exact inPart_ok _ (fun _ => postLate_ok _) h1
    · exact h1
  split
  · exact trySwitched_ok _ h2
  · split
    · exact jobOut_ok _ _ (ok_of_mem h2 (tellJob_mem ..))
    · exact h2

@[simp] theorem reportCounts_ok (tag : BitVec 16) {s : State} (h : s.MemOk) : (reportCounts tag s).MemOk := by
  unfold reportCounts; dsimp only
  split
  · exact noteCounts_ok _ _ h
  · exact h

@[simp] theorem appendLate_ok (r : Swept) {s : State} (h : s.MemOk) : (appendLate r s).MemOk := by
  have h1 := fun b j => inPart_ok b (fun _ => postLate_ok r.packet.job) ((setJob_ok s j).2 h)
  unfold appendLate; dsimp only
  repeat' split
  all_goals first
    | exact h
    | exact reportCounts_ok _ h
    | exact h1 _ _
    | exact reportCounts_ok _ (h1 _ _)
    | exact writeJobArea_ok _ h
    | exact writeJobArea_ok _ (h1 _ _)
    | exact reportCounts_ok _ (writeJobArea_ok _ h)
    | exact reportCounts_ok _ (writeJobArea_ok _ (h1 _ _))

@[simp] theorem stoppedPacket_ok (r : PortRef) (p : Packet) {s : State} (h : s.MemOk) : (stoppedPacket r p s).MemOk := by
  unfold stoppedPacket; dsimp only
  split
  · exact h
  · exact appendLate_ok _ h

@[simp] theorem toBuffer_mem (r : PortRef) (p : Packet) (s : State) : (toBuffer r p s).mem = s.mem := rfl

@[simp] theorem reinject_ok (r : Swept) {s : State} (h : s.MemOk) : (reinject r s).MemOk := by
  unfold reinject
  repeat' split
  · exact h
  · exact deliver_ok _ h
  · exact h

@[simp] theorem arbitrateJob_ok (tag : BitVec 16) {s : State} (h : s.MemOk) : (arbitrateJob tag s).MemOk := by
  unfold arbitrateJob
  split
  · exact h
  · exact arbitrateAll_ok _ h

@[simp] theorem restoreHarts_ok (tag : BitVec 16) {s : State} (h : s.MemOk) : (restoreHarts tag s).MemOk := by
  unfold restoreHarts
  split
  · exact h
  · exact arbitrateJob_ok _ h

theorem enterAll_ok (left l : List Swept) {s : State} (h : s.MemOk) : (enterAll left l s).1.MemOk := by
  induction l generalizing left s with
  | nil => exact h
  | cons r rest ih =>
    unfold enterAll
    split
    · exact ih _ (reinject_ok _ h)
    · exact ih _ h

@[simp] theorem readmit_ok (tag : BitVec 16) {s : State} (h : s.MemOk) : (readmit tag s).MemOk := by
  unfold readmit; dsimp only
  split
  · exact restoreHarts_ok _ h
  · exact h

@[simp] theorem settleEntering_ok {s : State} (h : s.MemOk) : (settleEntering s).MemOk :=
  ok_foldl (fun _ _ => readmit_ok _) _ ((modDev_ok _ _).2 (enterAll_ok _ _ h))

@[simp] theorem beginResume_ok (j : Job) {s : State} (h : s.MemOk) : (beginResume j s).MemOk := by
  unfold beginResume; dsimp only
  split
  · exact h
  · exact settleEntering_ok h

@[simp] theorem jobRuns_ok (tag : BitVec 16) {s : State} (h : s.MemOk) : (jobRuns tag s).MemOk := arbitrateJob_ok _ h

@[simp] theorem tryResumed_ok (tag : BitVec 16) {s : State} (h : s.MemOk) : (tryResumed tag s).MemOk := by
  unfold tryResumed; dsimp only
  split
  · exact completeJob_ok _ _ (jobRuns_ok _ (ok_of_mem h (tellJob_mem ..)))
  · exact h

@[simp] theorem noteBack_ok (tag node : BitVec 16) {s : State} (h : s.MemOk) : (noteBack tag node s).MemOk :=
  tryResumed_ok _ h

@[simp] theorem switchOut_ok (j : Job) {s : State} (h : s.MemOk) : (switchOut j s).MemOk :=
  ok_of_mem h ((tellJob_mem ..).trans (beginSwitch_mem ..))

@[simp] theorem resumeJob_ok (j : Job) {s : State} (h : s.MemOk) : (resumeJob j s).MemOk :=
  beginResume_ok _ (ok_of_mem h (tellJob_mem ..))

@[simp] theorem noteReconfigured_ok (tag node : BitVec 16) {s : State} (h : s.MemOk) : (noteReconfigured tag node s).MemOk := by
  unfold noteReconfigured; dsimp only
  split <;> exact h

@[simp] theorem doJobOp_ok (op : Nat) (tag src : BitVec 16) (bs : List Byte) {s : State} (h : s.MemOk) :
    (doJobOp op tag src bs s).MemOk := by
  unfold doJobOp
  extract_lets j here
  split
  · split
    · exact ok_of_mem h (beginSwitch_mem ..)
    · exact h
  · split
    · exact beginResume_ok _ h
    · exact h
  · split
    · exact ok_of_mem h (noteOff_mem ..)
    · exact h
  · split
    · exact noteCounts_ok _ _ h
    · split
      · exact h
      · exact h
  · split
    · exact noteBack_ok _ _ h
    · exact h
  · split
    · exact ok_of_mem h (stopNow_mem ..)
    · exact h
  · split
    · exact jobOut_ok _ _ h
    · exact h
  · split
    · exact jobRuns_ok _ h
    · exact h
  · split
    · exact noteReconfigured_ok _ _ h
    · exact h
  · exact h

@[simp] theorem settleMgmt_ok {s : State} (h : s.MemOk) : (settleMgmt s).MemOk := by
  refine ok_foldl (fun t p ht => ?_) _ (s := s.modDev _) h
  split
  · exact doJobOp_ok _ _ _ _ ht
  · exact ht

@[simp] theorem keeps_checkCword (a : Word) : Keeps (checkCword a) := by simp (maxDischargeDepth := 16) [checkCword]

@[simp] theorem keeps_switchRecord (a : Word) : Keeps (switchRecord a) := by
  unfold switchRecord
  repeat' first
    | with_reducible apply keeps_closing
    | with_reducible apply keeps_retry
    | with_reducible apply keeps_bind
    | with_reducible apply keeps_ite
    | with_reducible apply keeps_update
    | intro _
    | split
    | dsimp only
  all_goals simp (maxDischargeDepth := 16) [*]

@[simp] theorem switchOp_ok (w : BitVec 32) (a : Word) (f g : JobState → Bool) {acc : Job → State → State}
    (ha : ∀ j s, s.MemOk → (acc j s).MemOk) {s : State} (h : s.MemOk) : OutOk (switchOp w a f g acc s) := by
  unfold switchOp
  refine engineOp_ok _ ?_ h
  repeat' first
    | with_reducible apply keeps_enter
    | with_reducible apply keeps_bind
    | with_reducible apply keeps_ite
    | with_reducible apply keeps_update
    | intro _
  all_goals simp (maxDischargeDepth := 16) [*]

/-! ## The management plane -/

@[simp] theorem writePage_ok {s : State} (h : s.MemOk) : (writePage s).MemOk :=
  ok_foldl (fun _ _ => poke_ok _ _) _ (wipe_ok _ _ h)

@[simp] theorem rewritePage_ok {s : State} (h : s.MemOk) : (rewritePage s).MemOk := by simp (maxDischargeDepth := 16) [rewritePage, *]

@[simp] theorem scrubHall_ok (n : Nat) {s : State} (h : s.MemOk) : (scrubHall n s).MemOk := by simp (maxDischargeDepth := 16) [scrubHall, *]

@[simp] theorem movePad_ok (a b : Nat) {s : State} (h : s.MemOk) : (movePad a b s).MemOk := by
  unfold movePad; dsimp only
  rw [modDev_ok]
  exact ok_foldl (fun _ _ => poke_ok _ _) _ (wipe_ok _ _ h)

@[simp] theorem removeHall_ok (a b : Nat) {s : State} (h : s.MemOk) : (removeHall a b s).MemOk := by
  unfold removeHall; dsimp only
  split
  · refine arbitrateAll_ok _ (rewritePage_ok (scrubHall_ok _ ((moveHall_memOk ..).2 (movePad_ok _ _ ?_))))
    exact ok_foldl (fun s x h => (drainHart_memOk s x).2 h) _ h
  · exact h

@[simp] theorem addHall_ok (n : Nat) {s : State} (h : s.MemOk) : (addHall n s).MemOk := by
  unfold addHall
  split <;> simp (maxDischargeDepth := 16) [*]

end Sys2Proof.Machine
end

