-- ==== Sys2Proof/Laws/MemExec.lean ====
section
/-! SUPPORT. Every meaning keeps the canonical form of memory: one lemma for each shape of instruction, then one for each meaning. -/

set_option Elab.async false
set_option linter.all false

namespace Sys2Proof.Machine

/-! ## What writes a completion word by the way -/

@[simp] theorem writePrio_ok (v : Word) {s : State} (h : s.MemOk) : (writePrio v s).MemOk := by
  unfold writePrio
  split
  · exact arbitrateGang_ok _ _ h
  · exact h

@[simp] theorem crWrite_ok (n : BitVec 12) (v : Word) {s : State} (h : s.MemOk) : (crWrite n v s).MemOk := by
  unfold crWrite
  split <;> try split
  all_goals first
    | exact writePrio_ok _ h
    | simp (maxDischargeDepth := 16) [*]

@[simp] theorem spawn_ok (id hall : Nat) (r : SpawnRec) {s : State} (h : s.MemOk) : (spawn id hall r s).MemOk :=
  arbitrateGang_ok _ _ ((joinGang_memOk ..).2 h)

@[simp] theorem launch_ok (rd : XReg) (b : Issuer) (r : LaunchRec) (pages : List (Nat × Nat)) (cword : Loc) {s : State} (h : s.MemOk) :
    (launch rd b r pages cword s).MemOk := by
  unfold launch
  split
  · exact h
  · split
    · exact h
    · exact (finish_ok ..).2 (ok_foldl (fun _ _ => spawn_ok _ _ _) _ h)

@[simp] theorem reenter_ok (l : Launch) {s : State} (h : s.MemOk) : (reenter l s).MemOk :=
  arbitrateAll_ok _ ((releaseTasks_memOk ..).2 h)

@[simp] theorem settlePhase_ok (key : Nat) (s : State) : (settlePhase key s).MemOk ↔ s.MemOk := Iff.rfl

@[simp] theorem handOn_ok (b : Hart) {s : State} (h : s.MemOk) : (handOn b s).MemOk :=
  ok_foldl (fun _ _ h => (handOut_memOk ..).2 h) _ h

@[simp] theorem renewPhase_ok (p : PartId) (key : Nat) {s : State} (h : s.MemOk) : (renewPhase p key s).MemOk :=
  inPart_ok _ (fun _ h => h) h

/-! ## Packets on the move -/

@[simp] theorem modPort_ok (s : State) (r : PortRef) (f : Port → Port) : (s.modPort r f).MemOk ↔ s.MemOk := Iff.rfl

@[simp] theorem moveOn_ok (r : PortRef) (f : Packet → Bool) {s : State} (h : s.MemOk) : (moveOn r f s).MemOk := by
  unfold moveOn
  split
  · exact h
  · exact (modDev_ok _ _).2 (settleEntering_ok ((sendOut_memOk ..).2 h))

@[simp] theorem transit_ok (r : PortRef) (p : Packet) {s : State} (h : s.MemOk) : (transit r p s).MemOk :=
  settleEntering_ok h

@[simp] theorem passOn_ok (r : PortRef) (p : Packet) {s : State} (h : s.MemOk) : (passOn r p s).MemOk := by
  unfold passOn
  split
  · exact deliver_ok _ h
  · exact transit_ok _ _ h

@[simp] theorem comeIn_ok (r : PortRef) (p : Packet) {s : State} (h : s.MemOk) : (comeIn r p s).MemOk := by
  unfold comeIn; dsimp only
  repeat' split
  · exact passOn_ok _ _ ((reply_memOk ..).2 h)
  · exact passOn_ok _ _ h
  · exact transit_ok _ _ h
  · exact stoppedPacket_ok _ _ h

/-! ## The shapes -/

@[simp] theorem run_outOk {m : M Unit} (hm : Keeps m) {s : State} (h : s.MemOk) : OutOk (run m s) := outOk_run hm h

@[simp] theorem op3_outOk (f : Word → Word → Word) (a b c : XReg) (n : Nat) {s : State} (h : s.MemOk) : OutOk (op3 f a b c n s) := by
  unfold op3; try dsimp only
  repeat' split
  all_goals simp (maxDischargeDepth := 16) [*]

@[simp] theorem op2_outOk (f : Word → Word) (a b : XReg) {s : State} (h : s.MemOk) : OutOk (op2 f a b s) := by
  unfold op2; try dsimp only
  repeat' split
  all_goals simp (maxDischargeDepth := 16) [*]

@[simp] theorem opI_outOk (f : Word → Word → Word) (o : I15) {s : State} (h : s.MemOk) : OutOk (opI f o s) := by
  unfold opI; try dsimp only
  repeat' split
  all_goals simp (maxDischargeDepth := 16) [*]

@[simp] theorem branchOp_outOk (f : Word → Word → Bool) (o : Br) {s : State} (h : s.MemOk) : OutOk (branchOp f o s) := by
  unfold branchOp; try dsimp only
  repeat' split
  all_goals simp (maxDischargeDepth := 16) [*]

@[simp] theorem loadOp_outOk (n : Nat) (f : Nat → Word) (a : XReg) (v : Word) (len : Nat) {s : State} (h : s.MemOk) : OutOk (loadOp n f a v len s) := by
  unfold loadOp; try dsimp only
  refine outOk_run ?_ h
  repeat' first
    | with_reducible apply keeps_closing
    | with_reducible apply keeps_retry
    | with_reducible apply keeps_bind
    | with_reducible apply keeps_ite
    | with_reducible apply keeps_update
    | intro _
    | split
    | dsimp only
  all_goals simp (maxDischargeDepth := 16) [*]

@[simp] theorem storeOp_outOk (n : Nat) (o : St) {s : State} (h : s.MemOk) : OutOk (storeOp n o s) := by
  unfold storeOp; try dsimp only
  refine outOk_run ?_ h
  repeat' first
    | with_reducible apply keeps_closing
    | with_reducible apply keeps_retry
    | with_reducible apply keeps_bind
    | with_reducible apply keeps_ite
    | with_reducible apply keeps_update
    | intro _
    | split
    | dsimp only
  all_goals simp (maxDischargeDepth := 16) [*]

@[simp] theorem fopRounded_outOk (p : BitVec 1) (r : BitVec 3) (a : XReg) (f : RMode → FVal) {s : State} (h : s.MemOk) : OutOk (fopRounded p r a f s) := by
  unfold fopRounded; try dsimp only
  repeat' split
  all_goals simp (maxDischargeDepth := 16) [*]

@[simp] theorem fopToInt_outOk (f : BitVec 6) (o : F2) {s : State} (h : s.MemOk) : OutOk (fopToInt f o s) := by
  unfold fopToInt; try dsimp only
  repeat' split
  all_goals simp (maxDischargeDepth := 16) [*]

@[simp] theorem fopRel_outOk (f : FVal → FVal → Bool) (o : F3N) {s : State} (h : s.MemOk) : OutOk (fopRel f o s) := by
  unfold fopRel; try dsimp only
  repeat' split
  all_goals simp (maxDischargeDepth := 16) [*]

@[simp] theorem amoOp_outOk (op n : Nat) (o : Amo) {s : State} (h : s.MemOk) : OutOk (amoOp op n o s) := by
  unfold amoOp; try dsimp only
  refine outOk_run ?_ h
  repeat' first
    | with_reducible apply keeps_closing
    | with_reducible apply keeps_retry
    | with_reducible apply keeps_bind
    | with_reducible apply keeps_ite
    | with_reducible apply keeps_update
    | intro _
    | split
    | dsimp only
  all_goals simp (maxDischargeDepth := 16) +contextual [*]

@[simp] theorem ldaqOp_outOk (n : Nat) (o : Laq) {s : State} (h : s.MemOk) : OutOk (ldaqOp n o s) := by
  unfold ldaqOp; try dsimp only
  refine outOk_run ?_ h
  repeat' first
    | with_reducible apply keeps_closing
    | with_reducible apply keeps_retry
    | with_reducible apply keeps_bind
    | with_reducible apply keeps_ite
    | with_reducible apply keeps_update
    | intro _
    | split
    | dsimp only
  all_goals simp (maxDischargeDepth := 16) [*]

@[simp] theorem strlOp_outOk (n : Nat) (o : Srl) {s : State} (h : s.MemOk) : OutOk (strlOp n o s) := by
  unfold strlOp; try dsimp only
  refine outOk_run ?_ h
  repeat' first
    | with_reducible apply keeps_closing
    | with_reducible apply keeps_retry
    | with_reducible apply keeps_bind
    | with_reducible apply keeps_ite
    | with_reducible apply keeps_update
    | intro _
    | split
    | dsimp only
  all_goals simp (maxDischargeDepth := 16) +contextual [*]

@[simp] theorem waitOp_outOk (n : Nat) (o : R3) {s : State} (h : s.MemOk) : OutOk (waitOp n o s) := by
  unfold waitOp; try dsimp only
  refine outOk_run ?_ h
  repeat' first
    | with_reducible apply keeps_closing
    | with_reducible apply keeps_retry
    | with_reducible apply keeps_bind
    | with_reducible apply keeps_ite
    | with_reducible apply keeps_update
    | intro _
    | split
    | dsimp only
  all_goals simp (maxDischargeDepth := 16) [*]

@[simp] theorem readOp_outOk (n : BitVec 12) (a : XReg) (w : BitVec 32) {s : State} (h : s.MemOk) : OutOk (readOp n a w s) := by
  unfold readOp; try dsimp only
  repeat' split
  all_goals simp (maxDischargeDepth := 16) [*]

@[simp] theorem writeOp_outOk (n : BitVec 12) (b a : XReg) (w : BitVec 32) {s : State} (h : s.MemOk) : OutOk (writeOp n b a w s) := by
  unfold writeOp; try dsimp only
  repeat' split
  all_goals simp (maxDischargeDepth := 16) [*]

@[simp] theorem setShape_outOk (v : Word) (w : BitVec 32) {s : State} (h : s.MemOk) : OutOk (setShape v w s) := by
  unfold setShape; try dsimp only
  repeat' split
  all_goals simp (maxDischargeDepth := 16) [*]

@[simp] theorem elementwise_outOk (u : VUse) (n : Nat) (m : MReg) (a : VReg) (f : Shp → Strip → Nat → Nat → Nat) {s : State} (h : s.MemOk) : OutOk (elementwise u n m a f s) := by
  unfold elementwise; try dsimp only
  refine outOk_run ?_ h
  repeat' first
    | with_reducible apply keeps_closing
    | with_reducible apply keeps_retry
    | with_reducible apply keeps_bind
    | with_reducible apply keeps_ite
    | with_reducible apply keeps_update
    | intro _
    | split
    | dsimp only
  all_goals simp (maxDischargeDepth := 16) [*]

@[simp] theorem vload_outOk (w : BitVec 32) (m : MReg) (a : VReg) (off : Option VReg) (addr : AddrFn) {s : State} (h : s.MemOk) : OutOk (vload w m a off addr s) := by
  unfold vload; try dsimp only
  refine outOk_run ?_ h
  repeat' first
    | with_reducible apply keeps_closing
    | with_reducible apply keeps_retry
    | with_reducible apply keeps_bind
    | with_reducible apply keeps_ite
    | with_reducible apply keeps_update
    | intro _
    | split
    | dsimp only
  all_goals simp (maxDischargeDepth := 16) [*]

@[simp] theorem vstore_outOk (w : BitVec 32) (m : MReg) (a : VReg) (off : Option VReg) (addr : AddrFn) {s : State} (h : s.MemOk) : OutOk (vstore w m a off addr s) := by
  unfold vstore; try dsimp only
  refine outOk_run ?_ h
  repeat' first
    | with_reducible apply keeps_closing
    | with_reducible apply keeps_retry
    | with_reducible apply keeps_bind
    | with_reducible apply keeps_ite
    | with_reducible apply keeps_update
    | intro _
    | split
    | dsimp only
  all_goals simp (maxDischargeDepth := 16) [*]

@[simp] theorem opVVV_outOk (ad : BitVec 6 → Bool) (f : ElemOp) (w : BitVec 32) (n : Nat) (m : MReg) (a b c : VReg) (acc : Bool) {s : State} (h : s.MemOk) : OutOk (opVVV ad f w n m a b c s acc) := by
  unfold opVVV; try dsimp only
  repeat' split
  all_goals simp (maxDischargeDepth := 16) [*]

@[simp] theorem opVVX_outOk (ad : BitVec 6 → Bool) (f : ElemOp) (w : BitVec 32) (o : VVX) (acc : Bool) {s : State} (h : s.MemOk) : OutOk (opVVX ad f w o s acc) := by
  unfold opVVX; try dsimp only
  repeat' split
  all_goals simp (maxDischargeDepth := 16) [*]

@[simp] theorem opVV_outOk (ad : BitVec 6 → Bool) (f : Shp → Nat → Nat) (w : BitVec 32) (n : Nat) (m : MReg) (a b : VReg) {s : State} (h : s.MemOk) : OutOk (opVV ad f w n m a b s) := by
  unfold opVV; try dsimp only
  repeat' split
  all_goals simp (maxDischargeDepth := 16) [*]

@[simp] theorem opWide_outOk (f : WideOp) (w : BitVec 32) (m : MReg) (a b : VReg) (cs : List VReg) (c : Shp → Strip → Nat → Nat → Nat) (acc : Bool) {s : State} (h : s.MemOk) : OutOk (opWide f w m a b cs c s acc) := by
  unfold opWide; try dsimp only
  refine outOk_run ?_ h
  repeat' first
    | with_reducible apply keeps_closing
    | with_reducible apply keeps_retry
    | with_reducible apply keeps_bind
    | with_reducible apply keeps_ite
    | with_reducible apply keeps_update
    | intro _
    | split
    | dsimp only
  all_goals simp (maxDischargeDepth := 16) [*]

@[simp] theorem opWideV_outOk (f : WideOp) (w : BitVec 32) (o : VVV) (acc : Bool) {s : State} (h : s.MemOk) : OutOk (opWideV f w o s acc) := by
  unfold opWideV; try dsimp only
  repeat' split
  all_goals simp (maxDischargeDepth := 16) [*]

@[simp] theorem opWideX_outOk (f : WideOp) (w : BitVec 32) (o : VVX) (acc : Bool) {s : State} (h : s.MemOk) : OutOk (opWideX f w o s acc) := by
  unfold opWideX; try dsimp only
  repeat' split
  all_goals simp (maxDischargeDepth := 16) [*]

@[simp] theorem compare_outOk (ad : BitVec 6 → Bool) (w : BitVec 32) (m d : MReg) (l : List VReg) (f : Shp → Strip → Nat → Bool) {s : State} (h : s.MemOk) : OutOk (compare ad w m d l f s) := by
  unfold compare; try dsimp only
  refine outOk_run ?_ h
  repeat' first
    | with_reducible apply keeps_closing
    | with_reducible apply keeps_retry
    | with_reducible apply keeps_bind
    | with_reducible apply keeps_ite
    | with_reducible apply keeps_update
    | intro _
    | split
    | dsimp only
  all_goals simp (maxDischargeDepth := 16) [*]

@[simp] theorem compareV_outOk (ad : BitVec 6 → Bool) (f : ElemRel) (w : BitVec 32) (o : CmpV) {s : State} (h : s.MemOk) : OutOk (compareV ad f w o s) := by
  unfold compareV; try dsimp only
  repeat' split
  all_goals simp (maxDischargeDepth := 16) [*]

@[simp] theorem compareX_outOk (ad : BitVec 6 → Bool) (f : ElemRel) (w : BitVec 32) (o : CmpX) {s : State} (h : s.MemOk) : OutOk (compareX ad f w o s) := by
  unfold compareX; try dsimp only
  repeat' split
  all_goals simp (maxDischargeDepth := 16) [*]

@[simp] theorem maskOp_outOk (w : BitVec 32) (d : MReg) (f : Strip → Nat → Bool) {s : State} (h : s.MemOk) : OutOk (maskOp w d f s) := by
  unfold maskOp; try dsimp only
  refine outOk_run ?_ h
  repeat' first
    | with_reducible apply keeps_closing
    | with_reducible apply keeps_retry
    | with_reducible apply keeps_bind
    | with_reducible apply keeps_ite
    | with_reducible apply keeps_update
    | intro _
    | split
    | dsimp only
  all_goals simp (maxDischargeDepth := 16) [*]

@[simp] theorem maskToX_outOk (w : BitVec 32) (o : MX) (f : List Nat → Word) {s : State} (h : s.MemOk) : OutOk (maskToX w o f s) := by
  unfold maskToX; try dsimp only
  refine outOk_run ?_ h
  repeat' first
    | with_reducible apply keeps_closing
    | with_reducible apply keeps_retry
    | with_reducible apply keeps_bind
    | with_reducible apply keeps_ite
    | with_reducible apply keeps_update
    | intro _
    | split
    | dsimp only
  all_goals simp (maxDischargeDepth := 16) [*]

@[simp] theorem maskToV_outOk (w : BitVec 32) (m : MReg) (a : VReg) (f : Strip → Shp → Nat → Nat) {s : State} (h : s.MemOk) : OutOk (maskToV w m a f s) := by
  unfold maskToV; try dsimp only
  repeat' split
  all_goals simp (maxDischargeDepth := 16) [*]

@[simp] theorem reduce_outOk (ad : BitVec 6 → Bool) (f : Shp → Strip → List (Nat × Nat) → Word) (w : BitVec 32) (o : VVX) {s : State} (h : s.MemOk) : OutOk (reduce ad f w o s) := by
  unfold reduce; try dsimp only
  refine outOk_run ?_ h
  repeat' first
    | with_reducible apply keeps_closing
    | with_reducible apply keeps_retry
    | with_reducible apply keeps_bind
    | with_reducible apply keeps_ite
    | with_reducible apply keeps_update
    | intro _
    | split
    | dsimp only
  all_goals simp (maxDischargeDepth := 16) [*]

@[simp] theorem reduceFrom_outOk (ad : BitVec 6 → Bool) (f : Red) (w : BitVec 32) (o : VVX) {s : State} (h : s.MemOk) : OutOk (reduceFrom ad f w o s) := by
  unfold reduceFrom; try dsimp only
  repeat' split
  all_goals simp (maxDischargeDepth := 16) [*]

@[simp] theorem keeps_checkDies (m : MReg) (f : Shp → Strip → Nat → Nat → Option Nat) (p : Shp) : Keeps (checkDies m f p) := by
  unfold checkDies; dsimp only
  refine keeps_bind (keeps_read _) fun _ => ?_
  split <;> simp

@[simp] theorem permute_outOk (u : VUse) (m : MReg) (a b : VReg) (f : Shp → Strip → Nat → Nat → Option Nat) (g : Shp → Option Nat) {s : State} (h : s.MemOk) : OutOk (permute u m a b f g s) := by
  unfold permute; try dsimp only
  refine outOk_run ?_ h
  repeat' first
    | with_reducible apply keeps_closing
    | with_reducible apply keeps_retry
    | with_reducible apply keeps_bind
    | with_reducible apply keeps_ite
    | with_reducible apply keeps_update
    | intro _
    | split
    | dsimp only
  all_goals simp (maxDischargeDepth := 16) [*]

@[simp] theorem keeps_checkColumns (w : BitVec 32) (n : Nat) (p : Shp) : Keeps (checkColumns w n p) := by
  unfold checkColumns
  refine keeps_bind (keeps_read _) fun _ => ?_
  split <;> simp

@[simp] theorem tileOp_outOk (u : VUse) {own eff : Shp → M Unit} (ho : ∀ p, Keeps (own p)) (he : ∀ p, Keeps (eff p)) {s : State}
    (h : s.MemOk) : OutOk (tileOp u own eff s) :=
  outOk_run (keeps_bind (keeps_needFull _) fun _ => keeps_vectorOpIf _ _ ho he) h

@[simp] theorem keeps_checkTile (f : Nat → Bool) (p : Shp) : Keeps (checkTile f p) := by
  unfold checkTile
  simp (maxDischargeDepth := 16)

@[simp] theorem keeps_boundStream (v : VReg) : Keeps (boundStream v) := by
  unfold boundStream
  refine keeps_bind (keeps_read _) fun _ => ?_
  split <;> simp

@[simp] theorem cpystat_outOk (w : BitVec 32) (o : R3) (v : Word) {s : State} (h : s.MemOk) : OutOk (cpystat w o v s) := by
  unfold cpystat; try dsimp only
  refine engineOp_ok _ ?_ h
  repeat' first
    | with_reducible apply keeps_enter
    | with_reducible apply keeps_taskCommand
    | with_reducible apply keeps_launchCommand
    | with_reducible apply keeps_bind
    | with_reducible apply keeps_ite
    | with_reducible apply keeps_update
    | intro _
    | split
    | dsimp only
  all_goals simp (maxDischargeDepth := 16) [*]

@[simp] theorem eprd_outOk (w : BitVec 32) (a : XReg) (b : Bool) {s : State} (h : s.MemOk) : OutOk (eprd w a b s) := by
  unfold eprd
  refine blkOp_ok _ (keeps_pure _) (fun _ => ?_) h
  repeat' first
    | with_reducible apply keeps_bind
    | with_reducible apply keeps_ite
    | with_reducible apply keeps_update
    | intro _
    | split
    | dsimp only
  all_goals simp (maxDischargeDepth := 16) [*]

@[simp] theorem ixshare_outOk (w : BitVec 32) (o : R3) (b : Bool) {s : State} (h : s.MemOk) : OutOk (ixshare w o b s) := by
  unfold ixshare
  refine spanOp_ok _ (keeps_check _ _ _) (fun _ => ?_) h
  repeat' first
    | with_reducible apply keeps_bind
    | with_reducible apply keeps_ite
    | with_reducible apply keeps_update
    | intro _
    | split
    | dsimp only
  all_goals simp (maxDischargeDepth := 16) [*]

@[simp] theorem withLatch_outOk (v : Bool) (o : C2) (op : BitVec 5) {b : BitVec 5 → State → Out}
    (hb : ∀ l s, s.MemOk → OutOk (b l s)) {s : State} (h : s.MemOk) : OutOk (withLatch v o op b s) := by
  unfold withLatch
  split
  · exact hb _ _ h
  · simp (maxDischargeDepth := 16) [*]

@[simp] theorem onHart_outOk (r : HartRef) {f : Hart → State → State} (hf : ∀ g s, s.MemOk → (f g s).MemOk) {s : State}
    (h : s.MemOk) : OutOk (onHart r f s) := by
  unfold onHart
  refine outOk_next ?_
  split
  · exact hf _ _ h
  · exact h

@[simp] theorem onWait_outOk (r : HartRef) {f : Wait → State → State} (hf : ∀ w s, s.MemOk → (f w s).MemOk) {s : State}
    (h : s.MemOk) : OutOk (onWait r f s) := by
  unfold onWait
  refine onHart_outOk r (fun g s h => ?_) h
  split
  · exact asHart_ok _ _ (hf _) h
  · exact h

theorem ite_ok {c : Prop} [Decidable c] {s t : State} (hs : s.MemOk) (ht : t.MemOk) : (if c then s else t).MemOk := by
  split
  · exact hs
  · exact ht

@[simp] theorem onPart_outOk (p : PartId) {f : State → State} (hf : ∀ s, s.MemOk → (f s).MemOk) {s : State}
    (h : s.MemOk) : OutOk (onPart p f s) := outOk_next (inPart_ok p hf h)

@[simp] theorem onJob_outOk (t : BitVec 16) {f : Job → State → State} (hf : ∀ j s, s.MemOk → (f j s).MemOk) {s : State}
    (h : s.MemOk) : OutOk (onJob t f s) := by
  unfold onJob
  refine outOk_next ?_
  split
  · exact hf _ _ h
  · exact h

@[simp] theorem arrive_outOk (k : Byte) (v : BitVec 2) (r : PortRef) (p : Packet) {s : State} (h : s.MemOk) :
    OutOk (arrive k v r p s) :=
  outOk_next (ite_ok (settleMgmt_ok (comeIn_ok _ _ h)) h)

@[simp] theorem compact3_outOk (f : Word → Word → Word) (o : C2) (op : BitVec 5) {s : State} (h : s.MemOk) : OutOk (compact3 f o op s) := by
  unfold compact3
  refine withLatch_outOk _ _ _ (fun l s h => ?_) h
  simp (maxDischargeDepth := 16) [*]

@[simp] theorem compactV_outOk (ad : BitVec 6 → Bool) (f : ElemOp) (o : C2) (op : BitVec 5) (acc : Bool) {s : State} (h : s.MemOk) : OutOk (compactV ad f o op s acc) := by
  unfold compactV
  refine withLatch_outOk _ _ _ (fun l s h => ?_) h
  simp (maxDischargeDepth := 16) [*]

/-! ## The meanings -/

theorem execAdd_ok (o : R3) {s : State} (h : s.MemOk) : OutOk (execAdd o s) := by simp (maxDischargeDepth := 16) [execAdd, h]

theorem execSub_ok (o : R3) {s : State} (h : s.MemOk) : OutOk (execSub o s) := by simp (maxDischargeDepth := 16) [execSub, h]

theorem execAnd_ok (o : R3) {s : State} (h : s.MemOk) : OutOk (execAnd o s) := by simp (maxDischargeDepth := 16) [execAnd, h]

theorem execOr_ok (o : R3) {s : State} (h : s.MemOk) : OutOk (execOr o s) := by simp (maxDischargeDepth := 16) [execOr, h]

theorem execXor_ok (o : R3) {s : State} (h : s.MemOk) : OutOk (execXor o s) := by simp (maxDischargeDepth := 16) [execXor, h]

theorem execAndn_ok (o : R3) {s : State} (h : s.MemOk) : OutOk (execAndn o s) := by simp (maxDischargeDepth := 16) [execAndn, h]

theorem execShl_ok (o : R3) {s : State} (h : s.MemOk) : OutOk (execShl o s) := by simp (maxDischargeDepth := 16) [execShl, h]

theorem execShr_ok (o : R3) {s : State} (h : s.MemOk) : OutOk (execShr o s) := by simp (maxDischargeDepth := 16) [execShr, h]

theorem execSra_ok (o : R3) {s : State} (h : s.MemOk) : OutOk (execSra o s) := by simp (maxDischargeDepth := 16) [execSra, h]

theorem execRol_ok (o : R3) {s : State} (h : s.MemOk) : OutOk (execRol o s) := by simp (maxDischargeDepth := 16) [execRol, h]

theorem execRor_ok (o : R3) {s : State} (h : s.MemOk) : OutOk (execRor o s) := by simp (maxDischargeDepth := 16) [execRor, h]

theorem execSlt_ok (o : R3) {s : State} (h : s.MemOk) : OutOk (execSlt o s) := by simp (maxDischargeDepth := 16) [execSlt, h]

theorem execSltn_ok (o : R3) {s : State} (h : s.MemOk) : OutOk (execSltn o s) := by simp (maxDischargeDepth := 16) [execSltn, h]

theorem execMin_ok (o : R3) {s : State} (h : s.MemOk) : OutOk (execMin o s) := by simp (maxDischargeDepth := 16) [execMin, h]

theorem execMax_ok (o : R3) {s : State} (h : s.MemOk) : OutOk (execMax o s) := by simp (maxDischargeDepth := 16) [execMax, h]

theorem execMinn_ok (o : R3) {s : State} (h : s.MemOk) : OutOk (execMinn o s) := by simp (maxDischargeDepth := 16) [execMinn, h]

theorem execMaxn_ok (o : R3) {s : State} (h : s.MemOk) : OutOk (execMaxn o s) := by simp (maxDischargeDepth := 16) [execMaxn, h]

theorem execMul_ok (o : R3) {s : State} (h : s.MemOk) : OutOk (execMul o s) := by simp (maxDischargeDepth := 16) [execMul, h]

theorem execMulh_ok (o : R3) {s : State} (h : s.MemOk) : OutOk (execMulh o s) := by simp (maxDischargeDepth := 16) [execMulh, h]

theorem execMulhn_ok (o : R3) {s : State} (h : s.MemOk) : OutOk (execMulhn o s) := by simp (maxDischargeDepth := 16) [execMulhn, h]

theorem execDiv_ok (o : R3) {s : State} (h : s.MemOk) : OutOk (execDiv o s) := by simp (maxDischargeDepth := 16) [execDiv, h]

theorem execDivn_ok (o : R3) {s : State} (h : s.MemOk) : OutOk (execDivn o s) := by simp (maxDischargeDepth := 16) [execDivn, h]

theorem execRem_ok (o : R3) {s : State} (h : s.MemOk) : OutOk (execRem o s) := by simp (maxDischargeDepth := 16) [execRem, h]

theorem execRemn_ok (o : R3) {s : State} (h : s.MemOk) : OutOk (execRemn o s) := by simp (maxDischargeDepth := 16) [execRemn, h]

theorem execClz_ok (o : R2) {s : State} (h : s.MemOk) : OutOk (execClz o s) := by simp (maxDischargeDepth := 16) [execClz, h]

theorem execCtz_ok (o : R2) {s : State} (h : s.MemOk) : OutOk (execCtz o s) := by simp (maxDischargeDepth := 16) [execCtz, h]

theorem execPopc_ok (o : R2) {s : State} (h : s.MemOk) : OutOk (execPopc o s) := by simp (maxDischargeDepth := 16) [execPopc, h]

theorem execSext_ok (o : RW) {s : State} (h : s.MemOk) : OutOk (execSext o s) := by simp (maxDischargeDepth := 16) [execSext, h]

theorem execZext_ok (o : RW) {s : State} (h : s.MemOk) : OutOk (execZext o s) := by simp (maxDischargeDepth := 16) [execZext, h]

theorem execAddw_ok (o : R3) {s : State} (h : s.MemOk) : OutOk (execAddw o s) := by simp (maxDischargeDepth := 16) [execAddw, h]

theorem execSubw_ok (o : R3) {s : State} (h : s.MemOk) : OutOk (execSubw o s) := by simp (maxDischargeDepth := 16) [execSubw, h]

theorem execAddi_ok (o : I15) {s : State} (h : s.MemOk) : OutOk (execAddi o s) := by simp (maxDischargeDepth := 16) [execAddi, h]

theorem execAndi_ok (o : I15) {s : State} (h : s.MemOk) : OutOk (execAndi o s) := by simp (maxDischargeDepth := 16) [execAndi, h]

theorem execOri_ok (o : I15) {s : State} (h : s.MemOk) : OutOk (execOri o s) := by simp (maxDischargeDepth := 16) [execOri, h]

theorem execXori_ok (o : I15) {s : State} (h : s.MemOk) : OutOk (execXori o s) := by simp (maxDischargeDepth := 16) [execXori, h]

theorem execSlti_ok (o : I15) {s : State} (h : s.MemOk) : OutOk (execSlti o s) := by simp (maxDischargeDepth := 16) [execSlti, h]

theorem execSltni_ok (o : I15) {s : State} (h : s.MemOk) : OutOk (execSltni o s) := by simp (maxDischargeDepth := 16) [execSltni, h]

theorem execShli_ok (o : Sh) {s : State} (h : s.MemOk) : OutOk (execShli o s) := by simp (maxDischargeDepth := 16) [execShli, h]

theorem execShri_ok (o : Sh) {s : State} (h : s.MemOk) : OutOk (execShri o s) := by simp (maxDischargeDepth := 16) [execShri, h]

theorem execSrai_ok (o : Sh) {s : State} (h : s.MemOk) : OutOk (execSrai o s) := by simp (maxDischargeDepth := 16) [execSrai, h]

theorem execRori_ok (o : Sh) {s : State} (h : s.MemOk) : OutOk (execRori o s) := by simp (maxDischargeDepth := 16) [execRori, h]

theorem execLui_ok (o : U20) {s : State} (h : s.MemOk) : OutOk (execLui o s) := by
  unfold execLui; try dsimp only
  repeat' split
  all_goals simp (maxDischargeDepth := 16) +contextual [*]

theorem execAddpc_ok (o : U20) {s : State} (h : s.MemOk) : OutOk (execAddpc o s) := by
  unfold execAddpc; try dsimp only
  repeat' split
  all_goals simp (maxDischargeDepth := 16) +contextual [*]

theorem execLdb_ok (o : I15) {s : State} (h : s.MemOk) : OutOk (execLdb o s) := by simp (maxDischargeDepth := 16) [execLdb, h]

theorem execLdh_ok (o : I15) {s : State} (h : s.MemOk) : OutOk (execLdh o s) := by simp (maxDischargeDepth := 16) [execLdh, h]

theorem execLdw_ok (o : I15) {s : State} (h : s.MemOk) : OutOk (execLdw o s) := by simp (maxDischargeDepth := 16) [execLdw, h]

theorem execLdd_ok (o : I15) {s : State} (h : s.MemOk) : OutOk (execLdd o s) := by simp (maxDischargeDepth := 16) [execLdd, h]

theorem execLdbn_ok (o : I15) {s : State} (h : s.MemOk) : OutOk (execLdbn o s) := by simp (maxDischargeDepth := 16) [execLdbn, h]

theorem execLdhn_ok (o : I15) {s : State} (h : s.MemOk) : OutOk (execLdhn o s) := by simp (maxDischargeDepth := 16) [execLdhn, h]

theorem execLdwn_ok (o : I15) {s : State} (h : s.MemOk) : OutOk (execLdwn o s) := by simp (maxDischargeDepth := 16) [execLdwn, h]

theorem execStb_ok (o : St) {s : State} (h : s.MemOk) : OutOk (execStb o s) := by simp (maxDischargeDepth := 16) [execStb, h]

theorem execSth_ok (o : St) {s : State} (h : s.MemOk) : OutOk (execSth o s) := by simp (maxDischargeDepth := 16) [execSth, h]

theorem execStw_ok (o : St) {s : State} (h : s.MemOk) : OutOk (execStw o s) := by simp (maxDischargeDepth := 16) [execStw, h]

theorem execStd_ok (o : St) {s : State} (h : s.MemOk) : OutOk (execStd o s) := by simp (maxDischargeDepth := 16) [execStd, h]

theorem execBeq_ok (o : Br) {s : State} (h : s.MemOk) : OutOk (execBeq o s) := by simp (maxDischargeDepth := 16) [execBeq, h]

theorem execBne_ok (o : Br) {s : State} (h : s.MemOk) : OutOk (execBne o s) := by simp (maxDischargeDepth := 16) [execBne, h]

theorem execBlt_ok (o : Br) {s : State} (h : s.MemOk) : OutOk (execBlt o s) := by simp (maxDischargeDepth := 16) [execBlt, h]

theorem execBge_ok (o : Br) {s : State} (h : s.MemOk) : OutOk (execBge o s) := by simp (maxDischargeDepth := 16) [execBge, h]

theorem execBltn_ok (o : Br) {s : State} (h : s.MemOk) : OutOk (execBltn o s) := by simp (maxDischargeDepth := 16) [execBltn, h]

theorem execBgen_ok (o : Br) {s : State} (h : s.MemOk) : OutOk (execBgen o s) := by simp (maxDischargeDepth := 16) [execBgen, h]

theorem execJal_ok (o : J20) {s : State} (h : s.MemOk) : OutOk (execJal o s) := by
  unfold execJal; try dsimp only
  repeat' split
  all_goals simp (maxDischargeDepth := 16) +contextual [*]

theorem execJalr_ok (o : I15) {s : State} (h : s.MemOk) : OutOk (execJalr o s) := by
  unfold execJalr; try dsimp only
  repeat' split
  all_goals simp (maxDischargeDepth := 16) +contextual [*]

theorem execFadd_ok (o : F3) {s : State} (h : s.MemOk) : OutOk (execFadd o s) := by simp (maxDischargeDepth := 16) [execFadd, h]

theorem execFsub_ok (o : F3) {s : State} (h : s.MemOk) : OutOk (execFsub o s) := by simp (maxDischargeDepth := 16) [execFsub, h]

theorem execFmul_ok (o : F3) {s : State} (h : s.MemOk) : OutOk (execFmul o s) := by simp (maxDischargeDepth := 16) [execFmul, h]

theorem execFdiv_ok (o : F3) {s : State} (h : s.MemOk) : OutOk (execFdiv o s) := by simp (maxDischargeDepth := 16) [execFdiv, h]

theorem execFsqrt_ok (o : F2) {s : State} (h : s.MemOk) : OutOk (execFsqrt o s) := by simp (maxDischargeDepth := 16) [execFsqrt, h]

theorem execFmin_ok (o : F3N) {s : State} (h : s.MemOk) : OutOk (execFmin o s) := by
  unfold execFmin; try dsimp only
  repeat' split
  all_goals simp (maxDischargeDepth := 16) +contextual [*]

theorem execFmax_ok (o : F3N) {s : State} (h : s.MemOk) : OutOk (execFmax o s) := by
  unfold execFmax; try dsimp only
  repeat' split
  all_goals simp (maxDischargeDepth := 16) +contextual [*]

theorem execFmadd_ok (o : F3) {s : State} (h : s.MemOk) : OutOk (execFmadd o s) := by
  unfold execFmadd; try dsimp only
  repeat' split
  all_goals simp (maxDischargeDepth := 16) +contextual [*]

theorem execFeq_ok (o : F3N) {s : State} (h : s.MemOk) : OutOk (execFeq o s) := by simp (maxDischargeDepth := 16) [execFeq, h]

theorem execFlt_ok (o : F3N) {s : State} (h : s.MemOk) : OutOk (execFlt o s) := by simp (maxDischargeDepth := 16) [execFlt, h]

theorem execFle_ok (o : F3N) {s : State} (h : s.MemOk) : OutOk (execFle o s) := by simp (maxDischargeDepth := 16) [execFle, h]

theorem execFcvti_ok (o : F2) {s : State} (h : s.MemOk) : OutOk (execFcvti o s) := by simp (maxDischargeDepth := 16) [execFcvti, h]

theorem execFcvtn_ok (o : F2) {s : State} (h : s.MemOk) : OutOk (execFcvtn o s) := by simp (maxDischargeDepth := 16) [execFcvtn, h]

theorem execFcvtf_ok (o : F2) {s : State} (h : s.MemOk) : OutOk (execFcvtf o s) := by simp (maxDischargeDepth := 16) [execFcvtf, h]

theorem execFcvtfn_ok (o : F2) {s : State} (h : s.MemOk) : OutOk (execFcvtfn o s) := by simp (maxDischargeDepth := 16) [execFcvtfn, h]

theorem execFcvtp_ok (o : F2) {s : State} (h : s.MemOk) : OutOk (execFcvtp o s) := by simp (maxDischargeDepth := 16) [execFcvtp, h]

theorem execFclass_ok (o : F2N) {s : State} (h : s.MemOk) : OutOk (execFclass o s) := by
  unfold execFclass; try dsimp only
  repeat' split
  all_goals simp (maxDischargeDepth := 16) +contextual [*]

theorem execFsgnj_ok (o : F3N) {s : State} (h : s.MemOk) : OutOk (execFsgnj o s) := by
  unfold execFsgnj; try dsimp only
  repeat' split
  all_goals simp (maxDischargeDepth := 16) +contextual [*]

theorem execAaddD_ok (o : Amo) {s : State} (h : s.MemOk) : OutOk (execAaddD o s) := by simp (maxDischargeDepth := 16) [execAaddD, h]

theorem execAaddW_ok (o : Amo) {s : State} (h : s.MemOk) : OutOk (execAaddW o s) := by simp (maxDischargeDepth := 16) [execAaddW, h]

theorem execAswpD_ok (o : Amo) {s : State} (h : s.MemOk) : OutOk (execAswpD o s) := by simp (maxDischargeDepth := 16) [execAswpD, h]

theorem execAswpW_ok (o : Amo) {s : State} (h : s.MemOk) : OutOk (execAswpW o s) := by simp (maxDischargeDepth := 16) [execAswpW, h]

theorem execAcasD_ok (o : Amo) {s : State} (h : s.MemOk) : OutOk (execAcasD o s) := by simp (maxDischargeDepth := 16) [execAcasD, h]

theorem execAcasW_ok (o : Amo) {s : State} (h : s.MemOk) : OutOk (execAcasW o s) := by simp (maxDischargeDepth := 16) [execAcasW, h]

theorem execAandD_ok (o : Amo) {s : State} (h : s.MemOk) : OutOk (execAandD o s) := by simp (maxDischargeDepth := 16) [execAandD, h]

theorem execAorD_ok (o : Amo) {s : State} (h : s.MemOk) : OutOk (execAorD o s) := by simp (maxDischargeDepth := 16) [execAorD, h]

theorem execAxorD_ok (o : Amo) {s : State} (h : s.MemOk) : OutOk (execAxorD o s) := by simp (maxDischargeDepth := 16) [execAxorD, h]

theorem execAminD_ok (o : Amo) {s : State} (h : s.MemOk) : OutOk (execAminD o s) := by simp (maxDischargeDepth := 16) [execAminD, h]

theorem execAmaxD_ok (o : Amo) {s : State} (h : s.MemOk) : OutOk (execAmaxD o s) := by simp (maxDischargeDepth := 16) [execAmaxD, h]

theorem execAminnD_ok (o : Amo) {s : State} (h : s.MemOk) : OutOk (execAminnD o s) := by simp (maxDischargeDepth := 16) [execAminnD, h]

theorem execAmaxnD_ok (o : Amo) {s : State} (h : s.MemOk) : OutOk (execAmaxnD o s) := by simp (maxDischargeDepth := 16) [execAmaxnD, h]

theorem execLdaqD_ok (o : Laq) {s : State} (h : s.MemOk) : OutOk (execLdaqD o s) := by simp (maxDischargeDepth := 16) [execLdaqD, h]

theorem execStrlD_ok (o : Srl) {s : State} (h : s.MemOk) : OutOk (execStrlD o s) := by simp (maxDischargeDepth := 16) [execStrlD, h]

theorem execLdaqW_ok (o : Laq) {s : State} (h : s.MemOk) : OutOk (execLdaqW o s) := by simp (maxDischargeDepth := 16) [execLdaqW, h]

theorem execStrlW_ok (o : Srl) {s : State} (h : s.MemOk) : OutOk (execStrlW o s) := by simp (maxDischargeDepth := 16) [execStrlW, h]

theorem execFence_ok (_o : Fnc) {s : State} (h : s.MemOk) : OutOk (execFence _o s) := by
  unfold execFence; try dsimp only
  refine outOk_run ?_ h
  repeat' first
    | with_reducible apply keeps_closing
    | with_reducible apply keeps_retry
    | with_reducible apply keeps_bind
    | with_reducible apply keeps_ite
    | with_reducible apply keeps_update
    | intro _
    | split
    | dsimp only
  all_goals simp (maxDischargeDepth := 16) [*]

theorem execWaita_ok (o : R3) {s : State} (h : s.MemOk) : OutOk (execWaita o s) := by simp (maxDischargeDepth := 16) [execWaita, h]

theorem execWaitaw_ok (o : R3) {s : State} (h : s.MemOk) : OutOk (execWaitaw o s) := by simp (maxDischargeDepth := 16) [execWaitaw, h]

theorem execYield_ok {s : State} (h : s.MemOk) : OutOk (execYield s) := by
  unfold execYield; try dsimp only
  repeat' split
  all_goals simp (maxDischargeDepth := 16) +contextual [*]

theorem execRdcr_ok (o : CrR) {s : State} (h : s.MemOk) : OutOk (execRdcr o s) := by simp (maxDischargeDepth := 16) [execRdcr, h]

theorem execWrcr_ok (o : CrW) {s : State} (h : s.MemOk) : OutOk (execWrcr o s) := by simp (maxDischargeDepth := 16) [execWrcr, h]

theorem execPrioWrite_ok (o : R2) {s : State} (h : s.MemOk) : OutOk (execPrioWrite o s) := by simp (maxDischargeDepth := 16) [execPrioWrite, h]

theorem execFrndWrite_ok (o : R2) {s : State} (h : s.MemOk) : OutOk (execFrndWrite o s) := by simp (maxDischargeDepth := 16) [execFrndWrite, h]

theorem execPoolRegisterWrite_ok (o : PoolW) {s : State} (h : s.MemOk) : OutOk (execPoolRegisterWrite o s) := by
  unfold execPoolRegisterWrite; try dsimp only
  repeat' split
  all_goals simp (maxDischargeDepth := 16) +contextual [*]

theorem execDomainwWrite_ok (o : R2) {s : State} (h : s.MemOk) : OutOk (execDomainwWrite o s) := by simp (maxDischargeDepth := 16) [execDomainwWrite, h]

theorem execPtrootWrite_ok (o : R2) {s : State} (h : s.MemOk) : OutOk (execPtrootWrite o s) := by simp (maxDischargeDepth := 16) [execPtrootWrite, h]

theorem execTrap_ok (n : BitVec 5) {s : State} (h : s.MemOk) : OutOk (execTrap n s) := by
  unfold execTrap; try dsimp only
  refine outOk_run ?_ h
  repeat' first
    | with_reducible apply keeps_closing
    | with_reducible apply keeps_retry
    | with_reducible apply keeps_bind
    | with_reducible apply keeps_ite
    | with_reducible apply keeps_update
    | intro _
    | split
    | dsimp only
  all_goals simp (maxDischargeDepth := 16) [*]

theorem execBrk_ok {s : State} (h : s.MemOk) : OutOk (execBrk s) := by
  unfold execBrk; try dsimp only
  refine outOk_run ?_ h
  repeat' first
    | with_reducible apply keeps_closing
    | with_reducible apply keeps_retry
    | with_reducible apply keeps_bind
    | with_reducible apply keeps_ite
    | with_reducible apply keeps_update
    | intro _
    | split
    | dsimp only
  all_goals simp (maxDischargeDepth := 16) [*]

theorem execTret_ok {s : State} (h : s.MemOk) : OutOk (execTret s) := by
  unfold execTret; try dsimp only
  refine outOk_run ?_ h
  repeat' first
    | with_reducible apply keeps_closing
    | with_reducible apply keeps_retry
    | with_reducible apply keeps_bind
    | with_reducible apply keeps_ite
    | with_reducible apply keeps_update
    | intro _
    | split
    | dsimp only
  all_goals simp (maxDischargeDepth := 16) [*]

theorem execHalt_ok {s : State} (h : s.MemOk) : OutOk (execHalt s) := by
  unfold execHalt; try dsimp only
  refine outOk_run ?_ h
  repeat' first
    | with_reducible apply keeps_closing
    | with_reducible apply keeps_retry
    | with_reducible apply keeps_bind
    | with_reducible apply keeps_ite
    | with_reducible apply keeps_update
    | intro _
    | split
    | dsimp only
  all_goals simp (maxDischargeDepth := 16) [*]

theorem execVsave_ok (b : XReg) {s : State} (h : s.MemOk) : OutOk (execVsave b s) := by
  unfold execVsave; try dsimp only
  refine outOk_run ?_ h
  repeat' first
    | with_reducible apply keeps_closing
    | with_reducible apply keeps_retry
    | with_reducible apply keeps_bind
    | with_reducible apply keeps_ite
    | with_reducible apply keeps_update
    | intro _
    | split
    | dsimp only
  all_goals simp (maxDischargeDepth := 16) [*]

@[simp] theorem overwriteOthers_ok {s : State} (h : s.MemOk) : (overwriteOthers s).MemOk := by
  unfold overwriteOthers; dsimp only
  split <;> exact h

theorem execVrestore_ok (b : XReg) {s : State} (h : s.MemOk) : OutOk (execVrestore b s) := by
  unfold execVrestore; try dsimp only
  refine outOk_run ?_ h
  repeat' first
    | with_reducible apply keeps_closing
    | with_reducible apply keeps_retry
    | with_reducible apply keeps_bind
    | with_reducible apply keeps_ite
    | with_reducible apply keeps_update
    | intro _
    | split
    | dsimp only
  all_goals simp (maxDischargeDepth := 16) [*]

theorem execTlbinv_ok (o : Tlb) {s : State} (h : s.MemOk) : OutOk (execTlbinv o s) := by
  unfold execTlbinv; try dsimp only
  refine outOk_run ?_ h
  repeat' first
    | with_reducible apply keeps_closing
    | with_reducible apply keeps_retry
    | with_reducible apply keeps_bind
    | with_reducible apply keeps_ite
    | with_reducible apply keeps_update
    | intro _
    | split
    | dsimp only
  all_goals simp (maxDischargeDepth := 16) [*]

theorem execIcsync_ok {s : State} (h : s.MemOk) : OutOk (execIcsync s) := by
  unfold execIcsync; try dsimp only
  refine outOk_run ?_ h
  repeat' first
    | with_reducible apply keeps_closing
    | with_reducible apply keeps_retry
    | with_reducible apply keeps_bind
    | with_reducible apply keeps_ite
    | with_reducible apply keeps_update
    | intro _
    | split
    | dsimp only
  all_goals simp (maxDischargeDepth := 16) [*]

theorem execSetvl_ok (o : R2) {s : State} (h : s.MemOk) : OutOk (execSetvl o s) := by
  unfold execSetvl; dsimp only
  have h1 : (afterCommit false (s.commit.drain.modHart (fun x => { x with
      trim := setvlLimit s.hart, atSetvl := true }))).1.MemOk :=
    (afterCommit_memOk ..).2 (by simp (maxDischargeDepth := 16) [h])
  split <;> rename_i t e <;> rw [e] at h1
  · exact outOk_next h1
  · have h2 : (takeGrant t).1.MemOk := (takeGrant_memOk t).2 h1
    split <;> rename_i u e <;> rw [e] at h2
    · exact outOk_next (handOn_ok _ h2)
    · exact outOk_next (handOn_ok _ ((modHart_ok _ _).2 ((settleGrant_memOk _).2 h2)))

theorem execSetshape_ok (b : XReg) {s : State} (h : s.MemOk) : OutOk (execSetshape b s) := by simp (maxDischargeDepth := 16) [execSetshape, h]

theorem execVconf_ok (n : BitVec 5) {s : State} (h : s.MemOk) : OutOk (execVconf n s) := by
  unfold execVconf; try dsimp only
  repeat' split
  all_goals simp (maxDischargeDepth := 16) +contextual [*]

theorem execVclose_ok {s : State} (h : s.MemOk) : OutOk (execVclose s) := by
  unfold execVclose; try dsimp only
  refine outOk_run ?_ h
  repeat' first
    | with_reducible apply keeps_closing
    | with_reducible apply keeps_retry
    | with_reducible apply keeps_bind
    | with_reducible apply keeps_ite
    | with_reducible apply keeps_update
    | intro _
    | split
    | dsimp only
  all_goals simp (maxDischargeDepth := 16) [*]

theorem execSetshapei_ok (imm : BitVec 15) {s : State} (h : s.MemOk) : OutOk (execSetshapei imm s) := by simp (maxDischargeDepth := 16) [execSetshapei, h]

theorem execVldu_ok (o : VM2) {s : State} (h : s.MemOk) : OutOk (execVldu o s) := by simp (maxDischargeDepth := 16) [execVldu, h]

theorem execVlds_ok (o : VM3) {s : State} (h : s.MemOk) : OutOk (execVlds o s) := by simp (maxDischargeDepth := 16) [execVlds, h]

theorem execVldx_ok (o : VMK3) {s : State} (h : s.MemOk) : OutOk (execVldx o s) := by simp (maxDischargeDepth := 16) [execVldx, h]

theorem execVldb_ok (o : VM2) {s : State} (h : s.MemOk) : OutOk (execVldb o s) := by
  unfold execVldb; try dsimp only
  refine outOk_run ?_ h
  repeat' first
    | with_reducible apply keeps_closing
    | with_reducible apply keeps_retry
    | with_reducible apply keeps_bind
    | with_reducible apply keeps_ite
    | with_reducible apply keeps_update
    | intro _
    | split
    | dsimp only
  all_goals simp (maxDischargeDepth := 16) [*]

theorem execVld2d_ok (o : VM3) {s : State} (h : s.MemOk) : OutOk (execVld2d o s) := by simp (maxDischargeDepth := 16) [execVld2d, h]

theorem execVstu_ok (o : VM2) {s : State} (h : s.MemOk) : OutOk (execVstu o s) := by simp (maxDischargeDepth := 16) [execVstu, h]

theorem execVsts_ok (o : VM3) {s : State} (h : s.MemOk) : OutOk (execVsts o s) := by simp (maxDischargeDepth := 16) [execVsts, h]

theorem execVstx_ok (o : VMK3) {s : State} (h : s.MemOk) : OutOk (execVstx o s) := by simp (maxDischargeDepth := 16) [execVstx, h]

theorem execVstuu_ok (o : VM2) {s : State} (h : s.MemOk) : OutOk (execVstuu o s) := by simp (maxDischargeDepth := 16) [execVstuu, h]

theorem execVstxu_ok (o : VMK3) {s : State} (h : s.MemOk) : OutOk (execVstxu o s) := by simp (maxDischargeDepth := 16) [execVstxu, h]

theorem execVst2d_ok (o : VM3) {s : State} (h : s.MemOk) : OutOk (execVst2d o s) := by simp (maxDischargeDepth := 16) [execVst2d, h]

theorem execVadd_ok (o : VVV) {s : State} (h : s.MemOk) : OutOk (execVadd o s) := by simp (maxDischargeDepth := 16) [execVadd, h]

theorem execVsub_ok (o : VVV) {s : State} (h : s.MemOk) : OutOk (execVsub o s) := by simp (maxDischargeDepth := 16) [execVsub, h]

theorem execVmul_ok (o : VVV) {s : State} (h : s.MemOk) : OutOk (execVmul o s) := by simp (maxDischargeDepth := 16) [execVmul, h]

theorem execVmulh_ok (o : VVV) {s : State} (h : s.MemOk) : OutOk (execVmulh o s) := by simp (maxDischargeDepth := 16) [execVmulh, h]

theorem execVmulhn_ok (o : VVV) {s : State} (h : s.MemOk) : OutOk (execVmulhn o s) := by simp (maxDischargeDepth := 16) [execVmulhn, h]

theorem execVdiv_ok (o : VVV) {s : State} (h : s.MemOk) : OutOk (execVdiv o s) := by simp (maxDischargeDepth := 16) [execVdiv, h]

theorem execVdivn_ok (o : VVV) {s : State} (h : s.MemOk) : OutOk (execVdivn o s) := by simp (maxDischargeDepth := 16) [execVdivn, h]

theorem execVrem_ok (o : VVV) {s : State} (h : s.MemOk) : OutOk (execVrem o s) := by simp (maxDischargeDepth := 16) [execVrem, h]

theorem execVremn_ok (o : VVV) {s : State} (h : s.MemOk) : OutOk (execVremn o s) := by simp (maxDischargeDepth := 16) [execVremn, h]

theorem execVmin_ok (o : VVV) {s : State} (h : s.MemOk) : OutOk (execVmin o s) := by simp (maxDischargeDepth := 16) [execVmin, h]

theorem execVmax_ok (o : VVV) {s : State} (h : s.MemOk) : OutOk (execVmax o s) := by simp (maxDischargeDepth := 16) [execVmax, h]

theorem execVminn_ok (o : VVV) {s : State} (h : s.MemOk) : OutOk (execVminn o s) := by simp (maxDischargeDepth := 16) [execVminn, h]

theorem execVmaxn_ok (o : VVV) {s : State} (h : s.MemOk) : OutOk (execVmaxn o s) := by simp (maxDischargeDepth := 16) [execVmaxn, h]

theorem execVand_ok (o : VVV) {s : State} (h : s.MemOk) : OutOk (execVand o s) := by simp (maxDischargeDepth := 16) [execVand, h]

theorem execVor_ok (o : VVV) {s : State} (h : s.MemOk) : OutOk (execVor o s) := by simp (maxDischargeDepth := 16) [execVor, h]

theorem execVxor_ok (o : VVV) {s : State} (h : s.MemOk) : OutOk (execVxor o s) := by simp (maxDischargeDepth := 16) [execVxor, h]

theorem execVshl_ok (o : VVV) {s : State} (h : s.MemOk) : OutOk (execVshl o s) := by simp (maxDischargeDepth := 16) [execVshl, h]

theorem execVshr_ok (o : VVV) {s : State} (h : s.MemOk) : OutOk (execVshr o s) := by simp (maxDischargeDepth := 16) [execVshr, h]

theorem execVsra_ok (o : VVV) {s : State} (h : s.MemOk) : OutOk (execVsra o s) := by simp (maxDischargeDepth := 16) [execVsra, h]

theorem execVsadd_ok (o : VVV) {s : State} (h : s.MemOk) : OutOk (execVsadd o s) := by simp (maxDischargeDepth := 16) [execVsadd, h]

theorem execVsaddn_ok (o : VVV) {s : State} (h : s.MemOk) : OutOk (execVsaddn o s) := by simp (maxDischargeDepth := 16) [execVsaddn, h]

theorem execVssub_ok (o : VVV) {s : State} (h : s.MemOk) : OutOk (execVssub o s) := by simp (maxDischargeDepth := 16) [execVssub, h]

theorem execVssubn_ok (o : VVV) {s : State} (h : s.MemOk) : OutOk (execVssubn o s) := by simp (maxDischargeDepth := 16) [execVssubn, h]

theorem execVabsd_ok (o : VVV) {s : State} (h : s.MemOk) : OutOk (execVabsd o s) := by simp (maxDischargeDepth := 16) [execVabsd, h]

theorem execVmacc_ok (o : VVV) {s : State} (h : s.MemOk) : OutOk (execVmacc o s) := by simp (maxDischargeDepth := 16) [execVmacc, h]

theorem execVaddX_ok (o : VVX) {s : State} (h : s.MemOk) : OutOk (execVaddX o s) := by simp (maxDischargeDepth := 16) [execVaddX, h]

theorem execVsubX_ok (o : VVX) {s : State} (h : s.MemOk) : OutOk (execVsubX o s) := by simp (maxDischargeDepth := 16) [execVsubX, h]

theorem execVmulX_ok (o : VVX) {s : State} (h : s.MemOk) : OutOk (execVmulX o s) := by simp (maxDischargeDepth := 16) [execVmulX, h]

theorem execVmulhX_ok (o : VVX) {s : State} (h : s.MemOk) : OutOk (execVmulhX o s) := by simp (maxDischargeDepth := 16) [execVmulhX, h]

theorem execVmulhnX_ok (o : VVX) {s : State} (h : s.MemOk) : OutOk (execVmulhnX o s) := by simp (maxDischargeDepth := 16) [execVmulhnX, h]

theorem execVdivX_ok (o : VVX) {s : State} (h : s.MemOk) : OutOk (execVdivX o s) := by simp (maxDischargeDepth := 16) [execVdivX, h]

theorem execVdivnX_ok (o : VVX) {s : State} (h : s.MemOk) : OutOk (execVdivnX o s) := by simp (maxDischargeDepth := 16) [execVdivnX, h]

theorem execVremX_ok (o : VVX) {s : State} (h : s.MemOk) : OutOk (execVremX o s) := by simp (maxDischargeDepth := 16) [execVremX, h]

theorem execVremnX_ok (o : VVX) {s : State} (h : s.MemOk) : OutOk (execVremnX o s) := by simp (maxDischargeDepth := 16) [execVremnX, h]

theorem execVminX_ok (o : VVX) {s : State} (h : s.MemOk) : OutOk (execVminX o s) := by simp (maxDischargeDepth := 16) [execVminX, h]

theorem execVmaxX_ok (o : VVX) {s : State} (h : s.MemOk) : OutOk (execVmaxX o s) := by simp (maxDischargeDepth := 16) [execVmaxX, h]

theorem execVminnX_ok (o : VVX) {s : State} (h : s.MemOk) : OutOk (execVminnX o s) := by simp (maxDischargeDepth := 16) [execVminnX, h]

theorem execVmaxnX_ok (o : VVX) {s : State} (h : s.MemOk) : OutOk (execVmaxnX o s) := by simp (maxDischargeDepth := 16) [execVmaxnX, h]

theorem execVandX_ok (o : VVX) {s : State} (h : s.MemOk) : OutOk (execVandX o s) := by simp (maxDischargeDepth := 16) [execVandX, h]

theorem execVorX_ok (o : VVX) {s : State} (h : s.MemOk) : OutOk (execVorX o s) := by simp (maxDischargeDepth := 16) [execVorX, h]

theorem execVxorX_ok (o : VVX) {s : State} (h : s.MemOk) : OutOk (execVxorX o s) := by simp (maxDischargeDepth := 16) [execVxorX, h]

theorem execVshlX_ok (o : VVX) {s : State} (h : s.MemOk) : OutOk (execVshlX o s) := by simp (maxDischargeDepth := 16) [execVshlX, h]

theorem execVshrX_ok (o : VVX) {s : State} (h : s.MemOk) : OutOk (execVshrX o s) := by simp (maxDischargeDepth := 16) [execVshrX, h]

theorem execVsraX_ok (o : VVX) {s : State} (h : s.MemOk) : OutOk (execVsraX o s) := by simp (maxDischargeDepth := 16) [execVsraX, h]

theorem execVsaddX_ok (o : VVX) {s : State} (h : s.MemOk) : OutOk (execVsaddX o s) := by simp (maxDischargeDepth := 16) [execVsaddX, h]

theorem execVsaddnX_ok (o : VVX) {s : State} (h : s.MemOk) : OutOk (execVsaddnX o s) := by simp (maxDischargeDepth := 16) [execVsaddnX, h]

theorem execVssubX_ok (o : VVX) {s : State} (h : s.MemOk) : OutOk (execVssubX o s) := by simp (maxDischargeDepth := 16) [execVssubX, h]

theorem execVssubnX_ok (o : VVX) {s : State} (h : s.MemOk) : OutOk (execVssubnX o s) := by simp (maxDischargeDepth := 16) [execVssubnX, h]

theorem execVabsdX_ok (o : VVX) {s : State} (h : s.MemOk) : OutOk (execVabsdX o s) := by simp (maxDischargeDepth := 16) [execVabsdX, h]

theorem execVmaccX_ok (o : VVX) {s : State} (h : s.MemOk) : OutOk (execVmaccX o s) := by simp (maxDischargeDepth := 16) [execVmaccX, h]

theorem execVfadd_ok (o : VVV) {s : State} (h : s.MemOk) : OutOk (execVfadd o s) := by simp (maxDischargeDepth := 16) [execVfadd, h]

theorem execVfsub_ok (o : VVV) {s : State} (h : s.MemOk) : OutOk (execVfsub o s) := by simp (maxDischargeDepth := 16) [execVfsub, h]

theorem execVfmul_ok (o : VVV) {s : State} (h : s.MemOk) : OutOk (execVfmul o s) := by simp (maxDischargeDepth := 16) [execVfmul, h]

theorem execVfdiv_ok (o : VVV) {s : State} (h : s.MemOk) : OutOk (execVfdiv o s) := by simp (maxDischargeDepth := 16) [execVfdiv, h]

theorem execVfmin_ok (o : VVV) {s : State} (h : s.MemOk) : OutOk (execVfmin o s) := by simp (maxDischargeDepth := 16) [execVfmin, h]

theorem execVfmax_ok (o : VVV) {s : State} (h : s.MemOk) : OutOk (execVfmax o s) := by simp (maxDischargeDepth := 16) [execVfmax, h]

theorem execVfsgnj_ok (o : VVV) {s : State} (h : s.MemOk) : OutOk (execVfsgnj o s) := by simp (maxDischargeDepth := 16) [execVfsgnj, h]

theorem execVfsgnjn_ok (o : VVV) {s : State} (h : s.MemOk) : OutOk (execVfsgnjn o s) := by simp (maxDischargeDepth := 16) [execVfsgnjn, h]

theorem execVfsqrt_ok (o : VV) {s : State} (h : s.MemOk) : OutOk (execVfsqrt o s) := by simp (maxDischargeDepth := 16) [execVfsqrt, h]

theorem execVfrsqrt_ok (o : VV) {s : State} (h : s.MemOk) : OutOk (execVfrsqrt o s) := by simp (maxDischargeDepth := 16) [execVfrsqrt, h]

theorem execVfrcp_ok (o : VV) {s : State} (h : s.MemOk) : OutOk (execVfrcp o s) := by simp (maxDischargeDepth := 16) [execVfrcp, h]

theorem execVfexp2_ok (o : VV) {s : State} (h : s.MemOk) : OutOk (execVfexp2 o s) := by simp (maxDischargeDepth := 16) [execVfexp2, h]

theorem execVflog2_ok (o : VV) {s : State} (h : s.MemOk) : OutOk (execVflog2 o s) := by simp (maxDischargeDepth := 16) [execVflog2, h]

theorem execVfabs_ok (o : VV) {s : State} (h : s.MemOk) : OutOk (execVfabs o s) := by simp (maxDischargeDepth := 16) [execVfabs, h]

theorem execVfneg_ok (o : VV) {s : State} (h : s.MemOk) : OutOk (execVfneg o s) := by simp (maxDischargeDepth := 16) [execVfneg, h]

theorem execVfclass_ok (o : VV) {s : State} (h : s.MemOk) : OutOk (execVfclass o s) := by simp (maxDischargeDepth := 16) [execVfclass, h]

theorem execVfma_ok (o : VVV) {s : State} (h : s.MemOk) : OutOk (execVfma o s) := by simp (maxDischargeDepth := 16) [execVfma, h]

theorem execVfms_ok (o : VVV) {s : State} (h : s.MemOk) : OutOk (execVfms o s) := by simp (maxDischargeDepth := 16) [execVfms, h]

theorem execVfnma_ok (o : VVV) {s : State} (h : s.MemOk) : OutOk (execVfnma o s) := by simp (maxDischargeDepth := 16) [execVfnma, h]

theorem execVfscale_ok (o : VVV) {s : State} (h : s.MemOk) : OutOk (execVfscale o s) := by simp (maxDischargeDepth := 16) [execVfscale, h]

theorem execVfwadd_ok (o : VVV) {s : State} (h : s.MemOk) : OutOk (execVfwadd o s) := by simp (maxDischargeDepth := 16) [execVfwadd, h]

theorem execVfwmul_ok (o : VVV) {s : State} (h : s.MemOk) : OutOk (execVfwmul o s) := by simp (maxDischargeDepth := 16) [execVfwmul, h]

theorem execVfwma_ok (o : VVV) {s : State} (h : s.MemOk) : OutOk (execVfwma o s) := by simp (maxDischargeDepth := 16) [execVfwma, h]

theorem execVfaddX_ok (o : VVX) {s : State} (h : s.MemOk) : OutOk (execVfaddX o s) := by simp (maxDischargeDepth := 16) [execVfaddX, h]

theorem execVfsubX_ok (o : VVX) {s : State} (h : s.MemOk) : OutOk (execVfsubX o s) := by simp (maxDischargeDepth := 16) [execVfsubX, h]

theorem execVfmulX_ok (o : VVX) {s : State} (h : s.MemOk) : OutOk (execVfmulX o s) := by simp (maxDischargeDepth := 16) [execVfmulX, h]

theorem execVfdivX_ok (o : VVX) {s : State} (h : s.MemOk) : OutOk (execVfdivX o s) := by simp (maxDischargeDepth := 16) [execVfdivX, h]

theorem execVfminX_ok (o : VVX) {s : State} (h : s.MemOk) : OutOk (execVfminX o s) := by simp (maxDischargeDepth := 16) [execVfminX, h]

theorem execVfmaxX_ok (o : VVX) {s : State} (h : s.MemOk) : OutOk (execVfmaxX o s) := by simp (maxDischargeDepth := 16) [execVfmaxX, h]

theorem execVfsgnjX_ok (o : VVX) {s : State} (h : s.MemOk) : OutOk (execVfsgnjX o s) := by simp (maxDischargeDepth := 16) [execVfsgnjX, h]

theorem execVfsgnjnX_ok (o : VVX) {s : State} (h : s.MemOk) : OutOk (execVfsgnjnX o s) := by simp (maxDischargeDepth := 16) [execVfsgnjnX, h]

theorem execVfmaX_ok (o : VVX) {s : State} (h : s.MemOk) : OutOk (execVfmaX o s) := by simp (maxDischargeDepth := 16) [execVfmaX, h]

theorem execVfmsX_ok (o : VVX) {s : State} (h : s.MemOk) : OutOk (execVfmsX o s) := by simp (maxDischargeDepth := 16) [execVfmsX, h]

theorem execVfnmaX_ok (o : VVX) {s : State} (h : s.MemOk) : OutOk (execVfnmaX o s) := by simp (maxDischargeDepth := 16) [execVfnmaX, h]

theorem execVfscaleX_ok (o : VVX) {s : State} (h : s.MemOk) : OutOk (execVfscaleX o s) := by simp (maxDischargeDepth := 16) [execVfscaleX, h]

theorem execVfwaddX_ok (o : VVX) {s : State} (h : s.MemOk) : OutOk (execVfwaddX o s) := by simp (maxDischargeDepth := 16) [execVfwaddX, h]

theorem execVfwmulX_ok (o : VVX) {s : State} (h : s.MemOk) : OutOk (execVfwmulX o s) := by simp (maxDischargeDepth := 16) [execVfwmulX, h]

theorem execVfwmaX_ok (o : VVX) {s : State} (h : s.MemOk) : OutOk (execVfwmaX o s) := by simp (maxDischargeDepth := 16) [execVfwmaX, h]

theorem execVcvt_ok (o : Cvt) {s : State} (h : s.MemOk) : OutOk (execVcvt o s) := by
  unfold execVcvt; try dsimp only
  repeat' split
  all_goals simp (maxDischargeDepth := 16) +contextual [*]

theorem execVceq_ok (o : CmpV) {s : State} (h : s.MemOk) : OutOk (execVceq o s) := by simp (maxDischargeDepth := 16) [execVceq, h]

theorem execVcne_ok (o : CmpV) {s : State} (h : s.MemOk) : OutOk (execVcne o s) := by simp (maxDischargeDepth := 16) [execVcne, h]

theorem execVclt_ok (o : CmpV) {s : State} (h : s.MemOk) : OutOk (execVclt o s) := by simp (maxDischargeDepth := 16) [execVclt, h]

theorem execVcle_ok (o : CmpV) {s : State} (h : s.MemOk) : OutOk (execVcle o s) := by simp (maxDischargeDepth := 16) [execVcle, h]

theorem execVcltn_ok (o : CmpV) {s : State} (h : s.MemOk) : OutOk (execVcltn o s) := by simp (maxDischargeDepth := 16) [execVcltn, h]

theorem execVclen_ok (o : CmpV) {s : State} (h : s.MemOk) : OutOk (execVclen o s) := by simp (maxDischargeDepth := 16) [execVclen, h]

theorem execVfceq_ok (o : CmpV) {s : State} (h : s.MemOk) : OutOk (execVfceq o s) := by simp (maxDischargeDepth := 16) [execVfceq, h]

theorem execVfclt_ok (o : CmpV) {s : State} (h : s.MemOk) : OutOk (execVfclt o s) := by simp (maxDischargeDepth := 16) [execVfclt, h]

theorem execVfcle_ok (o : CmpV) {s : State} (h : s.MemOk) : OutOk (execVfcle o s) := by simp (maxDischargeDepth := 16) [execVfcle, h]

theorem execVfcun_ok (o : CmpV) {s : State} (h : s.MemOk) : OutOk (execVfcun o s) := by simp (maxDischargeDepth := 16) [execVfcun, h]

theorem execVceqX_ok (o : CmpX) {s : State} (h : s.MemOk) : OutOk (execVceqX o s) := by simp (maxDischargeDepth := 16) [execVceqX, h]

theorem execVcneX_ok (o : CmpX) {s : State} (h : s.MemOk) : OutOk (execVcneX o s) := by simp (maxDischargeDepth := 16) [execVcneX, h]

theorem execVcltX_ok (o : CmpX) {s : State} (h : s.MemOk) : OutOk (execVcltX o s) := by simp (maxDischargeDepth := 16) [execVcltX, h]

theorem execVcleX_ok (o : CmpX) {s : State} (h : s.MemOk) : OutOk (execVcleX o s) := by simp (maxDischargeDepth := 16) [execVcleX, h]

theorem execVcltnX_ok (o : CmpX) {s : State} (h : s.MemOk) : OutOk (execVcltnX o s) := by simp (maxDischargeDepth := 16) [execVcltnX, h]

theorem execVclenX_ok (o : CmpX) {s : State} (h : s.MemOk) : OutOk (execVclenX o s) := by simp (maxDischargeDepth := 16) [execVclenX, h]

theorem execVfceqX_ok (o : CmpX) {s : State} (h : s.MemOk) : OutOk (execVfceqX o s) := by simp (maxDischargeDepth := 16) [execVfceqX, h]

theorem execVfcltX_ok (o : CmpX) {s : State} (h : s.MemOk) : OutOk (execVfcltX o s) := by simp (maxDischargeDepth := 16) [execVfcltX, h]

theorem execVfcleX_ok (o : CmpX) {s : State} (h : s.MemOk) : OutOk (execVfcleX o s) := by simp (maxDischargeDepth := 16) [execVfcleX, h]

theorem execVfcunX_ok (o : CmpX) {s : State} (h : s.MemOk) : OutOk (execVfcunX o s) := by simp (maxDischargeDepth := 16) [execVfcunX, h]

theorem execMand_ok (o : M3) {s : State} (h : s.MemOk) : OutOk (execMand o s) := by simp (maxDischargeDepth := 16) [execMand, h]

theorem execMor_ok (o : M3) {s : State} (h : s.MemOk) : OutOk (execMor o s) := by simp (maxDischargeDepth := 16) [execMor, h]

theorem execMxor_ok (o : M3) {s : State} (h : s.MemOk) : OutOk (execMxor o s) := by simp (maxDischargeDepth := 16) [execMxor, h]

theorem execMandn_ok (o : M3) {s : State} (h : s.MemOk) : OutOk (execMandn o s) := by simp (maxDischargeDepth := 16) [execMandn, h]

theorem execMnot_ok (o : M2) {s : State} (h : s.MemOk) : OutOk (execMnot o s) := by simp (maxDischargeDepth := 16) [execMnot, h]

theorem execMpop_ok (o : MX) {s : State} (h : s.MemOk) : OutOk (execMpop o s) := by simp (maxDischargeDepth := 16) [execMpop, h]

theorem execMfirst_ok (o : MX) {s : State} (h : s.MemOk) : OutOk (execMfirst o s) := by simp (maxDischargeDepth := 16) [execMfirst, h]

theorem execMsetx_ok (o : MSet) {s : State} (h : s.MemOk) : OutOk (execMsetx o s) := by simp (maxDischargeDepth := 16) [execMsetx, h]

theorem execMclr_ok (a : MReg) {s : State} (h : s.MemOk) : OutOk (execMclr a s) := by
  unfold execMclr; try dsimp only
  refine outOk_run ?_ h
  repeat' first
    | with_reducible apply keeps_closing
    | with_reducible apply keeps_retry
    | with_reducible apply keeps_bind
    | with_reducible apply keeps_ite
    | with_reducible apply keeps_update
    | intro _
    | split
    | dsimp only
  all_goals simp (maxDischargeDepth := 16) [*]

theorem execViota_ok (o : MX) {s : State} (h : s.MemOk) : OutOk (execViota o s) := by simp (maxDischargeDepth := 16) [execViota, h]

theorem execVidx_ok (o : VIx) {s : State} (h : s.MemOk) : OutOk (execVidx o s) := by simp (maxDischargeDepth := 16) [execVidx, h]

theorem execMmovv_ok (o : MX) {s : State} (h : s.MemOk) : OutOk (execMmovv o s) := by simp (maxDischargeDepth := 16) [execMmovv, h]

theorem execVrsumo_ok (o : VVX) {s : State} (h : s.MemOk) : OutOk (execVrsumo o s) := by simp (maxDischargeDepth := 16) [execVrsumo, h]

theorem execVrsumt_ok (o : VVX) {s : State} (h : s.MemOk) : OutOk (execVrsumt o s) := by simp (maxDischargeDepth := 16) [execVrsumt, h]

theorem execVrmaxf_ok (o : VVX) {s : State} (h : s.MemOk) : OutOk (execVrmaxf o s) := by simp (maxDischargeDepth := 16) [execVrmaxf, h]

theorem execVrminf_ok (o : VVX) {s : State} (h : s.MemOk) : OutOk (execVrminf o s) := by simp (maxDischargeDepth := 16) [execVrminf, h]

theorem execVrmaxfi_ok (o : VVX) {s : State} (h : s.MemOk) : OutOk (execVrmaxfi o s) := by
  unfold execVrmaxfi; try dsimp only
  repeat' split
  all_goals simp (maxDischargeDepth := 16) +contextual [*]

theorem execVrsum_ok (o : VVX) {s : State} (h : s.MemOk) : OutOk (execVrsum o s) := by simp (maxDischargeDepth := 16) [execVrsum, h]

theorem execVrmax_ok (o : VVX) {s : State} (h : s.MemOk) : OutOk (execVrmax o s) := by simp (maxDischargeDepth := 16) [execVrmax, h]

theorem execVrmin_ok (o : VVX) {s : State} (h : s.MemOk) : OutOk (execVrmin o s) := by simp (maxDischargeDepth := 16) [execVrmin, h]

theorem execVrmaxn_ok (o : VVX) {s : State} (h : s.MemOk) : OutOk (execVrmaxn o s) := by simp (maxDischargeDepth := 16) [execVrmaxn, h]

theorem execVrminn_ok (o : VVX) {s : State} (h : s.MemOk) : OutOk (execVrminn o s) := by simp (maxDischargeDepth := 16) [execVrminn, h]

theorem execVrand_ok (o : VVX) {s : State} (h : s.MemOk) : OutOk (execVrand o s) := by simp (maxDischargeDepth := 16) [execVrand, h]

theorem execVror_ok (o : VVX) {s : State} (h : s.MemOk) : OutOk (execVror o s) := by simp (maxDischargeDepth := 16) [execVror, h]

theorem execVrxor_ok (o : VVX) {s : State} (h : s.MemOk) : OutOk (execVrxor o s) := by simp (maxDischargeDepth := 16) [execVrxor, h]

theorem execVrmaxi_ok (o : VVX) {s : State} (h : s.MemOk) : OutOk (execVrmaxi o s) := by
  unfold execVrmaxi; try dsimp only
  repeat' split
  all_goals simp (maxDischargeDepth := 16) +contextual [*]

theorem execVrgath_ok (o : VVV) {s : State} (h : s.MemOk) : OutOk (execVrgath o s) := by
  unfold execVrgath; try dsimp only
  repeat' split
  all_goals simp (maxDischargeDepth := 16) +contextual [*]

theorem execVslup_ok (o : VVX) {s : State} (h : s.MemOk) : OutOk (execVslup o s) := by
  unfold execVslup; try dsimp only
  repeat' split
  all_goals simp (maxDischargeDepth := 16) +contextual [*]

theorem execVsldn_ok (o : VVX) {s : State} (h : s.MemOk) : OutOk (execVsldn o s) := by
  unfold execVsldn; try dsimp only
  repeat' split
  all_goals simp (maxDischargeDepth := 16) +contextual [*]

theorem execVcmpr_ok (o : VV) {s : State} (h : s.MemOk) : OutOk (execVcmpr o s) := by
  unfold execVcmpr; try dsimp only
  repeat' split
  all_goals simp (maxDischargeDepth := 16) +contextual [*]

theorem execVmerge_ok (o : VVV) {s : State} (h : s.MemOk) : OutOk (execVmerge o s) := by
  unfold execVmerge; try dsimp only
  repeat' split
  all_goals simp (maxDischargeDepth := 16) +contextual [*]

theorem execVmvs_ok (o : VM2) {s : State} (h : s.MemOk) : OutOk (execVmvs o s) := by
  unfold execVmvs; try dsimp only
  repeat' split
  all_goals simp (maxDischargeDepth := 16) +contextual [*]

theorem execVmvx_ok (o : VV) {s : State} (h : s.MemOk) : OutOk (execVmvx o s) := by
  unfold execVmvx; try dsimp only
  refine outOk_run ?_ h
  repeat' first
    | with_reducible apply keeps_closing
    | with_reducible apply keeps_retry
    | with_reducible apply keeps_bind
    | with_reducible apply keeps_ite
    | with_reducible apply keeps_update
    | intro _
    | split
    | dsimp only
  all_goals simp (maxDischargeDepth := 16) [*]

theorem execVbcst_ok (o : VM2) {s : State} (h : s.MemOk) : OutOk (execVbcst o s) := by
  unfold execVbcst; try dsimp only
  repeat' split
  all_goals simp (maxDischargeDepth := 16) +contextual [*]

theorem execVmov_ok (o : VV) {s : State} (h : s.MemOk) : OutOk (execVmov o s) := by simp (maxDischargeDepth := 16) [execVmov, h]

theorem execXchg_ok (o : VVX) {s : State} (h : s.MemOk) : OutOk (execXchg o s) := by
  unfold execXchg; try dsimp only
  repeat' split
  all_goals simp (maxDischargeDepth := 16) +contextual [*]

theorem execTmac_ok (o : Tm) {s : State} (h : s.MemOk) : OutOk (execTmac o s) := by
  unfold execTmac; try dsimp only
  repeat' split
  all_goals simp (maxDischargeDepth := 16) +contextual [*]

theorem execTzero_ok (t : TReg) {s : State} (h : s.MemOk) : OutOk (execTzero t s) := by
  unfold execTzero; try dsimp only
  repeat' split
  all_goals simp (maxDischargeDepth := 16) +contextual [*]

theorem execTrow_ok (o : Trw) {s : State} (h : s.MemOk) : OutOk (execTrow o s) := by
  unfold execTrow; try dsimp only
  repeat' split
  all_goals simp (maxDischargeDepth := 16) +contextual [*]

theorem execTsetrow_ok (o : Tsr) {s : State} (h : s.MemOk) : OutOk (execTsetrow o s) := by
  unfold execTsetrow; try dsimp only
  repeat' split
  all_goals simp (maxDischargeDepth := 16) +contextual [*]

theorem execVbind_ok (o : R2) {s : State} (h : s.MemOk) : OutOk (execVbind o s) := by
  unfold execVbind; try dsimp only
  refine engineOp_ok _ ?_ h
  repeat' first
    | with_reducible apply keeps_enter
    | with_reducible apply keeps_taskCommand
    | with_reducible apply keeps_launchCommand
    | with_reducible apply keeps_bind
    | with_reducible apply keeps_ite
    | with_reducible apply keeps_update
    | intro _
    | split
    | dsimp only
  all_goals simp (maxDischargeDepth := 16) [*]

theorem execVunbind_ok (b : XReg) {s : State} (h : s.MemOk) : OutOk (execVunbind b s) := by
  unfold execVunbind; try dsimp only
  refine engineOp_ok _ ?_ h
  repeat' first
    | with_reducible apply keeps_enter
    | with_reducible apply keeps_taskCommand
    | with_reducible apply keeps_launchCommand
    | with_reducible apply keeps_bind
    | with_reducible apply keeps_ite
    | with_reducible apply keeps_update
    | intro _
    | split
    | dsimp only
  all_goals simp (maxDischargeDepth := 16) [*]

theorem execVspos_ok (o : R3) {s : State} (h : s.MemOk) : OutOk (execVspos o s) := by
  unfold execVspos; try dsimp only
  refine engineOp_ok _ ?_ h
  repeat' first
    | with_reducible apply keeps_enter
    | with_reducible apply keeps_taskCommand
    | with_reducible apply keeps_launchCommand
    | with_reducible apply keeps_bind
    | with_reducible apply keeps_ite
    | with_reducible apply keeps_update
    | intro _
    | split
    | dsimp only
  all_goals simp (maxDischargeDepth := 16) [*]

theorem execVsflush_ok (b : XReg) {s : State} (h : s.MemOk) : OutOk (execVsflush b s) := by
  unfold execVsflush; try dsimp only
  refine engineOp_ok _ ?_ h
  repeat' first
    | with_reducible apply keeps_enter
    | with_reducible apply keeps_taskCommand
    | with_reducible apply keeps_launchCommand
    | with_reducible apply keeps_bind
    | with_reducible apply keeps_ite
    | with_reducible apply keeps_update
    | intro _
    | split
    | dsimp only
  all_goals simp (maxDischargeDepth := 16) [*]

theorem execHspawn_ok (o : R2) {s : State} (h : s.MemOk) : OutOk (execHspawn o s) := by
  unfold execHspawn; try dsimp only
  refine outOk_run ?_ h
  repeat' first
    | with_reducible apply keeps_closing
    | with_reducible apply keeps_retry
    | with_reducible apply keeps_bind
    | with_reducible apply keeps_ite
    | with_reducible apply keeps_update
    | intro _
    | split
    | dsimp only
  all_goals simp (maxDischargeDepth := 16) [*]

theorem execHexit_ok (b : XReg) {s : State} (h : s.MemOk) : OutOk (execHexit b s) := by
  unfold execHexit; try dsimp only
  refine outOk_run ?_ h
  repeat' first
    | with_reducible apply keeps_closing
    | with_reducible apply keeps_retry
    | with_reducible apply keeps_bind
    | with_reducible apply keeps_ite
    | with_reducible apply keeps_update
    | intro _
    | split
    | dsimp only
  all_goals simp (maxDischargeDepth := 16) [*]

theorem execLease_ok (o : R2) {s : State} (h : s.MemOk) : OutOk (execLease o s) := by
  unfold execLease; try dsimp only
  refine outOk_run ?_ h
  repeat' first
    | with_reducible apply keeps_closing
    | with_reducible apply keeps_retry
    | with_reducible apply keeps_bind
    | with_reducible apply keeps_ite
    | with_reducible apply keeps_update
    | intro _
    | split
    | dsimp only
  all_goals simp (maxDischargeDepth := 16) [*]

theorem execGarrive_ok (a : XReg) {s : State} (h : s.MemOk) : OutOk (execGarrive a s) := by
  unfold execGarrive; try dsimp only
  refine outOk_run ?_ h
  repeat' first
    | with_reducible apply keeps_closing
    | with_reducible apply keeps_retry
    | with_reducible apply keeps_bind
    | with_reducible apply keeps_ite
    | with_reducible apply keeps_update
    | intro _
    | split
    | dsimp only
  all_goals simp (maxDischargeDepth := 16) [*]

theorem execGwait_ok (o : R2) {s : State} (h : s.MemOk) : OutOk (execGwait o s) := by
  unfold execGwait; try dsimp only
  refine outOk_run ?_ h
  repeat' first
    | with_reducible apply keeps_closing
    | with_reducible apply keeps_retry
    | with_reducible apply keeps_bind
    | with_reducible apply keeps_ite
    | with_reducible apply keeps_update
    | intro _
    | split
    | dsimp only
  all_goals simp (maxDischargeDepth := 16) [*]

theorem execHjoin_ok (o : R2) {s : State} (h : s.MemOk) : OutOk (execHjoin o s) := by
  unfold execHjoin; try dsimp only
  refine outOk_run ?_ h
  repeat' first
    | with_reducible apply keeps_closing
    | with_reducible apply keeps_retry
    | with_reducible apply keeps_bind
    | with_reducible apply keeps_ite
    | with_reducible apply keeps_update
    | intro _
    | split
    | dsimp only
  all_goals simp (maxDischargeDepth := 16) [*]

theorem execCpystart_ok (o : R2) {s : State} (h : s.MemOk) : OutOk (execCpystart o s) := by
  unfold execCpystart; try dsimp only
  refine engineOp_ok _ ?_ h
  repeat' first
    | with_reducible apply keeps_enter
    | with_reducible apply keeps_taskCommand
    | with_reducible apply keeps_launchCommand
    | with_reducible apply keeps_bind
    | with_reducible apply keeps_ite
    | with_reducible apply keeps_update
    | intro _
    | split
    | dsimp only
  all_goals simp (maxDischargeDepth := 16) [*]

theorem execCpycan_ok (b : XReg) {s : State} (h : s.MemOk) : OutOk (execCpycan b s) := by
  unfold execCpycan; try dsimp only
  refine engineOp_ok _ ?_ h
  repeat' first
    | with_reducible apply keeps_enter
    | with_reducible apply keeps_taskCommand
    | with_reducible apply keeps_launchCommand
    | with_reducible apply keeps_bind
    | with_reducible apply keeps_ite
    | with_reducible apply keeps_update
    | intro _
    | split
    | dsimp only
  all_goals simp (maxDischargeDepth := 16) [*]

theorem execCpystat_ok (o : R3) {s : State} (h : s.MemOk) : OutOk (execCpystat o s) := by simp (maxDischargeDepth := 16) [execCpystat, h]

theorem execCpystatRelease_ok (o : R3) {s : State} (h : s.MemOk) : OutOk (execCpystatRelease o s) := by simp (maxDischargeDepth := 16) [execCpystatRelease, h]

theorem execBalloc_ok (o : R2) {s : State} (h : s.MemOk) : OutOk (execBalloc o s) := by
  unfold execBalloc; try dsimp only
  refine blkOp_ok _ ?_ (fun _ => ?_) h
  repeat' first
    | with_reducible apply keeps_bind
    | with_reducible apply keeps_ite
    | with_reducible apply keeps_update
    | intro _
    | split
    | dsimp only
  all_goals simp (maxDischargeDepth := 16) [*]

theorem execBallocFar_ok (o : R2) {s : State} (h : s.MemOk) : OutOk (execBallocFar o s) := by
  unfold execBallocFar; try dsimp only
  refine blkOp_ok _ ?_ (fun _ => ?_) h
  repeat' first
    | with_reducible apply keeps_bind
    | with_reducible apply keeps_ite
    | with_reducible apply keeps_update
    | intro _
    | split
    | dsimp only
  all_goals simp (maxDischargeDepth := 16) [*]

theorem execBref_ok (o : Ord2) {s : State} (h : s.MemOk) : OutOk (execBref o s) := by
  unfold execBref; try dsimp only
  refine blkOp_ok _ ?_ (fun _ => ?_) h
  repeat' first
    | with_reducible apply keeps_bind
    | with_reducible apply keeps_ite
    | with_reducible apply keeps_update
    | intro _
    | split
    | dsimp only
  all_goals simp (maxDischargeDepth := 16) [*]

theorem execBfree_ok (o : Ord2) {s : State} (h : s.MemOk) : OutOk (execBfree o s) := by
  unfold execBfree; try dsimp only
  refine blkOp_ok _ ?_ (fun _ => ?_) h
  repeat' first
    | with_reducible apply keeps_bind
    | with_reducible apply keeps_ite
    | with_reducible apply keeps_update
    | intro _
    | split
    | dsimp only
  all_goals simp (maxDischargeDepth := 16) [*]

theorem execBcow_ok (o : R2) {s : State} (h : s.MemOk) : OutOk (execBcow o s) := by
  unfold execBcow; try dsimp only
  refine blkOp_ok _ ?_ (fun _ => ?_) h
  repeat' first
    | with_reducible apply keeps_bind
    | with_reducible apply keeps_ite
    | with_reducible apply keeps_update
    | intro _
    | split
    | dsimp only
  all_goals simp (maxDischargeDepth := 16) [*]

theorem execBpromo_ok (o : RBC) {s : State} (h : s.MemOk) : OutOk (execBpromo o s) := by
  unfold execBpromo; try dsimp only
  refine blkOp_ok _ ?_ (fun _ => ?_) h
  repeat' first
    | with_reducible apply keeps_bind
    | with_reducible apply keeps_ite
    | with_reducible apply keeps_update
    | intro _
    | split
    | dsimp only
  all_goals simp (maxDischargeDepth := 16) [*]

theorem execBcompact_ok (b : XReg) {s : State} (h : s.MemOk) : OutOk (execBcompact b s) := by
  unfold execBcompact; try dsimp only
  refine blkOp_ok _ ?_ (fun _ => ?_) h
  repeat' first
    | with_reducible apply keeps_bind
    | with_reducible apply keeps_ite
    | with_reducible apply keeps_update
    | intro _
    | split
    | dsimp only
  all_goals simp (maxDischargeDepth := 16) [*]

theorem execEpadv_ok (a : XReg) {s : State} (h : s.MemOk) : OutOk (execEpadv a s) := by
  unfold execEpadv; try dsimp only
  refine blkOp_ok _ ?_ (fun _ => ?_) h
  repeat' first
    | with_reducible apply keeps_bind
    | with_reducible apply keeps_ite
    | with_reducible apply keeps_update
    | intro _
    | split
    | dsimp only
  all_goals simp (maxDischargeDepth := 16) [*]

theorem execEprd_ok (o : R2) {s : State} (h : s.MemOk) : OutOk (execEprd o s) := by
  unfold execEprd
  exact eprd_outOk _ _ _ h

theorem execEprdWithdraw_ok (o : R2) {s : State} (h : s.MemOk) : OutOk (execEprdWithdraw o s) := by
  unfold execEprdWithdraw
  exact eprd_outOk _ _ _ h

theorem execBstat_ok (o : R3) {s : State} (h : s.MemOk) : OutOk (execBstat o s) := by
  unfold execBstat
  refine blkOp_ok _ (keeps_pure _) (fun _ => keeps_bind keeps_get fun _ => keeps_bind (keeps_check ..) fun _ => ?_) h
  repeat' split
  all_goals simp

theorem execVxlat_ok (o : VVX) {s : State} (h : s.MemOk) : OutOk (execVxlat o s) := by
  unfold execVxlat; try dsimp only
  refine outOk_run ?_ h
  repeat' first
    | with_reducible apply keeps_closing
    | with_reducible apply keeps_retry
    | with_reducible apply keeps_bind
    | with_reducible apply keeps_ite
    | with_reducible apply keeps_update
    | intro _
    | split
    | dsimp only
  all_goals simp (maxDischargeDepth := 16) [*]

theorem execVxlatf_ok (o : VVX) {s : State} (h : s.MemOk) : OutOk (execVxlatf o s) := by
  unfold execVxlatf; try dsimp only
  refine outOk_run ?_ h
  repeat' first
    | with_reducible apply keeps_closing
    | with_reducible apply keeps_retry
    | with_reducible apply keeps_bind
    | with_reducible apply keeps_ite
    | with_reducible apply keeps_update
    | intro _
    | split
    | dsimp only
  all_goals simp (maxDischargeDepth := 16) [*]

theorem execIxnew_ok (o : R2) {s : State} (h : s.MemOk) : OutOk (execIxnew o s) := by
  unfold execIxnew; try dsimp only
  refine spanOp_ok _ ?_ (fun _ => ?_) h
  repeat' first
    | with_reducible apply keeps_bind
    | with_reducible apply keeps_ite
    | with_reducible apply keeps_update
    | intro _
    | split
    | dsimp only
  all_goals simp (maxDischargeDepth := 16) [*]

theorem execIxapp_ok (o : R3) {s : State} (h : s.MemOk) : OutOk (execIxapp o s) := by
  unfold execIxapp; try dsimp only
  refine spanOp_ok _ ?_ (fun _ => ?_) h
  repeat' first
    | with_reducible apply keeps_bind
    | with_reducible apply keeps_ite
    | with_reducible apply keeps_update
    | intro _
    | split
    | dsimp only
  all_goals simp (maxDischargeDepth := 16) [*]

theorem execIxseal_ok (o : R2) {s : State} (h : s.MemOk) : OutOk (execIxseal o s) := by
  unfold execIxseal; try dsimp only
  refine spanOp_ok _ ?_ (fun _ => ?_) h
  repeat' first
    | with_reducible apply keeps_bind
    | with_reducible apply keeps_ite
    | with_reducible apply keeps_update
    | intro _
    | split
    | dsimp only
  all_goals simp (maxDischargeDepth := 16) [*]

theorem execIxdrop_ok (b : XReg) {s : State} (h : s.MemOk) : OutOk (execIxdrop b s) := by
  unfold execIxdrop; try dsimp only
  refine spanOp_ok _ ?_ (fun _ => ?_) h
  repeat' first
    | with_reducible apply keeps_bind
    | with_reducible apply keeps_ite
    | with_reducible apply keeps_update
    | intro _
    | split
    | dsimp only
  all_goals simp (maxDischargeDepth := 16) [*]

theorem execIxshare_ok (o : R3) {s : State} (h : s.MemOk) : OutOk (execIxshare o s) := by simp (maxDischargeDepth := 16) [execIxshare, h]

theorem execIxshareRemove_ok (o : R3) {s : State} (h : s.MemOk) : OutOk (execIxshareRemove o s) := by simp (maxDischargeDepth := 16) [execIxshareRemove, h]

theorem execCurnew_ok (o : R2) {s : State} (h : s.MemOk) : OutOk (execCurnew o s) := by
  unfold execCurnew; try dsimp only
  refine spanOp_ok _ ?_ (fun _ => ?_) h
  repeat' first
    | with_reducible apply keeps_bind
    | with_reducible apply keeps_ite
    | with_reducible apply keeps_update
    | intro _
    | split
    | dsimp only
  all_goals simp (maxDischargeDepth := 16) [*]

theorem execCuratt_ok (o : R3) {s : State} (h : s.MemOk) : OutOk (execCuratt o s) := by
  unfold execCuratt; try dsimp only
  refine spanOp_ok _ ?_ (fun _ => ?_) h
  repeat' first
    | with_reducible apply keeps_bind
    | with_reducible apply keeps_ite
    | with_reducible apply keeps_update
    | intro _
    | split
    | dsimp only
  all_goals simp (maxDischargeDepth := 16) [*]

theorem execCurfeed_ok (o : R3) {s : State} (h : s.MemOk) : OutOk (execCurfeed o s) := by
  unfold execCurfeed; try dsimp only
  refine spanOp_ok _ ?_ (fun _ => ?_) h
  repeat' first
    | with_reducible apply keeps_bind
    | with_reducible apply keeps_ite
    | with_reducible apply keeps_update
    | intro _
    | split
    | dsimp only
  all_goals simp (maxDischargeDepth := 16) [*]

theorem execCurprop_ok (o : R3) {s : State} (h : s.MemOk) : OutOk (execCurprop o s) := by
  unfold execCurprop; try dsimp only
  refine spanOp_ok _ ?_ (fun _ => ?_) h
  repeat' first
    | with_reducible apply keeps_bind
    | with_reducible apply keeps_ite
    | with_reducible apply keeps_update
    | intro _
    | split
    | dsimp only
  all_goals simp (maxDischargeDepth := 16) [*]

theorem execCuracc_ok (o : R3) {s : State} (h : s.MemOk) : OutOk (execCuracc o s) := by
  unfold execCuracc; try dsimp only
  refine spanOp_ok _ ?_ (fun _ => ?_) h
  repeat' first
    | with_reducible apply keeps_bind
    | with_reducible apply keeps_ite
    | with_reducible apply keeps_update
    | intro _
    | split
    | dsimp only
  all_goals simp (maxDischargeDepth := 16) [*]

theorem execCurroll_ok (o : R2) {s : State} (h : s.MemOk) : OutOk (execCurroll o s) := by
  unfold execCurroll; try dsimp only
  refine spanOp_ok _ ?_ (fun _ => ?_) h
  repeat' first
    | with_reducible apply keeps_bind
    | with_reducible apply keeps_ite
    | with_reducible apply keeps_update
    | intro _
    | split
    | dsimp only
  all_goals simp (maxDischargeDepth := 16) [*]

theorem execCurdrop_ok (b : XReg) {s : State} (h : s.MemOk) : OutOk (execCurdrop b s) := by
  unfold execCurdrop; try dsimp only
  refine spanOp_ok _ ?_ (fun _ => ?_) h
  repeat' first
    | with_reducible apply keeps_bind
    | with_reducible apply keeps_ite
    | with_reducible apply keeps_update
    | intro _
    | split
    | dsimp only
  all_goals simp (maxDischargeDepth := 16) [*]

theorem execCurstat_ok (o : R3) {s : State} (h : s.MemOk) : OutOk (execCurstat o s) := by
  unfold execCurstat; try dsimp only
  refine spanOp_ok _ ?_ (fun _ => ?_) h
  repeat' first
    | with_reducible apply keeps_bind
    | with_reducible apply keeps_ite
    | with_reducible apply keeps_update
    | intro _
    | split
    | dsimp only
  all_goals simp (maxDischargeDepth := 16) [*]

theorem execFlaunch_ok (o : R2) {s : State} (h : s.MemOk) : OutOk (execFlaunch o s) := by
  unfold execFlaunch; try dsimp only
  refine engineOp_ok _ ?_ h
  repeat' first
    | with_reducible apply keeps_enter
    | with_reducible apply keeps_taskCommand
    | with_reducible apply keeps_launchCommand
    | with_reducible apply keeps_bind
    | with_reducible apply keeps_ite
    | with_reducible apply keeps_update
    | intro _
    | split
    | dsimp only
  all_goals simp (maxDischargeDepth := 16) [*]

theorem execFpoint_ok (o : R3) {s : State} (h : s.MemOk) : OutOk (execFpoint o s) := by
  unfold execFpoint; try dsimp only
  refine engineOp_ok _ ?_ h
  repeat' first
    | with_reducible apply keeps_enter
    | with_reducible apply keeps_taskCommand
    | with_reducible apply keeps_launchCommand
    | with_reducible apply keeps_bind
    | with_reducible apply keeps_ite
    | with_reducible apply keeps_update
    | intro _
    | split
    | dsimp only
  all_goals simp (maxDischargeDepth := 16) [*]

theorem execFdone_ok (o : RBC) {s : State} (h : s.MemOk) : OutOk (execFdone o s) := by
  unfold execFdone; try dsimp only
  refine engineOp_ok _ ?_ h
  repeat' first
    | with_reducible apply keeps_enter
    | with_reducible apply keeps_taskCommand
    | with_reducible apply keeps_launchCommand
    | with_reducible apply keeps_bind
    | with_reducible apply keeps_ite
    | with_reducible apply keeps_update
    | intro _
    | split
    | dsimp only
  all_goals simp (maxDischargeDepth := 16) [*]

theorem execFnext_ok (o : R2) {s : State} (h : s.MemOk) : OutOk (execFnext o s) := by
  unfold execFnext; try dsimp only
  refine engineOp_ok _ ?_ h
  repeat' first
    | with_reducible apply keeps_enter
    | with_reducible apply keeps_taskCommand
    | with_reducible apply keeps_launchCommand
    | with_reducible apply keeps_bind
    | with_reducible apply keeps_ite
    | with_reducible apply keeps_update
    | intro _
    | split
    | dsimp only
  all_goals simp (maxDischargeDepth := 16) [*]

theorem execFsave_ok (b : XReg) {s : State} (h : s.MemOk) : OutOk (execFsave b s) := by
  unfold execFsave; try dsimp only
  refine engineOp_ok _ ?_ h
  repeat' first
    | with_reducible apply keeps_enter
    | with_reducible apply keeps_taskCommand
    | with_reducible apply keeps_launchCommand
    | with_reducible apply keeps_bind
    | with_reducible apply keeps_ite
    | with_reducible apply keeps_update
    | intro _
    | split
    | dsimp only
  all_goals simp (maxDischargeDepth := 16) [*]

theorem execFresume_ok (b : XReg) {s : State} (h : s.MemOk) : OutOk (execFresume b s) := by
  unfold execFresume; try dsimp only
  refine engineOp_ok _ ?_ h
  repeat' first
    | with_reducible apply keeps_enter
    | with_reducible apply keeps_taskCommand
    | with_reducible apply keeps_launchCommand
    | with_reducible apply keeps_bind
    | with_reducible apply keeps_ite
    | with_reducible apply keeps_update
    | intro _
    | split
    | dsimp only
  all_goals simp (maxDischargeDepth := 16) [*]

theorem execFquery_ok (o : R3) {s : State} (h : s.MemOk) : OutOk (execFquery o s) := by
  unfold execFquery; try dsimp only
  refine engineOp_ok _ ?_ h
  repeat' first
    | with_reducible apply keeps_enter
    | with_reducible apply keeps_taskCommand
    | with_reducible apply keeps_launchCommand
    | with_reducible apply keeps_bind
    | with_reducible apply keeps_ite
    | with_reducible apply keeps_update
    | intro _
    | split
    | dsimp only
  all_goals simp (maxDischargeDepth := 16) [*]

theorem execFcancel_ok (b : XReg) {s : State} (h : s.MemOk) : OutOk (execFcancel b s) := by
  unfold execFcancel; try dsimp only
  refine engineOp_ok _ ?_ h
  repeat' first
    | with_reducible apply keeps_enter
    | with_reducible apply keeps_taskCommand
    | with_reducible apply keeps_launchCommand
    | with_reducible apply keeps_bind
    | with_reducible apply keeps_ite
    | with_reducible apply keeps_update
    | intro _
    | split
    | dsimp only
  all_goals simp (maxDischargeDepth := 16) [*]

theorem execGswitch_ok (b : XReg) {s : State} (h : s.MemOk) : OutOk (execGswitch b s) :=
  switchOp_ok _ _ _ _ (fun _ _ => switchOut_ok _) h

theorem execGresume_ok (b : XReg) {s : State} (h : s.MemOk) : OutOk (execGresume b s) := by
  unfold execGresume; try dsimp only
  repeat' split
  all_goals simp (maxDischargeDepth := 16) +contextual [*]

theorem execFbstat_ok (o : R3) {s : State} (h : s.MemOk) : OutOk (execFbstat o s) := by
  unfold execFbstat; try dsimp only
  refine engineOp_ok _ ?_ h
  repeat' first
    | with_reducible apply keeps_enter
    | with_reducible apply keeps_taskCommand
    | with_reducible apply keeps_launchCommand
    | with_reducible apply keeps_bind
    | with_reducible apply keeps_ite
    | with_reducible apply keeps_update
    | intro _
    | split
    | dsimp only
  all_goals simp (maxDischargeDepth := 16) [*]

theorem execCMov_ok (o : C2) {s : State} (h : s.MemOk) : OutOk (execCMov o s) := by simp (maxDischargeDepth := 16) [execCMov, h]

theorem execCAdd_ok (o : C2) {s : State} (h : s.MemOk) : OutOk (execCAdd o s) := by simp (maxDischargeDepth := 16) [execCAdd, h]

theorem execCSub_ok (o : C2) {s : State} (h : s.MemOk) : OutOk (execCSub o s) := by simp (maxDischargeDepth := 16) [execCSub, h]

theorem execCAnd_ok (o : C2) {s : State} (h : s.MemOk) : OutOk (execCAnd o s) := by simp (maxDischargeDepth := 16) [execCAnd, h]

theorem execCOr_ok (o : C2) {s : State} (h : s.MemOk) : OutOk (execCOr o s) := by simp (maxDischargeDepth := 16) [execCOr, h]

theorem execCXor_ok (o : C2) {s : State} (h : s.MemOk) : OutOk (execCXor o s) := by simp (maxDischargeDepth := 16) [execCXor, h]

theorem execCShl_ok (o : C2) {s : State} (h : s.MemOk) : OutOk (execCShl o s) := by simp (maxDischargeDepth := 16) [execCShl, h]

theorem execCAddi_ok (o : C2) {s : State} (h : s.MemOk) : OutOk (execCAddi o s) := by
  unfold execCAddi; try dsimp only
  repeat' split
  all_goals simp (maxDischargeDepth := 16) +contextual [*]

theorem execCLdd_ok (o : C2) {s : State} (h : s.MemOk) : OutOk (execCLdd o s) := by
  unfold execCLdd
  refine withLatch_outOk _ _ _ (fun l s h => ?_) h
  simp (maxDischargeDepth := 16) [*]

theorem execCMul_ok (o : C2) {s : State} (h : s.MemOk) : OutOk (execCMul o s) := by simp (maxDischargeDepth := 16) [execCMul, h]

theorem execCSlt_ok (o : C2) {s : State} (h : s.MemOk) : OutOk (execCSlt o s) := by simp (maxDischargeDepth := 16) [execCSlt, h]

theorem execCVmov_ok (o : C2) {s : State} (h : s.MemOk) : OutOk (execCVmov o s) := by simp (maxDischargeDepth := 16) [execCVmov, h]

theorem execCVadd_ok (o : C2) {s : State} (h : s.MemOk) : OutOk (execCVadd o s) := by simp (maxDischargeDepth := 16) [execCVadd, h]

theorem execCVsub_ok (o : C2) {s : State} (h : s.MemOk) : OutOk (execCVsub o s) := by simp (maxDischargeDepth := 16) [execCVsub, h]

theorem execCVmul_ok (o : C2) {s : State} (h : s.MemOk) : OutOk (execCVmul o s) := by simp (maxDischargeDepth := 16) [execCVmul, h]

theorem execCVfadd_ok (o : C2) {s : State} (h : s.MemOk) : OutOk (execCVfadd o s) := by simp (maxDischargeDepth := 16) [execCVfadd, h]

theorem execCVfsub_ok (o : C2) {s : State} (h : s.MemOk) : OutOk (execCVfsub o s) := by simp (maxDischargeDepth := 16) [execCVfsub, h]

theorem execCVfmul_ok (o : C2) {s : State} (h : s.MemOk) : OutOk (execCVfmul o s) := by simp (maxDischargeDepth := 16) [execCVfmul, h]

theorem execCVfma_ok (o : C2) {s : State} (h : s.MemOk) : OutOk (execCVfma o s) := by simp (maxDischargeDepth := 16) [execCVfma, h]

theorem execCVfmax_ok (o : C2) {s : State} (h : s.MemOk) : OutOk (execCVfmax o s) := by simp (maxDischargeDepth := 16) [execCVfmax, h]

theorem execCVfmin_ok (o : C2) {s : State} (h : s.MemOk) : OutOk (execCVfmin o s) := by simp (maxDischargeDepth := 16) [execCVfmin, h]

theorem execCVand_ok (o : C2) {s : State} (h : s.MemOk) : OutOk (execCVand o s) := by simp (maxDischargeDepth := 16) [execCVand, h]

theorem execCVxor_ok (o : C2) {s : State} (h : s.MemOk) : OutOk (execCVxor o s) := by simp (maxDischargeDepth := 16) [execCVxor, h]

theorem execSetvlGrantWaitEnd_ok (r : HartRef) {s : State} (h : s.MemOk) : OutOk (execSetvlGrantWaitEnd r s) := by
  unfold execSetvlGrantWaitEnd; refine onWait_outOk _ (fun w s h => ?_) h
  repeat' split
  all_goals first
    | exact h
    | assumption
    | simp (maxDischargeDepth := 16) +contextual [*]

theorem execForcedShrink_ok (r : HartRef) {s : State} (h : s.MemOk) : OutOk (execForcedShrink r s) := by
  unfold execForcedShrink; refine onHart_outOk _ (fun x s h => ?_) h; dsimp only
  split
  · exact (yieldHalls_memOk ..).2 (ok_foldl (fun s y h => (shrinkOne_memOk s y).2 h) _ (renewPhase_ok _ _ h))
  · exact h

theorem execPreemption_ok (r : HartRef) {s : State} (h : s.MemOk) : OutOk (execPreemption r s) := by
  unfold execPreemption; refine onHart_outOk _ (fun x s h => ?_) h; try dsimp only
  repeat' split
  all_goals first
    | exact h
    | assumption
    | simp (maxDischargeDepth := 16) +contextual [*]

theorem execWatchdogExpiry_ok (r : HartRef) {s : State} (h : s.MemOk) : OutOk (execWatchdogExpiry r s) := by
  unfold execWatchdogExpiry; refine onHart_outOk _ (fun x s h => ?_) h; try dsimp only
  repeat' split
  all_goals first
    | exact h
    | assumption
    | simp (maxDischargeDepth := 16) +contextual [*]

theorem execBudget_ok {s : State} (h : s.MemOk) : OutOk (execBudget s) := by
  unfold execBudget; try dsimp only
  refine outOk_run ?_ h
  repeat' first
    | with_reducible apply keeps_closing
    | with_reducible apply keeps_retry
    | with_reducible apply keeps_bind
    | with_reducible apply keeps_ite
    | with_reducible apply keeps_update
    | intro _
    | split
    | dsimp only
  all_goals simp (maxDischargeDepth := 16) [*]

theorem execResidencyEviction_ok (r : HartRef) {s : State} (h : s.MemOk) : OutOk (execResidencyEviction r s) := by
  unfold execResidencyEviction; refine onHart_outOk _ (fun x s h => ?_) h; try dsimp only
  repeat' split
  all_goals first
    | exact h
    | assumption
    | simp (maxDischargeDepth := 16) +contextual [*]

theorem execEngineQueueAdmit_ok (r : HartRef) {s : State} (h : s.MemOk) : OutOk (execEngineQueueAdmit r s) := by
  unfold execEngineQueueAdmit; refine onHart_outOk _ (fun x s h => ?_) h; try dsimp only
  repeat' split
  all_goals first
    | exact h
    | assumption
    | simp (maxDischargeDepth := 16) +contextual [*]

theorem execWaitaWake_ok (r : HartRef) {s : State} (h : s.MemOk) : OutOk (execWaitaWake r s) := by
  unfold execWaitaWake; refine onWait_outOk _ (fun w s h => ?_) h
  repeat' split
  all_goals first
    | exact h
    | assumption
    | simp (maxDischargeDepth := 16) +contextual [*]

theorem execWaitTimeout_ok (r : HartRef) {s : State} (h : s.MemOk) : OutOk (execWaitTimeout r s) := by
  unfold execWaitTimeout; refine onWait_outOk _ (fun w s h => ?_) h
  repeat' split
  all_goals first
    | exact h
    | assumption
    | simp (maxDischargeDepth := 16) +contextual [*]

theorem execHaltResume_ok (r : HartRef) {s : State} (h : s.MemOk) : OutOk (execHaltResume r s) := by
  unfold execHaltResume; refine onWait_outOk _ (fun w s h => ?_) h
  repeat' split
  all_goals first
    | exact h
    | assumption
    | simp (maxDischargeDepth := 16) +contextual [*]

theorem execHaltTimeout_ok (r : HartRef) {s : State} (h : s.MemOk) : OutOk (execHaltTimeout r s) := by
  unfold execHaltTimeout; refine onWait_outOk _ (fun w s h => ?_) h
  repeat' split
  all_goals first
    | exact h
    | assumption
    | simp (maxDischargeDepth := 16) +contextual [*]

theorem execTlbinvComplete_ok (r : HartRef) {s : State} (h : s.MemOk) : OutOk (execTlbinvComplete r s) := by
  unfold execTlbinvComplete; refine onWait_outOk _ (fun w s h => ?_) h
  repeat' split
  all_goals first
    | exact h
    | assumption
    | simp (maxDischargeDepth := 16) +contextual [*]

theorem execCopyChunkDone_ok (o : ObjRef) (chunk : Nat) {s : State} (h : s.MemOk) : OutOk (execCopyChunkDone o chunk s) := by
  unfold execCopyChunkDone; refine onPart_outOk _ (fun s h => ?_) h
  repeat' split
  all_goals first
    | exact h
    | assumption
    | simp (maxDischargeDepth := 16) +contextual [*]

theorem execBcowCopyDone_ok (r : HartRef) {s : State} (h : s.MemOk) : OutOk (execBcowCopyDone r s) := by
  unfold execBcowCopyDone; refine onHart_outOk _ (fun x s h => ?_) h; try dsimp only
  repeat' split
  all_goals first
    | exact h
    | assumption
    | simp (maxDischargeDepth := 16) +contextual [*]

theorem execPromotionComplete_ok (o : ObjRef) {s : State} (h : s.MemOk) : OutOk (execPromotionComplete o s) := by
  unfold execPromotionComplete; refine onPart_outOk _ (fun s h => ?_) h
  repeat' split
  all_goals first
    | exact h
    | assumption
    | simp (maxDischargeDepth := 16) +contextual [*]

theorem execCompactionComplete_ok (p : PartId) {s : State} (h : s.MemOk) : OutOk (execCompactionComplete p s) := by
  unfold execCompactionComplete; refine onPart_outOk _ (fun s h => ?_) h
  repeat' split
  all_goals first
    | exact h
    | assumption
    | simp (maxDischargeDepth := 16) +contextual [*]

theorem execEpochReclaim_ok (p : PartId) {s : State} (h : s.MemOk) : OutOk (execEpochReclaim p s) := by
  unfold execEpochReclaim; refine onPart_outOk _ (fun s h => ?_) h
  repeat' split
  all_goals first
    | exact h
    | assumption
    | simp (maxDischargeDepth := 16) +contextual [*]

theorem execIxdropStorageReleased_ok (r : HartRef) {s : State} (h : s.MemOk) : OutOk (execIxdropStorageReleased r s) := by
  unfold execIxdropStorageReleased; refine onHart_outOk _ (fun x s h => ?_) h; try dsimp only
  repeat' split
  all_goals first
    | exact h
    | assumption
    | simp (maxDischargeDepth := 16) +contextual [*]

theorem execCurpropOutputWritten_ok (r : HartRef) {s : State} (h : s.MemOk) : OutOk (execCurpropOutputWritten r s) := by
  unfold execCurpropOutputWritten; refine onHart_outOk _ (fun x s h => ?_) h; try dsimp only
  repeat' split
  all_goals first
    | exact h
    | assumption
    | simp (maxDischargeDepth := 16) +contextual [*]

theorem execFnextServe_ok (o : ObjRef) {s : State} (h : s.MemOk) : OutOk (execFnextServe o s) := by
  unfold execFnextServe; refine onPart_outOk _ (fun s h => ?_) h
  repeat' split
  all_goals first
    | exact h
    | assumption
    | simp (maxDischargeDepth := 16) +contextual [*]

theorem execFsaveAreaWritten_ok (o : ObjRef) {s : State} (h : s.MemOk) : OutOk (execFsaveAreaWritten o s) := by
  unfold execFsaveAreaWritten; refine onPart_outOk _ (fun s h => ?_) h
  repeat' split
  · exact ok_of_mem h (saveReleased_mem ..)
  · exact saveWritten_ok _ h
  · exact h
  · exact h

theorem execLaunchPark_ok (o : ObjRef) {s : State} (h : s.MemOk) : OutOk (execLaunchPark o s) := by
  unfold execLaunchPark; refine onPart_outOk _ (fun s h => ?_) h
  repeat' split
  all_goals first
    | exact h
    | assumption
    | simp (maxDischargeDepth := 16) +contextual [*]

theorem execStartMessage_ok (r : PortRef) (p : Packet) {s : State} (h : s.MemOk) : OutOk (execStartMessage r p s) := arrive_outOk _ _ _ _ h

theorem execHostWrite_ok (a : Arrival) (va : Word) (data : List Byte) {s : State} (h : s.MemOk) : OutOk (execHostWrite a va data s) := arrive_outOk _ _ _ _ h

theorem execRead_ok (a : Arrival) {s : State} (h : s.MemOk) : OutOk (execRead a s) := arrive_outOk _ _ _ _ h

theorem execReadResponse_ok (a : Arrival) {s : State} (h : s.MemOk) : OutOk (execReadResponse a s) := arrive_outOk _ _ _ _ h

theorem execWrite_ok (a : Arrival) {s : State} (h : s.MemOk) : OutOk (execWrite a s) := arrive_outOk _ _ _ _ h

theorem execWriteAcknowledgement_ok (a : Arrival) {s : State} (h : s.MemOk) : OutOk (execWriteAcknowledgement a s) := arrive_outOk _ _ _ _ h

theorem execAtomic_ok (a : Arrival) {s : State} (h : s.MemOk) : OutOk (execAtomic a s) := arrive_outOk _ _ _ _ h

theorem execAtomicResponse_ok (a : Arrival) {s : State} (h : s.MemOk) : OutOk (execAtomicResponse a s) := arrive_outOk _ _ _ _ h

theorem execManagement_ok (a : Arrival) {s : State} (h : s.MemOk) : OutOk (execManagement a s) := arrive_outOk _ _ _ _ h

theorem execMarker_ok (tag : BitVec 16) (port : PortRef) (vc : BitVec 2) {s : State} (h : s.MemOk) : OutOk (execMarker tag port vc s) := by
  unfold execMarker; try dsimp only
  refine outOk_next ?_
  repeat' split
  all_goals first
    | exact h
    | assumption
    | simp (maxDischargeDepth := 16) +contextual [*]

theorem execFlitReplay_ok (_port : PortRef) {s : State} (h : s.MemOk) : OutOk (execFlitReplay _port s) := by
  unfold execFlitReplay; try dsimp only
  refine outOk_next ?_
  repeat' split
  all_goals first
    | exact h
    | assumption
    | simp (maxDischargeDepth := 16) +contextual [*]

theorem execCredit_ok (r : PortRef) (vc : BitVec 2) {s : State} (h : s.MemOk) : OutOk (execCredit r vc s) :=
  outOk_next (moveOn_ok _ _ (ite_ok h h))

theorem execInjectionAdmit_ok (r : PortRef) {s : State} (h : s.MemOk) : OutOk (execInjectionAdmit r s) :=
  outOk_next (moveOn_ok _ _ h)

theorem execLinkTraining_ok (r : PortRef) (lanes : BitVec 4) {s : State} (h : s.MemOk) : OutOk (execLinkTraining r lanes s) := by
  unfold execLinkTraining; try dsimp only
  refine outOk_next ?_
  repeat' split
  all_goals first
    | exact h
    | assumption
    | simp (maxDischargeDepth := 16) +contextual [*]

theorem execLinkDown_ok (r : PortRef) {s : State} (h : s.MemOk) : OutOk (execLinkDown r s) := by
  unfold execLinkDown; try dsimp only
  refine outOk_next ?_
  repeat' split
  all_goals first
    | exact h
    | assumption
    | simp (maxDischargeDepth := 16) +contextual [*]

theorem execHartsOff_ok (tag node : BitVec 16) {s : State} (h : s.MemOk) : OutOk (execHartsOff tag node s) := by
  unfold execHartsOff
  refine onJob_outOk _ (fun j s h => ?_) (settleMgmt_ok h)
  split
  · split
    · exact ok_of_mem h (noteOff_mem ..)
    · exact h
  · exact h

theorem execJobSwitchedOut_ok (tag : BitVec 16) {s : State} (h : s.MemOk) : OutOk (execJobSwitchedOut tag s) := by
  unfold execJobSwitchedOut
  refine onJob_outOk _ (fun j s h => ?_) h
  split
  · exact h
  · split
    · exact ite_ok (reportCounts_ok _ h) h
    · exact ite_ok (trySwitched_ok _ h) h

theorem execLatePacket_ok (port : PortRef) (p : Packet) {s : State} (h : s.MemOk) : OutOk (execLatePacket port p s) := by
  unfold execLatePacket
  exact onJob_outOk _ (fun j s h => ite_ok (stoppedPacket_ok _ _ h) h) h

theorem execJobResumed_ok (tag : BitVec 16) {s : State} (h : s.MemOk) : OutOk (execJobResumed tag s) := by
  unfold execJobResumed
  refine onJob_outOk _ (fun j s h => ?_) h
  split
  · exact h
  · split
    · exact ite_ok (noteBack_ok _ _ h) (tryResumed_ok _ h)
    · exact ite_ok h h

theorem execPartitionConfigure_ok (c : PartCfg) {s : State} (h : s.MemOk) : OutOk (execPartitionConfigure c s) := by
  unfold execPartitionConfigure
  refine outOk_next ?_
  split
  · rw [measureTable_memOk]
    refine inPart_ok _ (fun t h => writePage_ok h) (ok_foldl (fun s y h => scrubHall_ok y h) _ ?_)
    exact ok_foldl (fun t (j : Job) (ht : t.MemOk) => show (sendJob .reconfigured j.tag [] j.home t).MemOk from ht) _ h
  · exact h

theorem execRouteConfigure_ok (node : BitVec 16) (routes : Routing) {s : State} (h : s.MemOk) : OutOk (execRouteConfigure node routes s) := by
  unfold execRouteConfigure; try dsimp only
  refine outOk_next ?_
  repeat' split
  all_goals first
    | exact h
    | assumption
    | simp (maxDischargeDepth := 16) +contextual [*]

theorem execResizeHall_ok (r : HallResize) {s : State} (h : s.MemOk) : OutOk (execResizeHall r s) := by
  unfold execResizeHall; try dsimp only
  refine outOk_next ?_
  repeat' split
  all_goals first
    | exact h
    | assumption
    | simp (maxDischargeDepth := 16) +contextual [*]

theorem execResizeMemory_ok (p : PartId) (l2 chans : BitVec 256) {s : State} (h : s.MemOk) : OutOk (execResizeMemory p l2 chans s) := by
  unfold execResizeMemory
  exact outOk_next (inPart_ok _ (fun t h => ite_ok ((rewritePage_ok ((modPart_ok _ _).2 h))) h) h)

theorem execGranuleMigration_ok (_p : PartId) (_granule : Nat) {s : State} (h : s.MemOk) : OutOk (execGranuleMigration _p _granule s) := by
  unfold execGranuleMigration; try dsimp only
  refine outOk_next ?_
  repeat' split
  all_goals first
    | exact h
    | assumption
    | simp (maxDischargeDepth := 16) +contextual [*]

theorem execPartitionPreemption_ok (p : PartId) {s : State} (h : s.MemOk) : OutOk (execPartitionPreemption p s) := by
  unfold execPartitionPreemption
  refine outOk_next (inPart_ok _ (fun t ht => ite_ok ?_ ht) h)
  exact (yieldHalls_memOk ..).2 (ok_foldl (fun s y h => (requestOff_memOk _ y s).2 h) _ ht)

theorem execAttestationReport_ok (p : PartId) (nonce : List Byte) {s : State} (h : s.MemOk) : OutOk (execAttestationReport p nonce s) := by
  unfold execAttestationReport; try dsimp only
  refine outOk_next ?_
  repeat' split
  all_goals first
    | exact h
    | assumption
    | simp (maxDischargeDepth := 16) +contextual [*]

theorem execUncClear_ok {s : State} (h : s.MemOk) : OutOk (execUncClear s) := by
  unfold execUncClear; try dsimp only
  refine outOk_next ?_
  repeat' split
  all_goals first
    | exact h
    | assumption
    | simp (maxDischargeDepth := 16) +contextual [*]

theorem execDeviceReset_ok {s : State} (h : s.MemOk) : OutOk (execDeviceReset s) := by
  unfold execDeviceReset
  exact outOk_next ((setPhase_memOk ..).2 rfl)

theorem execFirmwareVerify_ok (fw : Firmware) {s : State} (h : s.MemOk) : OutOk (execFirmwareVerify fw s) := by
  unfold execFirmwareVerify; try dsimp only
  refine outOk_next ?_
  repeat' split
  all_goals first
    | exact h
    | assumption
    | simp (maxDischargeDepth := 16) +contextual [*]

theorem execDieSelfTest_ok (passed : BitVec 4) {s : State} (h : s.MemOk) : OutOk (execDieSelfTest passed s) := by
  unfold execDieSelfTest; try dsimp only
  refine outOk_next ?_
  repeat' split
  all_goals first
    | exact h
    | assumption
    | simp (maxDischargeDepth := 16) +contextual [*]

theorem execHbmTraining_ok (failed : BitVec 256) {s : State} (h : s.MemOk) : OutOk (execHbmTraining failed s) := by
  unfold execHbmTraining; try dsimp only
  refine outOk_next ?_
  repeat' split
  all_goals first
    | exact h
    | assumption
    | simp (maxDischargeDepth := 16) +contextual [*]

theorem execFullServiceReconfigure_ok {s : State} (h : s.MemOk) : OutOk (execFullServiceReconfigure s) := by
  unfold execFullServiceReconfigure
  refine outOk_next ?_
  split
  · exact ok_foldl (fun s y h => inPart_ok _ (fun t h => rewritePage_ok h) h) _ h
  · exact h

theorem execLaneRetirement_ok (hall brick : Nat) (lane : BitVec 4) {s : State} (h : s.MemOk) : OutOk (execLaneRetirement hall brick lane s) := by
  unfold execLaneRetirement
  refine outOk_next ?_
  dsimp only
  split
  · exact arbitrate_ok _ h
  · exact h

theorem execThrottle_ok {s : State} (h : s.MemOk) : OutOk (execThrottle s) := by
  unfold execThrottle; try dsimp only
  refine outOk_next ?_
  repeat' split
  all_goals first
    | exact h
    | assumption
    | simp (maxDischargeDepth := 16) +contextual [*]

theorem execUnthrottle_ok {s : State} (h : s.MemOk) : OutOk (execUnthrottle s) := by
  unfold execUnthrottle; try dsimp only
  refine outOk_next ?_
  repeat' split
  all_goals first
    | exact h
    | assumption
    | simp (maxDischargeDepth := 16) +contextual [*]

theorem execThermalShutdown_ok {s : State} (h : s.MemOk) : OutOk (execThermalShutdown s) := by
  unfold execThermalShutdown
  exact outOk_next rfl

theorem execReservedEncoding_ok (w : BitVec 32) {s : State} (h : s.MemOk) : OutOk (execReservedEncoding w s) := by
  unfold execReservedEncoding; try dsimp only
  refine outOk_run ?_ h
  repeat' first
    | with_reducible apply keeps_closing
    | with_reducible apply keeps_retry
    | with_reducible apply keeps_bind
    | with_reducible apply keeps_ite
    | with_reducible apply keeps_update
    | intro _
    | split
    | dsimp only
  all_goals simp (maxDischargeDepth := 16) [*]

theorem execFetchFault_ok (f : FetchFault) {s : State} (h : s.MemOk) : OutOk (execFetchFault f s) := by
  unfold execFetchFault; try dsimp only
  refine outOk_run ?_ h
  repeat' first
    | with_reducible apply keeps_closing
    | with_reducible apply keeps_retry
    | with_reducible apply keeps_bind
    | with_reducible apply keeps_ite
    | with_reducible apply keeps_update
    | intro _
    | split
    | dsimp only
  all_goals simp (maxDischargeDepth := 16) [*]

theorem execCopyTranslationFault_ok (o : ObjRef) {s : State} (h : s.MemOk) : OutOk (execCopyTranslationFault o s) := by
  unfold execCopyTranslationFault; refine onPart_outOk _ (fun s h => ?_) h
  repeat' split
  all_goals first
    | exact h
    | assumption
    | simp (maxDischargeDepth := 16) +contextual [*]

theorem execCurattResult_ok (r : HartRef) {s : State} (h : s.MemOk) : OutOk (execCurattResult r s) := by
  unfold execCurattResult; refine onWait_outOk _ (fun w s h => ?_) h
  repeat' split
  all_goals first
    | exact h
    | assumption
    | simp (maxDischargeDepth := 16) +contextual [*]

end Sys2Proof.Machine
end

