-- ==== Sys2Proof/Tests/Slice0.lean ====
section
/-! SUPPORT. Tests: ill-formed terms that the checks refuse, words written out from the manual's encodings, single steps with results
computed by hand from the manual, and states that meet the hypotheses of the statements. -/

namespace Sys2Proof.Tests

open Sys2Proof Sys2Proof.Machine

set_option maxRecDepth 100000
set_option Elab.async false

/-! ## Ill-formed terms (R42 to R55, R2, R11, R14, R328, R336, R349, R357, R359) -/

theorem test_wf_width : Instr.wf (.sext ⟨3, 1, 2⟩) = false ∧ Instr.wf (.zext ⟨31, 1, 2⟩) = false ∧ Instr.wf (.sext ⟨2, 1, 2⟩) = true := by
  decide

theorem test_wf_scope : (∀ i ∈ [Instr.aaddD ⟨0, 6, 1, 2, 3⟩, .aaddW ⟨0, 6, 1, 2, 3⟩, .aswpD ⟨0, 6, 1, 2, 3⟩, .aswpW ⟨0, 6, 1, 2, 3⟩,
    .acasD ⟨0, 7, 1, 2, 3⟩, .acasW ⟨0, 6, 1, 2, 3⟩, .aandD ⟨0, 6, 1, 2, 3⟩, .aorD ⟨0, 6, 1, 2, 3⟩, .axorD ⟨0, 7, 1, 2, 3⟩,
    .aminD ⟨0, 6, 1, 2, 3⟩, .amaxD ⟨0, 6, 1, 2, 3⟩, .aminnD ⟨0, 6, 1, 2, 3⟩, .amaxnD ⟨0, 6, 1, 2, 3⟩, .ldaqD ⟨6, 1, 2⟩, .strlD ⟨7, 1, 2⟩,
    .ldaqW ⟨7, 1, 2⟩, .strlW ⟨6, 1, 2⟩], i.wf = false) ∧ Instr.wf (.aaddD ⟨0, 5, 1, 2, 3⟩) = true := by decide

theorem test_wf_fence : Instr.wf (.fence ⟨0, 1⟩) = false ∧ Instr.wf (.fence ⟨31, 6⟩) = false ∧ Instr.wf (.fence ⟨1, 5⟩) = true := by decide

theorem test_wf_tlbinv : Instr.wf (.tlbinv ⟨3, 1⟩) = false ∧ Instr.wf (.tlbinv ⟨2, 1⟩) = true := by decide

theorem test_wf_vconf : Instr.wf (.vconf 3) = false ∧ Instr.wf (.vconf 2) = true := by decide

theorem test_wf_vcvt : Instr.wf (.vcvt ⟨0, 0, 0, 0, 0x0C, 1, 2⟩) = false ∧ Instr.wf (.vcvt ⟨0, 0, 0, 0, 0x18, 1, 2⟩) = false ∧
    Instr.wf (.vcvt ⟨0, 0, 0, 0, 0x0A, 1, 2⟩) = true := by decide

theorem test_wf_selector : Instr.wf (.vcmpr ⟨0, 0, 1, 2⟩) = false ∧ Instr.wf (.vmerge ⟨0, 0, 0, 1, 2, 3⟩) = false := by decide

theorem test_wf_tmac : Instr.wf (.tmac ⟨0, 0, 16, 8, 3, 0⟩) = false ∧ Instr.wf (.tmac ⟨0, 0, 16, 8, 2, 1⟩) = false ∧
    Instr.wf (.tmac ⟨0, 0, 16, 8, 1, 2⟩) = true := by decide

/-- A packet with nothing in it. -/
def packet : Packet :=
  { job := 1
    src := 2
    dst := 3
    kind := 1
    vc := 0
    seq := 0
    addr := 0
    len := 0
    payload := [] }

def longPacket : Packet := { packet with len := 269 }
def badPort : PortRef := ⟨0, 12⟩

theorem test_wf_packet : ∀ i ∈ [Instr.read ⟨⟨0, 0⟩, longPacket⟩, .readResponse ⟨⟨0, 0⟩, longPacket⟩, .write ⟨⟨0, 0⟩, longPacket⟩,
    .writeAcknowledgement ⟨⟨0, 0⟩, longPacket⟩, .atomic ⟨⟨0, 0⟩, longPacket⟩, .atomicResponse ⟨⟨0, 0⟩, longPacket⟩, .management ⟨⟨0, 0⟩, longPacket⟩,
    .hostWrite ⟨⟨0, 0⟩, packet⟩ 0 (List.replicate 269 0), .latePacket ⟨0, 0⟩ longPacket, .startMessage ⟨0, 0⟩ packet], i.wf = false := by decide

theorem test_wf_port : ∀ i ∈ [Instr.marker 1 badPort 0, .flitReplay badPort, .credit badPort 0, .injectionAdmit badPort,
    .linkTraining badPort 15, .linkDown badPort, .latePacket badPort packet], i.wf = false := by decide

/-- A configuration within every limit. -/
def goodCfg : PartCfg :=
  { PartCfg.none with
    halls := [0, 1]
    l2 := 0xF
    chans := 0xFF
    memSize := 2 ^ 30
    faultLog := 4
    intrLog := 16 }

theorem test_wf_cfg : Instr.wf (.partitionConfigure goodCfg) = true ∧ ∀ c ∈ [{ goodCfg with halls := [] }, { goodCfg with halls := [48] },
    { goodCfg with halls := [1, 1] }, { goodCfg with l2 := 7 }, { goodCfg with chans := 0x7F }, { goodCfg with faultBase := 32 },
    { goodCfg with intrBase := 8 }, { goodCfg with faultLog := 3 }, { goodCfg with intrLog := 17 }, { goodCfg with lateCap := 1025 },
    { goodCfg with ctrlTags := [1, 2, 3, 4, 5] }, { goodCfg with memSize := 12000000001 }], Instr.wf (.partitionConfigure c) = false := by
  decide

theorem test_wf_resize : ∀ r ∈ [HallResize.remove 1 48 0, .remove 1 0 48, .remove 1 5 5, .add 1 48], Instr.wf (.resizeHall r) = false := by
  decide

theorem test_wf_report : Instr.wf (.attestationReport 1 []) = false := by decide

theorem test_wf_firmware : Instr.wf (.firmwareVerify ⟨[1], [], []⟩) = false ∧
    Instr.wf (.firmwareVerify ⟨List.replicate 64 0, List.replicate 48 0, []⟩) = false := by decide

theorem test_wf_lane : Instr.wf (.laneRetirement 48 0 0) = false ∧ Instr.wf (.laneRetirement 0 12 0) = false := by decide

/-! ## Words written out from the encodings (R38 to R55) -/

/-- The forms of R38, from the highest field down. -/
def rWord (f : BitVec 10) (c b a : BitVec 5) (maj : BitVec 6) : Nat := (f ++ c ++ b ++ a ++ maj ++ 0#1).toNat
def vWord (op : BitVec 5) (m : BitVec 3) (kc kb : BitVec 1) (c b a : BitVec 5) (maj : BitVec 6) : Nat :=
  (op ++ m ++ kc ++ kb ++ c ++ b ++ a ++ maj ++ 0#1).toNat
def iWord (imm : BitVec 15) (b a : BitVec 5) (maj : BitVec 6) : Nat := (imm ++ b ++ a ++ maj ++ 0#1).toNat
def sWord (hi : BitVec 10) (c b : BitVec 5) (lo : BitVec 5) (maj : BitVec 6) : Nat := (hi ++ c ++ b ++ lo ++ maj ++ 0#1).toNat
def uWord (imm : BitVec 20) (a : BitVec 5) (maj : BitVec 6) : Nat := (imm ++ a ++ maj ++ 0#1).toNat
def brWord (lo : BitVec 10) (c b : BitVec 5) (hi : BitVec 2) (cond : BitVec 3) : Nat := (lo ++ c ++ b ++ hi ++ cond ++ 0x16#6 ++ 0#1).toNat
def cWord (s d op : BitVec 5) : Nat := (s ++ d ++ op ++ 1#1).toNat

theorem test_decode_opr : decodeTableWord 32 (rWord 0x015 3 2 1 0x01) = some (.divn ⟨3, 2, 1⟩) ∧
    decodeTableWord 32 (rWord 0x01A 0 2 1 0x01) = some (.popc ⟨2, 1⟩) ∧
    decodeTableWord 32 (rWord 0x01C 2 9 8 0x01) = some (.zext ⟨2, 9, 8⟩) ∧ decodeTableWord 32 (rWord 0x01A 1 2 1 0x01) = none ∧
    decodeTableWord 32 (rWord 0x01F 0 2 1 0x01) = none := by decide

theorem test_decode_immediate : decodeTableWord 32 (iWord 0x7FFF 31 17 0x07) = some (.sltni ⟨0x7FFF, 31, 17⟩) ∧
    decodeTableWord 32 (iWord 0b11_0000000_111111 4 3 0x08) = some (.rori ⟨63, 4, 3⟩) ∧
    decodeTableWord 32 (iWord 0b11_0000001_111111 4 3 0x08) = none ∧
    decodeTableWord 32 (uWord 0x80001 30 0x0A) = some (.addpc ⟨0x80001, 30⟩) := by decide

theorem test_decode_memory : decodeTableWord 32 0xFF717CA2 = some (.ldwn ⟨-72, 23, 25⟩) ∧
    decodeTableWord 32 (iWord 0x4000 7 6 0x0C) = some (.ldh ⟨0x4000, 7, 6⟩) ∧
    decodeTableWord 32 (sWord 0b1010101010 9 8 0b01010 0x13) = some (.sth ⟨0b101010101001010, 9, 8⟩) := by decide

theorem test_decode_control : decodeTableWord 32 0xFF083CAC = some (.bne ⟨-4, 4, 3⟩) ∧
    decodeTableWord 32 (brWord 0x0FF 2 1 0b01 0b101) = some (.bgen ⟨0x4FF, 2, 1⟩) ∧ decodeTableWord 32 (brWord 0 2 1 0 0b110) = none ∧
    decodeTableWord 32 (uWord 0xFFFFE 1 0x17) = some (.jal ⟨-2, 1⟩) ∧ decodeTableWord 32 (iWord 8 5 0 0x18) = some (.jalr ⟨8, 5, 0⟩) := by
  decide

theorem test_decode_fop : decodeTableWord 32 (rWord (0b00#2 ++ 0b110#3 ++ 7#5) 3 2 1 0x19) = some (.fmadd ⟨0, 6, 3, 2, 1⟩) ∧
    decodeTableWord 32 (rWord (0b01#2 ++ 0#3 ++ 17#5) 3 2 1 0x19) = some (.fsgnj ⟨1, 3, 2, 1⟩) ∧
    decodeTableWord 32 (rWord (0b00#2 ++ 1#3 ++ 5#5) 3 2 1 0x19) = none ∧ decodeTableWord 32 (rWord (0b10#2 ++ 0#3 ++ 0#5) 3 2 1 0x19) = none ∧
    decodeTableWord 32 (rWord (0b01#2 ++ 4#3 ++ 15#5) 0 2 1 0x19) = some (.fcvtp ⟨1, 4, 2, 1⟩) := by decide

theorem test_decode_atom : decodeTableWord 32 0x050F6034 = some (.aaddD ⟨2, 4, 7, 22, 0⟩) ∧ decodeTableWord 32 0x690165B4 = some (.ldaqD ⟨4, 22, 11⟩) ∧
    decodeTableWord 32 0x710ED034 = some (.strlD ⟨4, 7, 13⟩) ∧ decodeTableWord 32 0x5029A034 = some (.amaxD ⟨0, 0, 20, 26, 0⟩) ∧
    decodeTableWord 32 (rWord (0x11#5 ++ 0#2 ++ 0#3) 1 2 3 0x1A) = none := by decide

theorem test_decode_sync : decodeTableWord 32 (rWord 0 0b10001 4 0 0x1B) = some (.fence ⟨0b10001, 4⟩) ∧
    decodeTableWord 32 0x081765B6 = some (.waita ⟨11, 22, 11⟩) ∧ decodeTableWord 32 (rWord (4#5 ++ 0#5) 0 0 0 0x1B) = some .yield ∧
    decodeTableWord 32 (rWord 0 0 4 0 0x1B) = none := by decide

theorem test_decode_creg : decodeTableWord 32 0x1016703A = some (.wrcr ⟨0x80B, 7, 0⟩) ∧
    decodeTableWord 32 (iWord (0#3 ++ 0x006#12) 0 5 0x1C) = some (.rdcr ⟨0x006, 5⟩) ∧ decodeTableWord 32 (iWord (1#3 ++ 0x006#12) 0 5 0x1C) = none := by
  decide

theorem test_decode_sys : decodeTableWord 32 0x0040003C = some .brk ∧ decodeTableWord 32 0x0080003C = some .tret ∧
    decodeTableWord 32 0x0100503C = some (.vsave 5) ∧ decodeTableWord 32 0x0140503C = some (.vrestore 5) ∧
    decodeTableWord 32 (rWord 6 2 9 0 0x1E) = some (.tlbinv ⟨2, 9⟩) ∧ decodeTableWord 32 (rWord 7 0 0 0 0x1E) = some .icsync := by decide

theorem test_decode_vcfg : decodeTableWord 32 0x00406040 = some (.setshape 6) ∧ decodeTableWord 32 0x00C40040 = some (.vconf 2) ∧
    decodeTableWord 32 0x01000040 = some .vclose ∧ decodeTableWord 32 0x00140042 = some (.setshapei 0x0A) := by decide

theorem test_decode_vmem : decodeTableWord 32 0x080C50C4 = some (.vlds ⟨0, 6, 5, 1⟩) ∧ decodeTableWord 32 0x128850C4 = some (.vldx ⟨2, 1, 4, 5, 1⟩) ∧
    decodeTableWord 32 0x200850C6 = some (.vstxu ⟨0, 0, 4, 5, 1⟩) ∧ decodeTableWord 32 0x280C50C6 = some (.vst2d ⟨0, 6, 5, 1⟩) ∧
    decodeTableWord 32 0x180050C4 = some (.vldb ⟨0, 5, 1⟩) := by decide

theorem test_decode_vint : decodeTableWord 32 0x00188248 = some (.vadd ⟨0, 0, 0, 12, 8, 4⟩) ∧ decodeTableWord 32 0xA0188248 = some (.vsadd ⟨0, 0, 0, 12, 8, 4⟩) ∧
    decodeTableWord 32 0x0018824A = some (.vaddX ⟨0, 0, 12, 8, 4⟩) ∧
    decodeTableWord 32 (vWord 0x19 5 1 0 3 2 1 0x24) = some (.vmacc ⟨5, 1, 0, 3, 2, 1⟩) ∧ decodeTableWord 32 (vWord 0x02 0 0 0 3 2 1 0x24) = none := by
  decide

theorem test_decode_vflt : decodeTableWord 32 0x5000824C = some (.vfrcp ⟨0, 0, 8, 4⟩) ∧ decodeTableWord 32 0x0018824E = some (.vfaddX ⟨0, 0, 12, 8, 4⟩) ∧
    decodeTableWord 32 0xB038_2450 = some (.vcvt ⟨5, 1, 0, 0, 0x1C, 2, 8⟩) ∧ decodeTableWord 32 (vWord 0x08 0 0 0 3 2 1 0x27) = none := by decide

theorem test_decode_mask : decodeTableWord 32 0x380620D2 = some (.vfclt ⟨0, 0, 0, 3, 2, 1⟩) ∧ decodeTableWord 32 0x000410D4 = some (.mand ⟨2, 1, 1⟩) ∧
    decodeTableWord 32 0x3800F0D4 = some (.msetx ⟨15, 1⟩) ∧ decodeTableWord 32 0x500001D4 = some (.vidx ⟨0, 3⟩) ∧
    decodeTableWord 32 0x88183152 = some (.vcneX ⟨0, 0, 12, 3, 2⟩) := by decide

theorem test_decode_reduce : decodeTableWord 32 0x21001656 = some (.vrmaxfi ⟨1, 0, 0, 1, 12⟩) ∧ decodeTableWord 32 0x00188258 = some (.vrgath ⟨0, 0, 0, 12, 8, 4⟩) ∧
    decodeTableWord 32 0x48188258 = some (.xchg ⟨0, 0, 12, 8, 4⟩) ∧ decodeTableWord 32 (vWord 14 0 0 0 3 2 1 0x2B) = none := by decide

theorem test_decode_tile : decodeTableWord 32 (vWord 1 0 0 0 0 0 3 0x2D) = some (.tzero 3) ∧
    decodeTableWord 32 (vWord 2 6 0 0 7 1 4 0x2D) = some (.trow ⟨6, 7, 1, 4⟩) ∧ decodeTableWord 32 (vWord 0 0 0 0 16 8 0b11000 0x2D) = none := by decide

theorem test_decode_stream : decodeTableWord 32 0x0040305C = some (.vunbind 3) ∧ decodeTableWord 32 0x008E32DC = some (.vspos ⟨7, 3, 5⟩) ∧
    decodeTableWord 32 0x00C0305C = some (.vsflush 3) := by decide

theorem test_decode_hart : decodeTableWord 32 0x000062E0 = some (.hspawn ⟨6, 5⟩) ∧ decodeTableWord 32 0x008062E0 = some (.lease ⟨6, 5⟩) ∧
    decodeTableWord 32 0x00C003E0 = some (.garrive 7) ∧ decodeTableWord 32 0x010063E0 = some (.gwait ⟨6, 7⟩) ∧
    decodeTableWord 32 0x014062E0 = some (.hjoin ⟨6, 5⟩) := by decide

theorem test_decode_copy : decodeTableWord 32 0x00406062 = some (.cpycan 6) ∧ decodeTableWord 32 0x008E62E2 = some (.cpystat ⟨7, 6, 5⟩) ∧
    decodeTableWord 32 (rWord 3 0 0 0 0x31) = none := by decide

theorem test_decode_block : decodeTableWord 32 0x404062E4 = some (.bref ⟨1, 6, 5⟩) ∧ decodeTableWord 32 0x808062E4 = some (.bfree ⟨2, 6, 5⟩) ∧
    decodeTableWord 32 0x010E6064 = some (.bpromo ⟨7, 6⟩) ∧ decodeTableWord 32 0x018002E4 = some (.epadv 5) ∧
    decodeTableWord 32 0x02128266 = some (.vxlat ⟨2, 0, 9, 8, 4⟩) ∧ decodeTableWord 32 0x08128266 = some (.vxlatf ⟨0, 0, 9, 8, 4⟩) := by decide

theorem test_decode_span : decodeTableWord 32 0x004D82E8 = some (.ixapp ⟨6, 24, 5⟩) ∧ decodeTableWord 32 0x00C06068 = some (.ixdrop 6) ∧
    decodeTableWord 32 0x024DB8E8 = some (.curacc ⟨6, 27, 17⟩) ∧ decodeTableWord 32 0x030FB968 = some (.curstat ⟨7, 27, 18⟩) := by decide

theorem test_decode_frontier : decodeTableWord 32 0x00005A6A = some (.flaunch ⟨5, 20⟩) ∧ decodeTableWord 32 0x018F436A = some (.fquery ⟨7, 20, 6⟩) ∧
    decodeTableWord 32 0x0101406A = some (.fsave 20) ∧ decodeTableWord 32 0x01C0606A = some (.fcancel 6) := by decide

theorem test_decode_fabric : decodeTableWord 32 0x0040606C = some (.gresume 6) ∧ decodeTableWord 32 0x008E62EC = some (.fbstat ⟨7, 6, 5⟩) := by decide

theorem test_decode_compact : decodeTableWord 16 (cWord 0b10000 9 7) = some (.cAddi ⟨0b10000, 9⟩) ∧
    decodeTableWord 16 (cWord 3 4 26) = some (.cVand ⟨3, 4⟩) ∧ decodeTableWord 16 (cWord 3 4 28) = none := by decide

theorem test_decode_reserved : decodeTableWord 32 0 = none ∧ decodeTableWord 32 (rWord 0 0 0 0 0x3F) = none ∧
    decodeTableWord 32 (rWord 0 0 0 0 0x1F) = none := by decide

/-! ## States for the witnesses

Each theorem named witness_X shows that the hypotheses of the statement X, clause by clause, are met by a concrete state. -/

/-- A page of each kind behind the tables of the boot partition: 1 read, write and execute, 2 read only and not accessed yet, 3 in
another device, 4 for both modes, 5 to 7 plain pages; and values in the scalar registers. -/
def lab : State :=
  let s := State.reset.boot
  let s := { s with part := { s.part with cfg := { s.part.cfg with windows := [⟨0, true, true, 5, 0x11000⟩] } } }
  let s := s.pokeWord 0x20010 0x50003
  let s := s.pokeWord 0x20018 0x8000000000C7
  let s := s.pokeWord 0x20020 0x600DF
  let s := s.pokeWord 0x20028 0x700C7
  let s := s.pokeWord 0x20030 0x800C7
  let s := s.pokeWord 0x20038 0x900C7
  { s with
    hart := { s.hart with
      tvec := 0x10100
      live := { s.hart.live with
        x := #v[0, 0x10008, 0x10001, 0x30008, 0x20008, 0x40008, 5, -7, 0, 0, 0x50000, 0x60000, 0x70000, 2, 3, 4, 0, 0, 0, 0, 0, 0, 0, 0, 0,
          0, 0, 0, 0, 0, 0, 1]
        ldl := 0b10#2 ++ 1#5 } } }

def asUser (s : State) : State := { s with hart := { s.hart with mode := .user } }
def hartAt (s : State) (f : Hart → Hart) : State := { s with hart := f s.hart }

/-- A translation that gives a place with a property, and one that fails with a cause. -/
def found (r : State × Except XErr Loc) (p : State → Loc → Prop) [∀ t l, Decidable (p t l)] : Bool :=
  match r with
  | (t, .ok l) => decide (p t l)
  | _ => false

theorem found_spec {r : State × Except XErr Loc} {p : State → Loc → Prop} [∀ t l, Decidable (p t l)] (h : found r p = true) :
    ∃ t l, r = (t, .ok l) ∧ p t l := by
  obtain ⟨t, e | l⟩ := r
  · cases h
  · exact ⟨t, l, rfl, of_decide_eq_true h⟩

def failed (r : State × Except XErr Loc) (c : Cause) : Bool :=
  match r with
  | (_, .error (.cause d)) => decide (d = c)
  | _ => false

theorem failed_spec {r : State × Except XErr Loc} {c : Cause} (h : failed r c = true) : ∃ t, r = (t, .error (.cause c)) := by
  obtain ⟨t, (d | ⟨_, _⟩ | d) | l⟩ := r
  · exact ⟨t, by rw [of_decide_eq_true h]⟩
  · cases h
  · cases h
  · cases h

/-- A translation that waits for a table entry of another device. -/
def farTable (r : State × Except XErr Loc) : Bool :=
  match r with
  | (_, .error (.remote _ _)) => true
  | _ => false

theorem farTable_spec {r : State × Except XErr Loc} (h : farTable r = true) : ∃ t k n, r = (t, .error (.remote k n)) := by
  obtain ⟨t, (d | ⟨k, n⟩ | d) | l⟩ := r
  · cases h
  · exact ⟨t, k, n, rfl⟩
  · cases h
  · cases h

theorem lab_quiet : lab.Quiet ∧ (asUser lab).Quiet := ⟨⟨rfl, rfl, rfl, rfl, rfl⟩, ⟨rfl, rfl, rfl, rfl, rfl⟩⟩

/-! ## Scalar statements -/

def placed (n w : Nat) : State := State.reset.withFetchWord n w

theorem ok_of {ε α} {x : Except ε α} {a : α} (h : x.toOption = some a) : x = .ok a := by
  cases x <;> cases h
  rfl

theorem witness_StepRunsDecoded_word : (placed 32 0x00001282).sched = [] ∧
    schedulable (placed 32 0x00001282) (placed 32 0x00001282).hart = true ∧ budgetDue (placed 32 0x00001282).hart = false ∧
    ∃ t lo, xlate .fetch (placed 32 0x00001282).pc (placed 32 0x00001282) = (t, .ok lo) ∧ isRemote lo.key = false ∧
      t.damagedAt lo.key 2 = false ∧ (t.peekNat lo.key 2).testBit 0 = false ∧
      ∃ u hi, xlate .fetch ((placed 32 0x00001282).pc + 2) t = (u, .ok hi) ∧ isRemote hi.key = false ∧ u.damagedAt hi.key 2 = false ∧
        decodeBytes (t.peek lo.key 2 ++ u.peek hi.key 2) = .ok (.add ⟨0, 1, 5⟩, []) := by
  refine ⟨by decide +kernel, by decide +kernel, by decide +kernel, ?_⟩
  obtain ⟨t, lo, h, a, b, c, d⟩ := found_spec (r := xlate .fetch (placed 32 0x00001282).pc (placed 32 0x00001282))
    (p := fun t lo => isRemote lo.key = false ∧ t.damagedAt lo.key 2 = false ∧ (t.peekNat lo.key 2).testBit 0 = false ∧
      found (xlate .fetch ((placed 32 0x00001282).pc + 2) t) (fun u hi => isRemote hi.key = false ∧ u.damagedAt hi.key 2 = false ∧
        (decodeBytes (t.peek lo.key 2 ++ u.peek hi.key 2)).toOption = some (.add ⟨0, 1, 5⟩, [])) = true) (by decide +kernel)
  obtain ⟨u, hi, e, f, g, k⟩ := found_spec d
  exact ⟨t, lo, h, a, b, c, u, hi, e, f, g, ok_of k⟩

theorem witness_StepRunsDecoded_parcel : (placed 16 0x3943).sched = [] ∧
    schedulable (placed 16 0x3943) (placed 16 0x3943).hart = true ∧ budgetDue (placed 16 0x3943).hart = false ∧
    ∃ t lo, xlate .fetch (placed 16 0x3943).pc (placed 16 0x3943) = (t, .ok lo) ∧ isRemote lo.key = false ∧
      t.damagedAt lo.key 2 = false ∧ (t.peekNat lo.key 2).testBit 0 = true ∧ decodeBytes (t.peek lo.key 2) = .ok (.cAdd ⟨7, 5⟩, []) := by
  refine ⟨by decide +kernel, by decide +kernel, by decide +kernel, ?_⟩
  obtain ⟨t, lo, h, a, b, c, d⟩ := found_spec (r := xlate .fetch (placed 16 0x3943).pc (placed 16 0x3943))
    (p := fun t lo => isRemote lo.key = false ∧ t.damagedAt lo.key 2 = false ∧ (t.peekNat lo.key 2).testBit 0 = true ∧
      (decodeBytes (t.peek lo.key 2)).toOption = some (.cAdd ⟨7, 5⟩, [])) (by decide +kernel)
  exact ⟨t, lo, h, a, b, c, ok_of d⟩

def isWord (r : State × Fetched) (w : BitVec 32) : Bool :=
  match r with
  | (_, .word v) => decide (v = w)
  | _ => false

def isFault (r : State × Fetched) : Bool :=
  match r with
  | (_, .fault _) => true
  | _ => false

def isFar (r : State × Fetched) : Bool :=
  match r with
  | (_, .remote _ _) => true
  | _ => false

/-- The first table lies in another device. -/
def farRoot (s : State) : State := hartAt s fun h => { h with ptroot := 0x800000008000 }

/-- A hart at a commit point with a request to leave its slot. -/
def dueOff : State := hartAt lab fun h => { h with preempt := some .slot, ckpt := h.live }

theorem witness_StepRunsDecoded_others : dueOff.sched = [] ∧
    preemptDue dueOff.hart = some .slot ∧
    schedulable dueOff dueOff.hart = true ∧
    preemptDue lab.hart = none ∧ isFar (fetchInstr (farRoot lab)) = true ∧
    (schedulable (hartAt lab fun h => { h with cybud := 0 }) (hartAt lab fun h => { h with cybud := 0 }).hart = true ∧
      budgetDue (hartAt lab fun h => { h with cybud := 0 }).hart = true) ∧
    (budgetDue (placed 32 0).hart = false ∧ isWord (fetchInstr (placed 32 0)) 0 = true ∧ (decode32 0).toOption = none) ∧
    isFault (fetchInstr (hartAt lab fun h => { h with live := { h.live with pc := 0x20000 } })) = true ∧
    isEvent .uncClear = true ∧
    (lab.focusHart 0 (0#12).toNat).any (fun u => schedulable u u.hart) = true := by
  exact ⟨rfl, by decide +kernel⟩

/-- A context that has still to be saved, into a region of 64 bytes. -/
def toSave : State :=
  { lab with
    part := { lab.part with cfg := { lab.part.cfg with ctxBase := 0x50000, ctxSize := 64 } }
    dev := { lab.dev with contexts := [0] } }

/-- A spread hart whose partition has no gallery rate. -/
def atGallery : State :=
  hartAt { lab with part := { lab.part with cfg := { lab.part.cfg with limits := 0 } } } fun h => { h with dies := 2 }

theorem witness_StepRunsDecoded_context :
    (toSave.dev.contexts = 0 :: [] ∧
      (toSave.allParts.find? (fun q => q.configured && q.cfg.pid == 0)).any (fun q => decide (q.cfg.ctxSize = 64)) = true) ∧
    (crossesBlocks (.xchg ⟨0, 0, 3, 2, 1⟩) = true ∧ 1 < atGallery.hart.dies ∧ bitsOf atGallery.part.cfg.limits.toNat 0 16 = 0) ∧
    blockedAtGallery lab (.add ⟨0, 1, 5⟩) = false := by
  decide +kernel

theorem witness_ScalarLogicResults : (⟨2, 1, 2⟩ : RW).w.toNat ≤ 2 := by decide

theorem witness_BranchAndJumpResults : (lab.offset 1 0).toNat % 2 = 0 ∧ (lab.offset 2 0).toNat % 2 = 1 := by decide +kernel

def vectorLatch : State := hartAt lab fun h => { h with live := { h.live with ldl := 0b11#2 ++ 1#5 } }

theorem witness_CompactScalarResults : Latched lab false 1 ∧ ∀ l, ¬ Latched vectorLatch false l := by
  unfold Latched
  decide +kernel

theorem witness_ScalarLoadOutcomes_traps :
    (∃ f, loadForm lab (.ldd ⟨0, 2, 9⟩) = some f ∧ LatchServes lab (.ldd ⟨0, 2, 9⟩) ∧ f.addr.toNat % f.n ≠ 0) ∧
    (∃ f, loadForm lab (.ldd ⟨0, 0, 9⟩) = some f ∧ f.addr.toNat % f.n = 0 ∧ ∃ t, xlate .load f.addr lab = (t, .error (.cause .page))) :=
  ⟨⟨_, rfl, trivial, by decide +kernel⟩, ⟨_, rfl, by decide +kernel, failed_spec (by decide +kernel)⟩⟩

theorem witness_ScalarLoadOutcomes_local :
    (∃ f, loadForm lab (.ldd ⟨0, 4, 9⟩) = some f ∧ f.addr.toNat % f.n = 0 ∧
      ∃ t loc, xlate .load f.addr lab = (t, .ok loc) ∧ isRemote loc.key = false ∧ damagedByte t loc.key f.n = none) ∧
    (∃ f, loadForm lab (.cLdd ⟨2, 9⟩) = some f ∧ LatchServes lab (.cLdd ⟨2, 9⟩) ∧ f.addr.toNat % f.n = 0 ∧
      ∃ t loc, xlate .load f.addr lab = (t, .ok loc) ∧ isRemote loc.key = false ∧ damagedByte t loc.key f.n = none) :=
  ⟨⟨_, rfl, by decide +kernel, found_spec (by decide +kernel)⟩,
    ⟨_, rfl, ⟨1, by unfold Latched; decide +kernel⟩, by decide +kernel, found_spec (by decide +kernel)⟩⟩

def worn : State := { lab with dev := { lab.dev with damaged := [0x30008 / 8] } }

theorem witness_ScalarLoadOutcomes_damaged : ∃ f, loadForm worn (.ldd ⟨0, 1, 9⟩) = some f ∧ f.addr.toNat % f.n = 0 ∧
    ∃ t loc, xlate .load f.addr worn = (t, .ok loc) ∧ isRemote loc.key = false ∧ (damagedByte t loc.key f.n).isSome = true :=
  ⟨_, rfl, by decide +kernel, found_spec (by decide +kernel)⟩

/-- The key of the address in register x3, which lies in another device. -/
def farKey : Nat := 2 ^ 47 + 8

def withReply : State := hartAt lab fun h => { h with reply := [(farKey, [7, 7, 7, 7, 7, 7, 7, 7])] }
def withRefusal : State := hartAt lab fun h => { h with refused := [farKey] }

theorem witness_RemoteLoadOutcomes :
    (∃ f, loadForm (farRoot lab) (.ldd ⟨0, 3, 9⟩) = some f ∧ f.addr.toNat % f.n = 0 ∧
      ∃ t k m, xlate .load f.addr (farRoot lab) = (t, .error (.remote k m))) ∧
    (∃ f, loadForm lab (.ldd ⟨0, 3, 9⟩) = some f ∧ f.addr.toNat % f.n = 0 ∧ ∃ t loc, xlate .load f.addr lab = (t, .ok loc) ∧
      isRemote loc.key = true ∧ t.hart.refusedByte loc.key f.n = none ∧ t.hart.missing loc.key f.n = some (farKey, 8) ∧
      lab.dev.upstream = [] ∧ lab.dev.mayEnter (BitVec.ofNat 2 (dieOf lab.hart.hall), lab.packetFor farKey 1 8 []) = true) ∧
    (∃ f, loadForm withReply (.ldd ⟨0, 3, 9⟩) = some f ∧ f.addr.toNat % f.n = 0 ∧ ∃ t loc, xlate .load f.addr withReply = (t, .ok loc) ∧
      isRemote loc.key = true ∧ t.hart.refusedByte loc.key f.n = none ∧ t.hart.replied loc.key f.n = some [7, 7, 7, 7, 7, 7, 7, 7]) ∧
    ∃ f, loadForm withRefusal (.ldd ⟨0, 3, 9⟩) = some f ∧ f.addr.toNat % f.n = 0 ∧ ∃ t loc, xlate .load f.addr withRefusal = (t, .ok loc) ∧
      isRemote loc.key = true ∧ (t.hart.refusedByte loc.key f.n).isSome = true :=
  ⟨⟨_, rfl, by decide +kernel, farTable_spec (by decide +kernel)⟩,
    ⟨_, rfl, by decide +kernel, found_spec (by decide +kernel)⟩, ⟨_, rfl, by decide +kernel, found_spec (by decide +kernel)⟩,
    ⟨_, rfl, by decide +kernel, found_spec (by decide +kernel)⟩⟩

theorem eraseDups_of_nodup : ∀ l : List Nat, l.Nodup → l.eraseDups = l
  | [], _ => rfl
  | a :: l, h => by
    have hf : l.filter (fun b => !b == a) = l := List.filter_eq_self.mpr (fun b hb => by
      have : b ≠ a := fun e => (List.nodup_cons.mp h).1 (e ▸ hb)
      simpa using this)
    rw [List.eraseDups_cons, hf, eraseDups_of_nodup l (List.nodup_cons.mp h).2]

def climbs : List Nat → Bool
  | a :: b :: l => decide (a < b) && climbs (b :: l)
  | _ => true

theorem climbs_above : ∀ (a : Nat) (l : List Nat), climbs (a :: l) = true → ∀ b ∈ l, a < b
  | _, [], _, _, hb => by cases hb
  | a, b :: l, h, c, hc => by
    simp only [climbs, Bool.and_eq_true, decide_eq_true_eq] at h
    rcases List.mem_cons.mp hc with rfl | hc
    · exact h.1
    · exact Nat.lt_trans h.1 (climbs_above b l h.2 c hc)

theorem climbs_nodup : ∀ l : List Nat, climbs l = true → l.Nodup
  | [], _ => .nil
  | [_], _ => by simp
  | a :: b :: l, h => List.nodup_cons.mpr ⟨fun hm => Nat.lt_irrefl _ (climbs_above a _ h a hm), climbs_nodup (b :: l) (by
      simp only [climbs, Bool.and_eq_true] at h
      exact h.2)⟩

/-- A mortar with as many chunks as it holds. -/
def filledMortar : State := hartAt lab fun h =>
  { h with mortar := (List.range 2048).map fun i => ⟨word (0x30100 + 32 * i), 0x30100 + 32 * i, [1], some 0x20008⟩ }

theorem filled_chunks (h : Hart) (e : h.mortar = filledMortar.hart.mortar) : mortarChunks h = (List.range 2048).map fun i => 0x1808 + i := by
  have : h.mortar.map (fun st => chunkOf st.va) = (List.range 2048).map fun i => 0x1808 + i := by rw [e]; decide +kernel
  rw [mortarChunks, this, eraseDups_of_nodup _ (climbs_nodup _ (by decide +kernel))]

theorem filled_full : ¬ HasRoom filledMortar 0x10008 := by
  rw [HasRoom, newChunks, filled_chunks _ rfl]
  decide +kernel

theorem witness_ScalarStoreOutcomes :
    (∃ n a v, storeForm lab (.std ⟨0, 2, 6⟩) = some (n, a, v) ∧ HasRoom lab a ∧ a.toNat % n ≠ 0) ∧
    (∃ n a v, storeForm lab (.std ⟨0, 6, 4⟩) = some (n, a, v) ∧ HasRoom lab a ∧ a.toNat % n = 0 ∧
      ∃ t, xlate .store a lab = (t, .error (.cause .prot))) ∧
    ∃ n a v, storeForm lab (.std ⟨0, 6, 1⟩) = some (n, a, v) ∧ HasRoom lab a ∧ a.toNat % n = 0 ∧ ∃ t loc, xlate .store a lab = (t, .ok loc) ∧
      isRemote loc.key = false := by
  unfold HasRoom
  exact ⟨⟨_, _, _, rfl, by decide +kernel, by decide +kernel⟩, ⟨_, _, _, rfl, by decide +kernel, by decide +kernel, failed_spec (by decide +kernel)⟩,
    ⟨_, _, _, rfl, by decide +kernel, by decide +kernel, found_spec (by decide +kernel)⟩⟩

theorem witness_ScalarStoreOutcomes_full : ∃ n a v, storeForm filledMortar (.std ⟨0, 6, 1⟩) = some (n, a, v) ∧ ¬ HasRoom filledMortar a ∧
    filledMortar.hart.isFresh = false ∧ filledMortar.Quiet := by
  refine ⟨_, _, _, rfl, ?_, by decide +kernel, rfl, rfl, rfl, rfl, by decide +kernel⟩
  have : filledMortar.offset 1 0 = 0x10008 := by decide +kernel
  rw [this]
  exact filled_full

/-- Payload that an engine has written for the hart to another device is not acknowledged yet. -/
def owing : State := { lab with dev := { lab.dev with outstanding := [⟨7, 0, 0, 1, 5, 3, 0, .engine { Issuer.none with hart := lab.hart.id, serial := lab.hart.serial } none⟩] } }

theorem witness_CommitPerformsStores : filledMortar.Quiet ∧ (∀ st ∈ filledMortar.hart.mortar, ∀ l, st.leaf = some l →
    0x30100 < l ∨ l + 8 ≤ 0x30100) ∧
    (∃ st, (drainStores [st] (hartAt lab fun h => { h with acks := [(0, 1)] })).2 = [st] ∧ isRemote st.key = false) ∧
    (∃ st, (drainStores [st] (hartAt lab fun h => { h with acks := [(9, 1)] })).2 = [st] ∧ isRemote st.key = true) ∧
    (0 < ([1] : List Byte).length ∧ (List.replicate Config.packetBytes (1 : Byte)).length ≤ Config.packetBytes) ∧
    (filledMortar.hart.mortar ≠ [] ∧ (hartAt lab fun h => { h with acks := [(0, 1)] }).hart.acks ≠ []) ∧
    owing.hart.owes owing = true := by
  refine ⟨⟨rfl, rfl, rfl, rfl, by decide +kernel⟩, ?_, ⟨⟨0x30100, 0x30100, [1], none⟩, by decide +kernel⟩, ⟨⟨0x40008, farKey, [1], none⟩, by decide +kernel⟩,
    by decide +kernel, by decide +kernel, by decide +kernel⟩
  have h : ∀ st ∈ filledMortar.hart.mortar, st.leaf = some 0x20008 := by decide +kernel
  intro st hst l hl
  cases (h st hst).symm.trans hl
  decide

/-! ## Floating point, atomics, waits -/

theorem witness_FpRoundedResults :
    (∃ f, roundedForm lab (.fadd ⟨1, 0, 6, 6, 7⟩) = some f ∧ lab.fpMode f.r ≠ .efb) ∧
    (∃ f, roundedForm lab (.fdiv ⟨0, 7, 6, 6, 7⟩) = some f ∧ lab.fpMode f.r ≠ .efb) ∧
    ∃ f, roundedForm lab (.fmul ⟨1, 6, 6, 6, 7⟩) = some f ∧ lab.fpMode f.r = .efb :=
  ⟨⟨_, rfl, by decide +kernel⟩, ⟨_, rfl, by decide +kernel⟩, ⟨_, rfl, by decide +kernel⟩⟩

def isFin : FVal → Bool
  | .fin _ _ => true
  | _ => false

theorem fin_of {v : FVal} (h : isFin v = true) : ∃ q s, v = .fin q s := by
  cases v with
  | fin q s => exact ⟨q, s, rfl⟩
  | _ => cases h

theorem not_fin {v : FVal} (h : isFin v = false) : ∀ q s, v ≠ .fin q s := by
  cases v with
  | fin q s => cases h
  | _ => intro _ _ e; cases e

/-- The three numbers of an operation with error feedback are finite, and one is not: a division by 0. -/
theorem witness_FpRoundedResults_residual :
    (∃ f, roundedForm lab (.fmul ⟨1, 6, 6, 6, 7⟩) = some f ∧ (∃ q s, f.exact .efb = .fin q s) ∧
      (∃ q s, fmtF64.value lab.hart.live.efc.toNat = .fin q s) ∧
      ∃ q s, fmtF64.value (fmtF64.conv .rne 0 false (fAdd false .rne (f.exact .efb) (fmtF64.value lab.hart.live.efc.toNat))) = .fin q s) ∧
    ∃ f, roundedForm lab (.fdiv ⟨1, 6, 0, 6, 7⟩) = some f ∧ ∀ q s, f.exact .efb ≠ .fin q s :=
  ⟨⟨_, rfl, fin_of (by decide +kernel), fin_of (by decide +kernel), fin_of (by decide +kernel)⟩, ⟨_, rfl, not_fin (by decide +kernel)⟩⟩

/-- A number within the range, one outside, and an infinity, each with a residual carried or not. -/
def floats : State := hartAt lab fun h => { h with
  live := { h.live with x := #v[0, 0x4004000000000000, 0x43E0000000000000, 0x7FF0000000000000, 0xC004000000000000, 0, 0, 0, 0, 0, 0, 0,
    0, 0, 0, 0, 0, 0, 0, 0, 0, 0, 0, 0, 0, 0, 0, 0, 0, 0, 0, 0] } }

theorem witness_FpIntegerAndExactResults :
    floats.fpMode 0 ≠ .efb ∧ floats.fpMode 6 = .efb ∧ (∃ q s, floats.fp 1 1 = .fin q s) ∧
    (∃ q s, fmtF64.value floats.hart.live.efc.toNat = .fin q s) ∧ (∀ q s, floats.fp 1 3 ≠ .fin q s) ∧
    (∃ q s, floats.fp 1 2 = .fin q s) ∧ ∃ q s, floats.fp 1 4 = .fin q s :=
  ⟨by decide +kernel, by decide +kernel, fin_of (by decide +kernel), fin_of (by decide +kernel), not_fin (by decide +kernel),
    fin_of (by decide +kernel), fin_of (by decide +kernel)⟩

theorem witness_RoundingTakesANeighbour : (0 : Int) ≤ (⟨7, 3⟩ : Frac).num ∧ 0 < (⟨7, 3⟩ : Frac).den := by decide

theorem witness_AtomicResults_traps : lab.Quiet ∧
    (∃ f, atomicForm (.aaddD ⟨3, 4, 6, 2, 9⟩) = some f ∧ (lab.xr f.o.b).toNat % f.n ≠ 0) ∧
    ∃ f, atomicForm (.aaddD ⟨3, 4, 6, 4, 9⟩) = some f ∧ (lab.xr f.o.b).toNat % f.n = 0 ∧
      ∃ u, xlate .atomic (lab.xr f.o.b) lab.closed = (u, .error (.cause .prot)) :=
  ⟨lab_quiet.1, ⟨_, rfl, by decide +kernel⟩, ⟨_, rfl, by decide +kernel, failed_spec (by decide +kernel)⟩⟩

theorem witness_AtomicResults_stores :
    (∃ f, atomicForm (.aminD ⟨3, 4, 6, 1, 9⟩) = some f ∧ (lab.xr f.o.b).toNat % f.n = 0 ∧
      ∃ u loc, xlate .atomic (lab.xr f.o.b) lab.closed = (u, .ok loc) ∧ isRemote loc.key = false ∧ u.damagedAt loc.key f.n = false ∧
        f.new (u.peekNat loc.key f.n) (lab.xn f.o.c % 2 ^ (8 * f.n)) (lab.xn f.o.a % 2 ^ (8 * f.n)) = some 0) ∧
    (∃ f, atomicForm (.acasW ⟨3, 4, 6, 1, 7⟩) = some f ∧ (lab.xr f.o.b).toNat % f.n = 0 ∧
      ∃ u loc, xlate .atomic (lab.xr f.o.b) lab.closed = (u, .ok loc) ∧ isRemote loc.key = false ∧ u.damagedAt loc.key f.n = false ∧
        f.new (u.peekNat loc.key f.n) (lab.xn f.o.c % 2 ^ (8 * f.n)) (lab.xn f.o.a % 2 ^ (8 * f.n)) = none) ∧
    ∃ f, atomicForm (.aorD ⟨3, 4, 6, 1, 9⟩) = some f ∧ (worn.xr f.o.b).toNat % f.n = 0 ∧
      ∃ u loc, xlate .atomic (worn.xr f.o.b) worn.closed = (u, .ok loc) ∧ isRemote loc.key = false ∧ u.damagedAt loc.key f.n = true :=
  ⟨⟨_, rfl, by decide +kernel, found_spec (by decide +kernel)⟩, ⟨_, rfl, by decide +kernel, found_spec (by decide +kernel)⟩,
    ⟨_, rfl, by decide +kernel, found_spec (by decide +kernel)⟩⟩

/-- The same on another device, and a table entry there. -/
theorem witness_AtomicResults_remote :
    (∃ f, atomicForm (.aaddD ⟨3, 4, 6, 3, 9⟩) = some f ∧ (lab.xr f.o.b).toNat % f.n = 0 ∧
      ∃ u loc, xlate .atomic (lab.xr f.o.b) lab.closed = (u, .ok loc) ∧ isRemote loc.key = true ∧ u.hart.refused.contains loc.key = false) ∧
    withRefusal.Quiet ∧
    (∃ f, atomicForm (.aaddD ⟨3, 4, 6, 3, 9⟩) = some f ∧ (withRefusal.xr f.o.b).toNat % f.n = 0 ∧
      ∃ u loc, xlate .atomic (withRefusal.xr f.o.b) withRefusal.closed = (u, .ok loc) ∧ isRemote loc.key = true ∧
        u.hart.refused.contains loc.key = true) ∧
    (farRoot lab).Quiet ∧
    ∃ f, atomicForm (.aaddD ⟨3, 4, 6, 3, 9⟩) = some f ∧ ((farRoot lab).xr f.o.b).toNat % f.n = 0 ∧
      ∃ u k m, xlate .atomic ((farRoot lab).xr f.o.b) (farRoot lab).closed = (u, .error (.remote k m)) :=
  ⟨⟨_, rfl, by decide +kernel, found_spec (by decide +kernel)⟩, ⟨rfl, rfl, rfl, rfl, rfl⟩,
    ⟨_, rfl, by decide +kernel, found_spec (by decide +kernel)⟩, ⟨rfl, rfl, rfl, rfl, rfl⟩,
    ⟨_, rfl, by decide +kernel, farTable_spec (by decide +kernel)⟩⟩

/-- The leaves of the pages 1 and 3 lie on another device, and are not dirty yet. -/
def farLeaf : State :=
  { lab with dev := { lab.dev with
    tlb := [⟨0, 0, 0x10000, 1, 2, 2 ^ 47 + 0x40, 0x3004F⟩, ⟨0, 0, 0x10000, 3, 2, 2 ^ 47 + 0x48, 0x800000000047⟩] } }

theorem witness_AtomicResults_marking : farLeaf.Quiet ∧
    (∃ u loc, xlate .atomic (farLeaf.xr 1) farLeaf.closed = (u, .ok loc) ∧ isRemote loc.key = false ∧
      u.damagedAt loc.key 8 = false ∧ (u.leafMarked loc).hart.acks ≠ []) ∧
    (∃ u loc, xlate .atomic (farLeaf.xr 3) farLeaf.closed = (u, .ok loc) ∧ isRemote loc.key = true ∧
      u.hart.refused.contains loc.key = false ∧ (u.leafMarked loc).hart.acks ≠ []) ∧
    ∃ u loc, xlate .atomic (lab.xr 3) lab.closed = (u, .ok loc) ∧ isRemote loc.key = true ∧ (u.leafMarked loc).hart.acks = [] ∧
      loc.leaf.all (fun l => !isRemote l.key) = true :=
  ⟨⟨rfl, rfl, rfl, rfl, rfl⟩, found_spec (by decide +kernel), found_spec (by decide +kernel), found_spec (by decide +kernel)⟩

theorem remote_quiet : withRefusal.Quiet ∧ withReply.Quiet ∧ worn.Quiet := ⟨⟨rfl, rfl, rfl, rfl, rfl⟩, ⟨rfl, rfl, rfl, rfl, rfl⟩, ⟨rfl, rfl, rfl, rfl, rfl⟩⟩

theorem witness_LoadAcquireStoreRelease : lab.Quiet ∧ (lab.xr 2).toNat % 8 ≠ 0 ∧ (lab.xr 2).toNat % 4 ≠ 0 ∧ (lab.xr 1).toNat % 8 = 0 ∧
    (lab.xr 0).toNat % 8 = 0 ∧ (∃ u, xlate .load (lab.xr 0) lab.closed = (u, .error (.cause .page))) ∧
    (∃ u, xlate .atomic (lab.xr 4) lab.closed = (u, .error (.cause .prot))) ∧
    (∃ u loc, xlate .load (lab.xr 1) lab.closed = (u, .ok loc) ∧ isRemote loc.key = false ∧ u.damagedAt loc.key 8 = false) ∧
    (∃ u loc, xlate .atomic (lab.xr 1) lab.closed = (u, .ok loc) ∧ isRemote loc.key = false) ∧
    ∃ u loc, xlate .load (worn.xr 1) worn.closed = (u, .ok loc) ∧ isRemote loc.key = false ∧ u.damagedAt loc.key 8 = true :=
  ⟨lab_quiet.1, by decide +kernel, by decide +kernel, by decide +kernel, by decide +kernel, failed_spec (by decide +kernel),
    failed_spec (by decide +kernel), found_spec (by decide +kernel), found_spec (by decide +kernel), found_spec (by decide +kernel)⟩

/-- The place of register x3 lies on another device: a refused byte, bytes that are missing, bytes that have come. -/
theorem witness_LoadAcquireStoreRelease_remote : (lab.xr 3).toNat % 8 = 0 ∧
    (∃ u loc, xlate .load (withRefusal.xr 3) withRefusal.closed = (u, .ok loc) ∧ isRemote loc.key = true ∧
      (u.hart.refusedByte loc.key 8).isSome = true) ∧
    (∃ u loc, xlate .load (lab.xr 3) lab.closed = (u, .ok loc) ∧ isRemote loc.key = true ∧ u.hart.refusedByte loc.key 8 = none ∧
      u.hart.missing loc.key 8 = some (farKey, 8)) ∧
    (∃ u loc, xlate .load (withReply.xr 3) withReply.closed = (u, .ok loc) ∧ isRemote loc.key = true ∧
      u.hart.refusedByte loc.key 8 = none ∧ u.hart.replied loc.key 8 = some [7, 7, 7, 7, 7, 7, 7, 7]) ∧
    ∃ u loc, xlate .atomic (lab.xr 3) lab.closed = (u, .ok loc) ∧ isRemote loc.key = true :=
  ⟨by decide +kernel, found_spec (by decide +kernel), found_spec (by decide +kernel), found_spec (by decide +kernel),
    found_spec (by decide +kernel)⟩

/-- Memory differs from x6 and equals x8; a damaged word, and the ways a load fails. -/
theorem witness_WaitInstructionsCompareMemory : lab.Quiet ∧ (lab.xr 2).toNat % 8 ≠ 0 ∧ (lab.xr 1).toNat % 8 = 0 ∧
    (∃ u loc, xlate .load (lab.xr 1) lab.closed = (u, .ok loc) ∧ isRemote loc.key = false ∧ u.damagedAt loc.key 8 = false ∧
      u.peekNat loc.key 8 ≠ lab.xn 6 % 2 ^ (8 * 8) ∧ u.peekNat loc.key 8 = lab.xn 8 % 2 ^ (8 * 8)) ∧
    (∃ u, xlate .load (lab.xr 0) lab.closed = (u, .error (.cause .page))) ∧
    ∃ u loc, xlate .load (worn.xr 1) worn.closed = (u, .ok loc) ∧ isRemote loc.key = false ∧ u.damagedAt loc.key 8 = true :=
  ⟨lab_quiet.1, by decide +kernel, by decide +kernel, found_spec (by decide +kernel), failed_spec (by decide +kernel),
    found_spec (by decide +kernel)⟩

/-- On another device the bytes that have come differ from x6, and are those of a register that holds them. -/
theorem witness_WaitInstructionsCompareMemory_remote : withReply.Quiet ∧ withRefusal.Quiet ∧ (lab.xr 3).toNat % 8 = 0 ∧
    (∃ u loc, xlate .load (withReply.xr 3) withReply.closed = (u, .ok loc) ∧ isRemote loc.key = true ∧
      u.hart.refusedByte loc.key 8 = none ∧ (u.hart.replied loc.key 8).any (fun bs => decide (leNat bs ≠ withReply.xn 6)) = true ∧
      (u.hart.replied loc.key 8).any (fun bs => decide (leNat bs = (0x0707070707070707#64).toNat)) = true) ∧
    (∃ u loc, xlate .load (withRefusal.xr 3) withRefusal.closed = (u, .ok loc) ∧ isRemote loc.key = true ∧
      (u.hart.refusedByte loc.key 8).isSome = true) ∧
    ∃ u loc, xlate .load (lab.xr 3) lab.closed = (u, .ok loc) ∧ isRemote loc.key = true ∧ u.hart.refusedByte loc.key 8 = none ∧
      u.hart.missing loc.key 8 = some (farKey, 8) :=
  ⟨remote_quiet.2.1, remote_quiet.1, by decide +kernel, found_spec (by decide +kernel), found_spec (by decide +kernel),
    found_spec (by decide +kernel)⟩

def withAck : State := hartAt lab fun h => { h with acks := [(5, 7)] }
def asked : State := hartAt lab fun h => { h with preempt := some .slot }

theorem witness_ClosingInstructions : lab.Quiet ∧ (withAck.closed.hart.outgoing ≠ [] ∨ withAck.closed.hart.acks ≠ []) ∧ asked.closed.hart.outgoing = [] ∧
    asked.closed.hart.acks = [] ∧ asked.closed.hart.owes asked.closed = false ∧ asked.closed.hart.preempt = some .slot ∧
    owing.closed.hart.owes owing.closed = true :=
  ⟨lab_quiet.1, .inr (by decide +kernel), by decide +kernel⟩

/-! ## Control registers and traps -/

theorem witness_ControlRegisterReads : (crTable lab).any (fun r => decide (r.1.toNat = 0x034)) = true ∧
    (crTable lab).any (fun r => decide (r.1.toNat = 0x800)) = true ∧ lab.isSuper ∧ (asUser lab).hart.mode = .user ∧
    ([0x000, 0x80F] : List (BitVec 12)).all (fun n => (crTable lab).all (fun r => decide (r.1 ≠ n))) = true :=
  ⟨by decide +kernel, by decide +kernel, rfl, rfl, by decide +kernel⟩

theorem witness_ControlRegisterWrites : (crWrites lab 7).any (fun r => decide (r.1.toNat = 0x00E)) = true ∧
    (crWrites lab 7).any (fun r => decide (r.1.toNat = 0x800)) = true ∧ (0x034 : BitVec 12) ∈ crReadOnly ∧ (0x80D : BitVec 12) ∈ crReadOnly ∧
    (crTable lab).any (fun r => decide (r.1.toNat = 0x030)) = true ∧
    (crTable lab).all (fun r => decide (r.1 ≠ 0x004)) = true :=
  ⟨by decide +kernel, by decide +kernel, by decide, by decide, by decide +kernel, by decide +kernel⟩

/-- PRIO takes the value 5 of x6 as it does any other above 3, and the 0 of x8. -/
theorem witness_SpecialRegisterWrites : lab.isSuper ∧ 4 ≤ (lab.xr 6).toNat ∧ (lab.xr 8).toNat < 4 ∧ (lab.xr 7).toNat % 8 ≠ 7 := by
  refine ⟨rfl, by decide +kernel, by decide +kernel, by decide +kernel⟩

theorem witness_TrapEntry : lab.hart.hasHandler ∧ Cause.uncor ≠ .trapi ∧ Cause.uncor ≠ .brk ∧ ¬ State.reset.boot.hart.hasHandler ∧
    ¬ (hartAt lab fun h => { h with tstat := 3 }).hart.hasHandler ∧ Cause.trapi ≠ .uncor ∧
    (State.reset.boot.hart.outgoing = [] ∧ State.reset.boot.hart.acks = []) ∧
    ¬ (hartAt withAck fun h => { h with tvec := 0 }).hart.hasHandler ∧ (hartAt withAck fun h => { h with tvec := 0 }).hart.acks ≠ [] := by
  unfold Hart.hasHandler
  decide +kernel

/-- A hart without a handler whose exit word may be written, waits for a table of another device, or for the marking of its page. -/
def exiting (s : State) (va : Word) : State := hartAt s fun h => { h with tvec := 0, exitVa := va }

theorem witness_TrapEntry_exit :
    (State.reset.boot.hart.settled State.reset.boot = true ∧ State.reset.boot.hart.exitVa = 0) ∧
    (∃ u loc, xlate .store (exiting lab 0x10008).hart.exitVa (exiting lab 0x10008) = (u, .ok loc) ∧ (u.leafMarked loc).hart.acks = []) ∧
    (∃ u loc, xlate .store (exiting farLeaf 0x10008).hart.exitVa (exiting farLeaf 0x10008) = (u, .ok loc) ∧ (u.leafMarked loc).hart.acks ≠ []) ∧
    owing.hart.settled owing = false :=
  ⟨by decide +kernel, found_spec (by decide +kernel), found_spec (by decide +kernel), by decide +kernel⟩

theorem witness_TrapInstructionsAndReturn : lab.Quiet ∧ lab.hart.hasHandler ∧ lab.isSuper ∧ (asUser lab).hart.mode = .user := by
  refine ⟨lab_quiet.1, ?_, rfl, rfl⟩
  unfold Hart.hasHandler
  decide +kernel

/-- Another hart of the partition whose open strip holds a translation. -/
def holder : State := { lab with harts := [{ bootHart with id := 1, stale := true, pages := [⟨0x20000, 2, 0, false⟩] }] }

theorem witness_SupervisorInstructions : (asUser lab).hart.mode = .user ∧ isReduced (asUser lab) = false ∧ (asUser lab).Quiet ∧ lab.isSuper ∧
    lab.Quiet ∧ (⟨2, 1⟩ : Tlb).k.toNat ≤ 2 ∧ (⟨0, 1⟩ : Tlb).k.toNat ≤ 2 ∧
    (lab.closed.invalidated 2 (lab.xr 1)).harts.any (fun h => h.pid == lab.hart.pid && h.status != .absent && (h.stale || h.staleOut)) = false ∧
    holder.Quiet ∧
    (holder.closed.invalidated 2 (lab.xr 1)).harts.any (fun h => h.pid == lab.hart.pid && h.status != .absent && (h.stale || h.staleOut)) = true :=
  ⟨rfl, by decide +kernel, lab_quiet.2, rfl, lab_quiet.1, by decide, by decide, by decide +kernel, ⟨rfl, rfl, rfl, rfl, rfl⟩, by decide +kernel⟩

/-- An operation that succeeds with a property of its result. -/
def works {α : Type} (r : EStateM.Result Abort State α) (p : α → State → Prop) [∀ x t, Decidable (p x t)] : Bool :=
  match r with
  | .ok x t => decide (p x t)
  | _ => false

theorem works_spec {α : Type} {r : EStateM.Result Abort State α} {p : α → State → Prop} [∀ x t, Decidable (p x t)]
    (h : works r p = true) : ∃ x t, r = .ok x t ∧ p x t := by
  cases r with
  | ok x t => exact ⟨x, t, rfl, of_decide_eq_true h⟩
  | error _ _ => cases h

/-- A save area with one brick of eight lanes and one tile row, at the page of x10. -/
def area : State := lab.poke 0x70000 ([1, 0, 0, 0, 8] ++ List.replicate 11 0 ++ [1, 0, 0, 0, 16, 0, 0, 0, 1, 0, 0, 0])

/-- An operation that traps with a cause. -/
def trapped {α : Type} (r : EStateM.Result Abort State α) (c : Cause) : Bool :=
  match r with
  | .error (.trap d _ _) _ => decide (d = c)
  | _ => false

theorem trapped_spec {α : Type} {r : EStateM.Result Abort State α} {c : Cause} (h : trapped r c = true) :
    ∃ x y u, r = .error (.trap c x y) u := by
  cases r with
  | ok _ _ => cases h
  | error e u =>
    cases e with
    | trap d x y => exact ⟨x, y, u, by rw [of_decide_eq_true h]⟩
    | _ => cases h

/-- The hart holds a brick, and one slot of its register v1 is unreadable, within the area that VSAVE writes. -/
def tagHolder : State :=
  let s := hartAt lab fun h => { h with lmod := 8, nreg := 8, live := { h.live with lost := [(1, 0)] } }
  { s with dev := { s.dev with bricks := [((s.hart.hall, 0), ⟨some s.hart.id, 0⟩)] } }

theorem witness_VectorSaveAndRestore_lost : tagHolder.isSuper ∧ tagHolder.Quiet ∧ (tagHolder.xr 10).toNat % 64 = 0 ∧
    (tagHolder.closed.tagged 0 tagHolder.hart.id).length = 1 ∧ lostFrom tagHolder.closed.hart 1 tagHolder.closed.hart.lmod = some 1152 ∧
    ∃ locs u, translateSpan .store (spanOf (tagHolder.xr 10).toNat (128 + 6144 * 1 * tagHolder.closed.hart.lmod)) tagHolder.closed =
      .ok locs u ∧ locs.length = 1 :=
  ⟨rfl, ⟨rfl, rfl, rfl, rfl, rfl⟩, by decide +kernel, by decide +kernel, by decide +kernel, works_spec (by decide +kernel)⟩

theorem witness_VectorSaveAndRestore : lab.isSuper ∧ lab.Quiet ∧ (lab.xr 1).toNat % 64 ≠ 0 ∧ (lab.xr 10).toNat % 64 = 0 ∧
    lostFrom lab.closed.hart (lab.closed.tagged 0 0).length lab.closed.hart.lmod = none ∧
    ∃ locs u, translateSpan .store (spanOf (lab.xr 10).toNat (128 + 6144 * (lab.closed.tagged 0 0).length * lab.closed.hart.lmod)) lab.closed =
      .ok locs u ∧ locs.length = 1 ∧ locs.all (fun p => !isRemote p.loc.key && p.loc.leaf.all (fun l => !isRemote l.key)) = true :=
  ⟨rfl, lab_quiet.1, by decide +kernel, by decide +kernel, by decide +kernel, works_spec (by decide +kernel)⟩

theorem witness_VectorSaveAndRestore_restore : area.isSuper ∧ area.Quiet ∧ (area.xr 10).toNat % 64 = 0 ∧
    area.closed.hart.vowner.getLsbD 12 = false ∧ ∃ hd u, readSpan (spanOf (area.xr 10).toNat 128) area.closed = .ok hd u ∧
      bitsOf (leNat hd) 0 32 = 1 ∧ bitsOf (leNat hd) 32 8 = 8 ∧ bitsOf (leNat hd) 40 24 = 0 ∧ bitsOf (leNat hd) 112 16 = 0 ∧
      bitsOf (leNat hd) 224 32 = 0 ∧ bitsOf (leNat hd) 256 768 = 0 ∧
      works (readSpan (spanOf ((area.xr 10).toNat + 128) (4 * bitsOf (leNat hd) 128 32 * bitsOf (leNat hd) 32 8 +
        bitsOf (leNat hd) 160 32 / 8 * 8 + 256 * bitsOf (leNat hd) 192 32)) u) (fun _ _ => True) = true :=
  ⟨rfl, ⟨rfl, rfl, rfl, rfl, rfl⟩, by decide +kernel, by decide +kernel, works_spec (by decide +kernel)⟩

/-- VOWNER names a hart; no page is there; the header of an empty page keeps no layout. -/
theorem witness_VectorSaveAndRestore_traps :
    (hartAt lab fun h => { h with vowner := 0x1001 }).closed.hart.vowner.getLsbD 12 = true ∧
    (hartAt lab fun h => { h with vowner := 0x1001 }).Quiet ∧ lab.closed.hart.vowner.getLsbD 12 = false ∧ (lab.xr 0).toNat % 64 = 0 ∧
    (∃ x y u, readSpan (spanOf (lab.xr 0).toNat 128) lab.closed = .error (.trap .page x y) u) ∧
    ∃ hd u, readSpan (spanOf (lab.xr 10).toNat 128) lab.closed = .ok hd u ∧ bitsOf (leNat hd) 0 32 ≠ 1 :=
  ⟨by decide +kernel, ⟨rfl, rfl, rfl, rfl, rfl⟩, by decide +kernel, by decide +kernel, trapped_spec (by decide +kernel), works_spec (by decide +kernel)⟩

/-- A header that gives more than the page holds, and a brick of the grant that another hart has its vectors in. -/
def longArea : State := lab.poke 0x90000 ([1, 0, 0, 0, 8] ++ List.replicate 11 0 ++ [0, 0x40, 0, 0])

def areaOver : State :=
  let s := hartAt area fun h => { h with grant := [(0, 0)] }
  { s with harts := [{ bootHart with id := 1 }], dev := { s.dev with bricks := [((0, 0), ⟨some 1, 0⟩)] } }

theorem witness_VectorSaveAndRestore_pages : lab.hart.nreg = 32 ∧ (lab.xr 0).toNat % 64 = 0 ∧ trapped (translateSpan .store
      (spanOf (lab.xr 0).toNat (128 + 6144 * (lab.closed.tagged 0 0).length * lab.closed.hart.lmod)) lab.closed) .page = true ∧
    longArea.Quiet ∧ (longArea.xr 12).toNat % 64 = 0 ∧
    (∃ hd u, readSpan (spanOf (longArea.xr 12).toNat 128) longArea.closed = .ok hd u ∧
      bitsOf (leNat hd) 0 32 = 1 ∧ bitsOf (leNat hd) 32 8 = 8 ∧ bitsOf (leNat hd) 40 24 = 0 ∧ bitsOf (leNat hd) 112 16 = 0 ∧
      bitsOf (leNat hd) 224 32 = 0 ∧ bitsOf (leNat hd) 256 768 = 0 ∧
      trapped (readSpan (spanOf ((longArea.xr 12).toNat + 128) (4 * bitsOf (leNat hd) 128 32 * bitsOf (leNat hd) 32 8 +
        bitsOf (leNat hd) 160 32 / 8 * 8 + 256 * bitsOf (leNat hd) 192 32)) u) .page = true) ∧
    areaOver.Quiet ∧ (0, 0) ∈ areaOver.closed.hart.grant ∧ areaOver.closed.ownerOf (0, 0) = some 1 ∧
    (∀ x ∈ (hartAt area fun h => { h with grant := [(0, 0)] }).closed.hart.grant, area.ownerOf x = none) :=
  ⟨rfl, by decide +kernel, by decide +kernel, ⟨rfl, rfl, rfl, rfl, rfl⟩, by decide +kernel, works_spec (by decide +kernel),
    ⟨rfl, rfl, rfl, rfl, rfl⟩, by decide +kernel⟩

/-! ## Vector instructions -/

/-- A hart with one brick, two elements in every row, and a shape. -/
def vec (shape : BitVec 15) (s : State) : State := hartAt s fun h => { h with
  bricks := 1
  dies := 1
  lmod := 8
  grant := [(0, 0)]
  live := { h.live with
    shape := shape
    vl := 2
    ldl := 0b11#2 ++ 4#5 } }

/-- int32, f32 and f16 elements. -/
def ints : State := vec 0x06 lab
def flts : State := vec 0x0A lab
def halves : State := vec 0x09 lab

theorem fits_of {f : VectorForm} {s : State} (a : f.shape)
    (b : f.groups.all (fun g => decide (rowsOf s.hart.live.shape * g.2 ≤ 8 ∧ g.1.toNat + rowsOf s.hart.live.shape * g.2 ≤ s.hart.nreg)) = true) :
    f.Fits s :=
  ⟨a, fun g h => of_decide_eq_true (List.all_eq_true.mp b g h)⟩

/-- A form is ready where no mask and no stream is bound. -/
theorem ready_of {f : VectorForm} {s : State} (formats : f.formats) (shape : f.shape) (own : f.own)
    (h : (f.groups.all (fun g => decide (rowsOf s.hart.live.shape * g.2 ≤ 8 ∧ g.1.toNat + rowsOf s.hart.live.shape * g.2 ≤ s.hart.nreg)) &&
      decide (s.hart.bound = []) && decide (s.hart.binds = []) && inPlace s s.hart && decide (s.hart.mortar = []) && decide (s.owned.hart.live.lost = [])) = true) : f.Ready s := by
  simp only [Bool.and_eq_true, decide_eq_true_eq] at h
  obtain ⟨⟨⟨⟨⟨g, m⟩, b⟩, p⟩, r⟩, l⟩ := h
  refine ⟨formats, fits_of shape g, ?_, p, ?_, ?_, own, ?_⟩
  · intro _ _ b hb
    rw [m] at hb
    cases hb
  · intro _ _ x hx
    rw [b] at hx
    cases hx
  · intro _ _ x hx
    rw [l] at hx
    cases hx
  · rw [mortarChunks, r]
    exact Nat.zero_le _

/-- A form of SHAPE is ready; its formats and its rows are computed. -/
theorem shape_ready {s : State} {len : Nat} {ad : BitVec 6 → Bool} {gs : List (VReg × Nat)} {e : Shp → Strip → Strip}
    (h : (!isReduced s && ad (ewOf s.hart.live.shape) && decide (rowsOf s.hart.live.shape * s.q ≤ 8) &&
      (gs.all (fun g => decide (rowsOf s.hart.live.shape * g.2 ≤ 8 ∧ g.1.toNat + rowsOf s.hart.live.shape * g.2 ≤ s.hart.nreg)) &&
        decide (s.hart.bound = []) && decide (s.hart.binds = []) && inPlace s s.hart && decide (s.hart.mortar = []) && decide (s.owned.hart.live.lost = []))) = true) :
    (shapeForm s len ad gs e).Ready s := by
  obtain ⟨h, d⟩ := Bool.and_eq_true_iff.mp h
  obtain ⟨h, c⟩ := Bool.and_eq_true_iff.mp h
  obtain ⟨a, b⟩ := Bool.and_eq_true_iff.mp h
  exact ready_of ⟨fun r => absurd a (by rw [r]; decide), b⟩ (show rowsOf s.hart.live.shape * s.q ≤ 8 from of_decide_eq_true c) trivial d

theorem witness_VectorArithmeticResults :
    (∃ f, intForm ints (.vadd ⟨0, 0, 0, 1, 2, 3⟩) = some f ∧ VectorLatch ints (.vadd ⟨0, 0, 0, 1, 2, 3⟩) ∧ (f.form ints).Ready ints) ∧
    (∃ f, intForm ints (.cVadd ⟨1, 2⟩) = some f ∧ VectorLatch ints (.cVadd ⟨1, 2⟩) ∧ (f.form ints).Ready ints) ∧
    ∃ f, fltForm flts (.vfmaX ⟨1, 0, 6, 31, 31⟩) = some f ∧ VectorLatch flts (.vfmaX ⟨1, 0, 6, 31, 31⟩) ∧ (f.form flts).Ready flts :=
  ⟨⟨_, rfl, trivial, shape_ready (by decide +kernel)⟩, ⟨_, rfl, ⟨4, by unfold Latched; decide +kernel⟩, shape_ready (by decide +kernel)⟩,
    ⟨_, rfl, trivial, shape_ready (by decide +kernel)⟩⟩

theorem witness_VectorConversionResults : (∃ f, convertForm halves (.vfwma ⟨0, 0, 0, 2, 4, 30⟩) = some f ∧ f.Ready halves) ∧
    ∃ f, convertForm flts (.vcvt ⟨6, 0, 0, 0, 0x09, 4, 2⟩) = some f ∧ f.Ready flts := by
  refine ⟨⟨_, rfl, by unfold wideVV wideForm; exact shape_ready (by decide +kernel)⟩, ⟨_, rfl, ?_⟩⟩
  refine ready_of ⟨⟨fun r => ?_, by decide +kernel⟩, fun r => ?_, fun _ => by decide +kernel⟩
    (show rowsOf flts.hart.live.shape * flts.q ≤ 8 by decide +kernel) trivial (by decide +kernel)
  · exact absurd r (by decide +kernel)
  · exact absurd r (by decide +kernel)

theorem witness_MoveAndPermuteResults :
    (∃ f, moveForm ints (.vmerge ⟨2, 0, 0, 1, 2, 3⟩) = some f ∧ (f.form ints).Ready ints) ∧
    (∃ f, permForm ints (.vmvx ⟨0, 0, 1, 3⟩) = some f ∧ f.Ready ints) ∧
    ∃ f, permForm ints (.vsldn ⟨0, 0, 1, 2, 3⟩) = some f ∧ f.Ready ints := by
  refine ⟨⟨_, rfl, shape_ready (by decide +kernel)⟩, ⟨_, rfl, shape_ready (by decide +kernel)⟩, ⟨_, rfl, ?_⟩⟩
  refine ready_of ⟨fun r => absurd r (by decide +kernel), rfl⟩ (show rowsOf ints.hart.live.shape * ints.q ≤ 8 by decide +kernel) (fun r e _ _ ⟨_, x, _, h⟩ => ?_) (by decide +kernel)
  have : ints.hart.dies ≤ 1 := by decide +kernel
  rw [State.block, State.block, if_pos this, if_pos this] at h
  exact h rfl

theorem witness_CompareAndMaskResults : (∃ f, boolForm ints (.vclt ⟨0, 0, 0, 1, 2, 3⟩) = some f ∧ f.Ready ints) ∧
    ∃ f, boolForm ints (.mand ⟨1, 2, 3⟩) = some f ∧ f.Ready ints := by
  refine ⟨⟨_, rfl, ready_of ⟨⟨fun r => absurd r (by decide +kernel), by decide +kernel⟩, by decide +kernel⟩ ?_ trivial (by decide +kernel)⟩,
    ⟨_, rfl, ready_of trivial trivial trivial (by decide +kernel)⟩⟩
  exact (show rowsOf ints.hart.live.shape * ints.q ≤ 8 by decide +kernel)

/-- The greatest of the two equal elements is the first; none is active under a mask of zeros. -/
theorem witness_ReductionResults : (∃ f, reduceForms flts (.vrsumt ⟨0, 0, 6, 1, 9⟩) = some f ∧ f.Ready flts) ∧
    (∃ o ad part less, indexForm (.vrmaxi ⟨0, 0, 6, 1, 9⟩) = some (o, ad, part, less) ∧
      (reduceForm ints ad o fun _ _ _ => 0).Ready ints ∧
      greatest (less (shapeOf ints)) ((linear (shapeOf ints) ints.owned.hart.live o.m o.b).filter fun x => part (shapeOf ints) x.2) 0) ∧
    ∃ o ad part less, indexForm (.vrmaxi ⟨1, 0, 6, 1, 9⟩) = some (o, ad, part, less) ∧ (reduceForm ints ad o fun _ _ _ => 0).Ready ints ∧
      ((linear (shapeOf ints) ints.owned.hart.live o.m o.b).filter fun x => part (shapeOf ints) x.2) = [] := by
  refine ⟨⟨_, rfl, by unfold reduceForm; exact shape_ready (by decide +kernel)⟩,
    ⟨_, _, _, _, rfl, by unfold reduceForm; exact shape_ready (by decide +kernel), ?_⟩,
    ⟨_, _, _, _, rfl, by unfold reduceForm; exact shape_ready (by decide +kernel), by decide +kernel⟩⟩
  have e : (linear (shapeOf ints) ints.owned.hart.live 0 1).filter (fun _ => true) = [(0, 0), (1, 0)] := by decide +kernel
  unfold greatest
  rw [e]
  decide +kernel

/-- All sixteen lanes of the brick: rows of 128 elements. -/
def wide : State := hartAt flts fun h => { h with
  lmod := 16 }

theorem tile_ready {ad : BitVec 6 → Bool} {least : Nat} {gs : List (VReg × Nat)} {read : Shp → Nat × Nat → Prop} {e : Shp → Strip → Strip}
    (h : (ad (ewOf wide.hart.live.shape) && decide (least ≤ (shapeOf wide).cap ∧ (shapeOf wide).vl ≤ wide.hart.bricks * wide.hart.lmod * 16) &&
      gs.all (fun g => decide (rowsOf wide.hart.live.shape * g.2 ≤ 8 ∧ g.1.toNat + rowsOf wide.hart.live.shape * g.2 ≤ wide.hart.nreg))) = true) :
    (tileForm wide ad least gs read e).Ready wide := by
  obtain ⟨h, d⟩ := Bool.and_eq_true_iff.mp h
  obtain ⟨a, b⟩ := Bool.and_eq_true_iff.mp h
  have own : least ≤ (shapeOf wide).cap ∧ (shapeOf wide).vl ≤ wide.hart.bricks * wide.hart.lmod * 16 ∧
      ∀ u ∈ wide.owned.hart.live.lost, ¬ read (shapeOf wide) u :=
    ⟨(of_decide_eq_true b).1, (of_decide_eq_true b).2, by
      have : wide.owned.hart.live.lost = [] := by decide +kernel
      rw [this]
      exact fun _ h => by cases h⟩
  refine ready_of ⟨by decide +kernel, ⟨fun r => absurd r (by decide +kernel), a⟩, by decide +kernel, by decide +kernel⟩
    (show rowsOf wide.hart.live.shape * wide.q ≤ 8 by decide +kernel) own ?_
  simp only [Bool.and_eq_true]
  exact ⟨⟨⟨⟨⟨d, by decide +kernel⟩, by decide +kernel⟩, by decide +kernel⟩, by decide +kernel⟩, by decide +kernel⟩

theorem witness_TileResults : (∃ f, tileForms wide (.tmac ⟨0, 0, 16, 8, 1, 0⟩) = some f ∧ f.form.Ready wide) ∧
    (∃ f, tileForms wide (.tzero 3) = some f ∧ f.form.Ready wide) ∧ (trowForm wide ⟨0, 6, 2, 5⟩).Ready wide :=
  ⟨⟨_, rfl, by dsimp only; exact tile_ready (by decide +kernel)⟩, ⟨_, rfl, ready_of (by decide +kernel) trivial trivial (by decide +kernel)⟩,
    by unfold trowForm; exact tile_ready (by decide +kernel)⟩

theorem witness_DestinationPolicy : (shapeOf ints).grp.w ∈ [8, 16, 32, 64] ∧ 0 < (shapeOf ints).grp.m ∧ 0 < (shapeOf ints).grp.q ∧
    (30 : VReg).toNat + (shapeOf ints).rows * (shapeOf ints).grp.q ≤ 32 ∧
    (shapeOf ints).vl ≤ (shapeOf ints).grp.q * (shapeOf ints).grp.m * 32 / (shapeOf ints).grp.w ∧
    (shapeOf ints).grp.w = 32 ∧ (0 < (shapeOf ints).rows ∧ 1 < (shapeOf ints).vl ∧ ints.hart.live.active 0 1 = true) := by decide +kernel

def maskBound : State := hartAt ints fun h => { h with bound := [(3, 1)] }
/-- A slot of v2 under element 1 is unreadable. -/
def lostSlot : State := hartAt ints fun h => { h with live := { h.live with lost := [(2, 1)] } }

def stateOut : State := hartAt ints fun h => { h with vowner := 0x8000 }

theorem witness_VectorFaultOrder :
    (∃ f, vectorForm lab (.cVadd ⟨1, 2⟩) = some f ∧ ¬ VectorLatch lab (.cVadd ⟨1, 2⟩)) ∧
    (∃ f, vectorForm flts (.vadd ⟨0, 0, 0, 1, 2, 3⟩) = some f ∧ ¬ f.formats) ∧
    (∃ f, vectorForm (vec 0x46 lab) (.vadd ⟨0, 0, 0, 1, 2, 31⟩) = some f ∧ f.formats ∧ ¬ f.Fits (vec 0x46 lab)) ∧
    (∃ f, vectorForm maskBound (.vclt ⟨0, 0, 0, 1, 2, 3⟩) = some f ∧ f.formats ∧ f.Fits maskBound ∧ f.mask = some 3 ∧ ¬ f.MaskFree maskBound) ∧
    (∃ f, vectorForm stateOut (.vadd ⟨0, 0, 0, 1, 2, 3⟩) = some f ∧ f.formats ∧ f.Fits stateOut ∧ f.MaskFree stateOut ∧
      inPlace stateOut stateOut.hart = false) ∧
    ∃ f g, vectorForm lostSlot (.vadd ⟨0, 0, 0, 1, 2, 3⟩) = some f ∧ f.formats ∧ f.Fits lostSlot ∧ f.MaskFree lostSlot ∧
      inPlace lostSlot lostSlot.hart = true ∧ f.Unbound lostSlot ∧ intForm lostSlot (.vadd ⟨0, 0, 0, 1, 2, 3⟩) = some g ∧
      ∃ v ∈ g.srcs, ∃ u ∈ lostSlot.owned.hart.live.lost, readsLost (shapeOf lostSlot) (v, lostSlot.q) u = true := by
  refine ⟨⟨_, rfl, ?_⟩, ⟨_, rfl, ?_⟩, ⟨_, rfl, ⟨fun r => absurd r (by decide +kernel), by decide +kernel⟩, ?_⟩,
    ⟨_, rfl, ⟨⟨fun r => absurd r (by decide +kernel), by decide +kernel⟩, by decide +kernel⟩, fits_of ?_ (by decide +kernel), rfl, ?_⟩,
    ⟨_, rfl, ⟨fun r => absurd r (by decide +kernel), by decide +kernel⟩, fits_of ?_ (by decide +kernel), fun _ e => (by cases e), by decide +kernel⟩,
    ⟨_, _, rfl, ⟨fun r => absurd r (by decide +kernel), by decide +kernel⟩, fits_of ?_ (by decide +kernel), fun _ e => (by cases e), by decide +kernel,
      fun _ _ b hb => (by cases hb), rfl, 2, by decide, (2, 1), by decide +kernel, by decide +kernel⟩⟩
  · intro ⟨l, h⟩
    revert l
    unfold Latched
    decide +kernel
  · intro h
    exact absurd h.2 (by decide +kernel)
  · intro h
    exact absurd (h.2 (31, 2) (by decide +kernel)).2 (by decide +kernel)
  · exact (show rowsOf maskBound.hart.live.shape * maskBound.q ≤ 8 by decide +kernel)
  · intro h
    exact h 3 rfl (3, 1) (by decide +kernel) rfl
  · exact (show rowsOf stateOut.hart.live.shape * stateOut.q ≤ 8 by decide +kernel)
  · exact (show rowsOf lostSlot.hart.live.shape * lostSlot.q ≤ 8 by decide +kernel)

/-- A stream on v3, within the group of two rows at v2; bricks with another hart's tag, or with this hart's outside its grant; a hart of
two blocks, eight elements of a row to a block. -/
def nearStream : State := hartAt (vec 0x46 lab) fun h => { h with binds := [⟨3, 0x10000, 4, 4, 0x06, false, 0, 0, 0, 0⟩] }

def split : State := hartAt ints fun h => { h with
  bricks := 2
  dies := 2
  lmod := 1
  grant := [(0, 0), (12, 0)]
  live := { h.live with vl := 16 } }

def overTag (id : Nat) : State := { ints with dev := { ints.dev with bricks := [((0, 0), ⟨some id, 0⟩), ((0, 1), ⟨some 0, 0⟩)] } }

theorem witness_VectorFaultOrder_own :
    (∃ g ∈ ((intForm nearStream (.vadd ⟨0, 0, 0, 1, 2, 5⟩)).map (fun f => (f.form nearStream).groups)).getD [], ∃ b ∈ nearStream.hart.binds,
      b.reg ≠ g.1 ∧ g.1.toNat < b.reg.toNat + nearStream.q ∧ b.reg.toNat < g.1.toNat + rowsOf nearStream.hart.live.shape * g.2) ∧
    (tileLeast (.tmac ⟨0, 0, 16, 8, 1, 0⟩) = some 128 ∧ (shapeOf flts).cap < 128 ∧ flts.owned.hart.live.lost = []) ∧
    (inPlace split split.hart = true ∧ split.owned.hart.live.lost = []) := by
  decide +kernel

/-- Element 3 of a slide by five places comes from the other block, and is the first that does. -/
theorem witness_VectorFaultOrder_blocks : ∃ m source, permSource split (.vsldn ⟨0, 0, 6, 2, 3⟩) = some (m, source) ∧
    split.Crosses m source 0 3 ∧ ∀ q d, q < (shapeOf split).rows → d < (shapeOf split).vl → q < 0 ∨ (q = 0 ∧ d < 3) →
      ¬ split.Crosses m source q d := by
  refine ⟨_, _, rfl, ⟨by decide +kernel, 8, by decide +kernel, by decide +kernel⟩, ?_⟩
  rintro q d - - (h | ⟨-, h⟩) ⟨-, x, hx, hb⟩
  · cases h
  · have far : ∀ d, d < 3 → d + split.xn 6 < (shapeOf split).vl ∧
        split.block (shapeOf split) (d + split.xn 6) = split.block (shapeOf split) d := by decide +kernel
    have e := (if_pos (far d h).1).symm.trans hx
    cases e
    exact hb (far d h).2

theorem witness_VectorFaultOrder_place : inPlace stateOut stateOut.hart = false ∧
    inPlace (overTag 1) (overTag 1).hart = false ∧ (overTag 1).ownerOf (0, 0) = some 1 ∧ inPlace (overTag 0) (overTag 0).hart = false ∧
    (0, 1) ∉ (overTag 0).hart.grant := by
  decide +kernel

/-! ## Vector accesses -/

theorem checked {r : EStateM.Result Abort State (List (Elt × Loc) × Option EFault)} {p : List (Elt × Loc) → State → Prop}
    [∀ l t, Decidable (p l t)] (h : works r (fun x t => x.2.isNone = true ∧ p x.1 t) = true) : ∃ locs t, r = .ok (locs, none) t ∧ p locs t := by
  obtain ⟨⟨l, e⟩, t, h, n, q⟩ := works_spec h
  cases e with
  | none => exact ⟨l, t, h, q⟩
  | some _ => cases n

theorem faulted {r : EStateM.Result Abort State (List (Elt × Loc) × Option EFault)} {p : EFault → Bool}
    (h : works r (fun x _ => x.2.any p = true) = true) : ∃ locs e t, r = .ok (locs, some e) t ∧ p e = true := by
  obtain ⟨⟨l, e⟩, t, h, n⟩ := works_spec h
  cases e with
  | none => cases n
  | some e => exact ⟨l, e, t, h, n⟩

/-- An operation that waits for bytes of another device. -/
def lacking {α : Type} (r : EStateM.Result Abort State α) : Bool :=
  match r with
  | .error (.remote _ _) _ => true
  | _ => false

theorem lacking_spec {α : Type} {r : EStateM.Result Abort State α} (h : lacking r = true) : ∃ k m u, r = .error (.remote k m) u := by
  cases r with
  | ok _ _ => cases h
  | error e u =>
    cases e with
    | remote k m => exact ⟨k, m, u, rfl⟩
    | _ => cases h

/-- The elements of a load all lie on this device, so that their bytes have come. -/
def here (locs : List (Elt × Loc)) : Bool := locs.all (fun x => !isRemote x.2.key)

theorem here_come {t : State} {n : Nat} {locs : List (Elt × Loc)} (h : here locs = true) : t.HasCome n locs := fun x hx r => by
  have := List.all_eq_true.mp h x hx
  rw [r] at this
  cases this

theorem witness_VectorLoadResults : ∃ f, vectorLoad ints (.vldu ⟨0, 1, 5⟩) = some f ∧ (f.form ints).Ready ints ∧
    ∃ locs t, checkElems .load ((shapeOf ints).w / 8) (f.elts ints) ints.owned = .ok (locs, none) t ∧
      t.HasCome ((shapeOf ints).w / 8) locs ∧ locs.length = 2 ∧ ∀ x ∈ locs, 0 = t.elementAt x.2 ((shapeOf ints).w / 8) := by
  refine ⟨_, rfl, by unfold AccessForm.form; exact shape_ready (by decide +kernel), ?_⟩
  obtain ⟨locs, t, h, a, b, c⟩ := checked (r := checkElems .load ((shapeOf ints).w / 8) ((unitForm ints ⟨0, 1, 5⟩).elts ints) ints.owned)
    (p := fun locs t => here locs = true ∧ locs.length = 2 ∧
      locs.all (fun x => decide (0 = t.elementAt x.2 ((shapeOf ints).w / 8))) = true) (by decide +kernel)
  exact ⟨locs, t, h, here_come a, b, fun x hx => of_decide_eq_true (List.all_eq_true.mp c x hx)⟩

/-- The address of x3 lies on another device: nothing of it has come, and all of it has. -/
theorem witness_VectorLoadResults_remote :
    (∃ f, vectorLoad ints (.vldu ⟨0, 3, 5⟩) = some f ∧ (f.form ints).Ready ints ∧
      ∃ k m t, loadElems ((shapeOf ints).w / 8) (f.elts ints) ints.owned = .error (.remote k m) t) ∧
    ∃ f, vectorLoad (vec 0x06 withReply) (.vldu ⟨0, 3, 5⟩) = some f ∧
      ∃ locs t, checkElems .load ((shapeOf (vec 0x06 withReply)).w / 8) (f.elts (vec 0x06 withReply)) (vec 0x06 withReply).owned = .ok (locs, none) t ∧
        locs.all (fun x => isRemote x.2.key && (t.hart.refusedByte x.2.key 4).isNone && (t.hart.replied x.2.key 4).isSome) = true :=
  ⟨⟨_, rfl, by unfold AccessForm.form; exact shape_ready (by decide +kernel), lacking_spec (by decide +kernel)⟩,
    ⟨_, rfl, checked (by decide +kernel)⟩⟩

theorem witness_VectorLoadResults_broadcast :
    let f : AccessForm := ⟨0, 5, none, fun _ _ _ _ => ints.xr 1⟩
    let g : AccessForm := ⟨1, 5, none, fun _ _ _ _ => ints.xr 1⟩
    (f.form ints).Ready ints ∧ (g.form ints).Ready ints ∧ g.elts ints = [] ∧ f.elts ints = [⟨0, 0, 0x10008⟩, ⟨0, 1, 0x10008⟩] ∧
      ∃ locs t, checkElems .load ((shapeOf ints).w / 8) [⟨0, 0, 0x10008⟩] ints.owned = .ok (locs, none) t ∧
        locs.map (fun x => (x.1.addr, x.2.key)) = [(0x10008, 0x30008)] ∧ isRemote 0x30008 = false :=
  ⟨by unfold AccessForm.form; exact shape_ready (by decide +kernel), by unfold AccessForm.form; exact shape_ready (by decide +kernel),
    by decide +kernel, by decide +kernel, checked (by decide +kernel)⟩

theorem witness_VectorStoreResults : ∃ f, vectorStore ints (.vstu ⟨0, 1, 5⟩) = some f ∧ (f.form ints).Ready ints ∧
    StoresFit ints (f.addrs ints) ∧
    ∃ locs t, checkElems .store ((shapeOf ints).w / 8) (f.elts ints) ints.owned = .ok (locs, none) t ∧ locs.length = 2 := by
  refine ⟨_, rfl, by unfold AccessForm.form; exact shape_ready (by decide +kernel), ?_, checked (by decide +kernel)⟩
  unfold StoresFit
  decide +kernel

/-- A misaligned element of a load, of a store, and a load element that another device has refused. -/
theorem witness_VectorElementFaults :
    (∃ f, vectorLoad ints (.vlds ⟨0, 2, 1, 5⟩) = some f ∧ (f.form ints).Ready ints ∧
      ∃ locs e t, loadElems ((shapeOf ints).w / 8) (f.elts ints) ints.owned = .ok (locs, some e) t ∧ (e.e == 1) = true) ∧
    (∃ f, vectorStore ints (.vstu ⟨0, 4, 5⟩) = some f ∧ (f.form ints).Ready ints ∧ StoresFit ints (f.addrs ints) ∧
      ∃ locs e t, checkElems .store ((shapeOf ints).w / 8) (f.elts ints) ints.owned = .ok (locs, some e) t ∧ (e.e == 0) = true) ∧
    ∃ f, vectorLoad (vec 0x06 withRefusal) (.vldu ⟨0, 3, 5⟩) = some f ∧
      ∃ locs e t, loadElems ((shapeOf (vec 0x06 withRefusal)).w / 8) (f.elts (vec 0x06 withRefusal)) (vec 0x06 withRefusal).owned =
        .ok (locs, some e) t ∧ (e.e == 0 && e.cause == .uncor) = true := by
  refine ⟨⟨_, rfl, by unfold AccessForm.form; exact shape_ready (by decide +kernel), faulted (by decide +kernel)⟩,
    ⟨_, rfl, by unfold AccessForm.form; exact shape_ready (by decide +kernel), ?_, faulted (by decide +kernel)⟩,
    ⟨_, rfl, faulted (by decide +kernel)⟩⟩
  unfold StoresFit
  decide +kernel

/-- One element more than the mortar has chunks, 32 bytes apart, as a store at the start of its strip and after another instruction. -/
def big (n : Nat) : State := hartAt (vec 0x40 lab) fun h => { h with
  lmod := 16
  nreg := 8
  pending := n
  live := { h.live with
    vl := 2049
    pc := 0x10000
    x := #v[0, 0x000FFF0000000000, 32, 0, 0, 0, 0, 0, 0, 0, 0, 0, 0, 0, 0, 0, 0, 0, 0, 0, 0, 0, 0, 0, 0, 0, 0, 0, 0, 0, 0, 0] } }

theorem big_new (n : Nat) (h : climbs (((strideForm (big n) ⟨0, 2, 1, 5⟩).addrs (big n)).map chunkOf) = true)
    (k : ((strideForm (big n) ⟨0, 2, 1, 5⟩).addrs (big n)).length = 2049) (m : (big n).hart.mortar = []) (z : mortarSize (big n).hart = 2048) :
    ¬ StoresFit (big n) ((strideForm (big n) ⟨0, 2, 1, 5⟩).addrs (big n)) := by
  have all : ∀ l : List Nat, l.filter (fun c => !([] : List Nat).contains c) = l := fun l => List.filter_eq_self.mpr fun _ _ => rfl
  have e : mortarChunks (big n).hart = [] := by rw [mortarChunks, m]; rfl
  rw [StoresFit, newChunks, e, z]
  simp only [all]
  rw [eraseDups_of_nodup _ (climbs_nodup _ h), List.length_map, k]
  decide

theorem witness_VectorStoreResults_large : ∃ f, vectorStore (big 1) (.vsts ⟨0, 2, 1, 5⟩) = some f ∧ (f.form (big 1)).Ready (big 1) ∧
    ¬ StoresFit (big 1) (f.addrs (big 1)) ∧ (big 1).hart.isFresh = false ∧ (big 1).Quiet :=
  ⟨_, rfl, by unfold AccessForm.form; exact shape_ready (by decide +kernel), big_new 1 (by decide +kernel) (by decide +kernel) rfl (by decide +kernel),
    by decide +kernel, ⟨rfl, rfl, rfl, rfl, rfl⟩⟩

theorem witness_VectorStoreResults_at_once : ∃ f, vectorStore (big 0) (.vsts ⟨0, 2, 1, 5⟩) = some f ∧ (f.form (big 0)).Ready (big 0) ∧
    ¬ StoresFit (big 0) (f.addrs (big 0)) ∧ (big 0).hart.isFresh = true ∧
    ∃ locs t, checkElems .store ((shapeOf (big 0)).w / 8) (f.elts (big 0)) (big 0).owned = .ok (locs, none) t ∧
      t.hart.outgoing = [] ∧ t.hart.acks = [] ∧ t.hart.preempt = none ∧ locs.all (fun x => !isRemote x.2.key) = true :=
  ⟨_, rfl, by unfold AccessForm.form; exact shape_ready (by decide +kernel), big_new 0 (by decide +kernel) (by decide +kernel) rfl (by decide +kernel),
    by decide +kernel, checked (by decide +kernel)⟩

/-- VLDB from an address that is misaligned, and from one of another device of which nothing has come. -/
theorem witness_VectorElementFaults_broadcast :
    let f := fun b : XReg => (⟨0, 5, none, fun _ _ _ _ => ints.xr b⟩ : AccessForm)
    ((f 2).form ints).Ready ints ∧ ((f 2).elts ints).take 1 = [⟨0, 0, 0x10001⟩] ∧
      (∃ locs e t, loadElems ((shapeOf ints).w / 8) [⟨0, 0, 0x10001⟩] ints.owned = .ok (locs, some e) t ∧ (e.cause == .align) = true) ∧
    ((f 3).elts ints).take 1 = [⟨0, 0, 0x30008⟩] ∧
      ∃ k m t, loadElems ((shapeOf ints).w / 8) [⟨0, 0, 0x30008⟩] ints.owned = .error (.remote k m) t :=
  ⟨by unfold AccessForm.form; exact shape_ready (by decide +kernel), by decide +kernel, faulted (by decide +kernel), by decide +kernel,
    lacking_spec (by decide +kernel)⟩

/-- The parts of one element's check: a fault of the translation, a device page, a damaged word, and a place. -/
theorem witness_VectorElementFaults_element :
    (0x10001 : Word).toNat % 4 ≠ 0 ∧ (0x10008 : Word).toNat % 4 = 0 ∧ (∃ t, xlate .load 0 ints = (t, .error (.cause .page))) ∧
    (∃ t loc, xlate .load 0x10008 (ints.pokeWord 0x20008 0x302CF) = (t, .ok loc) ∧ loc.dev = true) ∧
    (∃ t loc, xlate .load 0x30008 worn = (t, .ok loc) ∧ loc.dev = false) ∧
    (∃ t loc, xlate .load 0x10008 worn = (t, .ok loc) ∧ loc.dev = false ∧ isRemote loc.key = false ∧
      (damagedByte t loc.key 4).isSome = true) :=
  ⟨by decide, by decide, failed_spec (by decide +kernel), found_spec (by decide +kernel), found_spec (by decide +kernel),
    found_spec (by decide +kernel)⟩

/-! ## Vector configuration, streams, harts and copies -/

/-- A record at the address in x10. -/
def recorded (r : Nat) (s : State) : State := s.poke 0x70000 (leBytes 128 r)

theorem witness_ShapeResults : ((lab.xr 6).toNat < 2 ^ 15 ∧ isFormat ((lab.xr 6).setWidth 6) = true) ∧
    ¬ ((lab.xr 1).toNat < 2 ^ 15 ∧ isFormat ((lab.xr 1).setWidth 6) = true) ∧ isFormat ((0x0B : BitVec 15).setWidth 6) = true ∧
    isFormat ((0x0F : BitVec 15).setWidth 6) = false := by decide +kernel

/-- A hart whose lease asks for twelve bricks while another holds one. -/
def starved : State := { lab with
  part := { lab.part with
    gangs := [{ bootGang with
      min := 12
      pref := 12 }, { bootGang with
      id := 1
      age := 1 }] }
  harts := [{ bootHart with
    id := 1
    gang := 1
    gkey := 1
    slot := some 1
    grant := [(0, 0)] }] }

/-- A hart that holds its share. -/
def settled : State := hartAt lab fun h => { h with grant := [(0, 0)] }

theorem pair_of {α : Type} {r : α × Bool} {b : Bool} (h : r.2 = b) : ∃ u, r = (u, b) := ⟨r.1, by rw [← h]⟩

theorem witness_SetvlResults : lab.Quiet ∧ (∃ u, takeGrant lab.atGrant = (u, true)) ∧ starved.Quiet ∧
    (∃ u, takeGrant starved.atGrant = (u, false)) ∧ (∀ g, settled.atGrant.gang = some g →
      g.declared ≤ 1 ∧ g.min ≤ (settled.atGrant.hart.holds settled.hart.hall).length) ∧ settled.hart.spread = false ∧
    0 < (settled.atGrant.hart.holds settled.hart.hall).length ∧
    (∀ x ∈ settled.atGrant.hart.holds settled.hart.hall, settled.usable x = true) ∧
    (settled.atGrant.hart.holds settled.hart.hall).length = shareOf settled.atGrant settled.hart.hall settled.hart.pid settled.hart.gkey ∧
    settled.hart.isLive = true := by
  refine ⟨lab_quiet.1, pair_of (by decide +kernel), ⟨rfl, rfl, rfl, rfl, rfl⟩, pair_of (by decide +kernel), fun g h => ?_, rfl, by decide +kernel⟩
  have e : settled.atGrant.gang = some bootGang := by decide +kernel
  cases e.symm.trans h
  decide +kernel

/-- What SETVL can take at its place: the share of a lone hart, and bricks enough for it. -/
theorem witness_SetvlResults_completes : lab.hart.isLive = true ∧ 0 < min lab.atGrant.phaseTarget lab.atGrant.reachable.length ∧
    lab.atGrant.gang.all (fun g => decide (g.min ≤ min lab.atGrant.phaseTarget lab.atGrant.reachable.length ∧ g.declared ≤ 1)) = true := by
  decide +kernel

/-- A binding of register 9 to 16 words at page 7. -/
def stream (v : VReg) (store : Bool) (len : Nat) : Binding :=
  { reg := v
    base := 0x70000
    stride := 4
    len := len
    fmt := 0x06
    store := store
    sblog := 0
    scale := 0
    sstride := 0
    recVa := 0x60000 }

def streaming (v : VReg) (store : Bool) (len : Nat) : State := hartAt ints fun h => { h with binds := [stream v store len] }

theorem witness_VconfResults : (1 : BitVec 5).toNat ≤ 2 ∧ inPlace ints ints.hart = true ∧ ints.Quiet ∧
    (∀ b ∈ ints.hart.binds, b.reg.toNat < 8 * 2 ^ (1 : BitVec 5).toNat) ∧
    (∃ b ∈ (streaming 16 false 16).hart.binds, 8 * 2 ^ (1 : BitVec 5).toNat ≤ b.reg.toNat) ∧ inPlace (streaming 16 false 16) (streaming 16 false 16).hart = true ∧
    (streaming 16 false 16).Quiet ∧ inPlace stateOut stateOut.hart = false :=
  ⟨by decide, by decide +kernel, ⟨rfl, rfl, rfl, rfl, rfl⟩, (fun _ h => by cases h), ⟨stream 16 false 16, by decide +kernel, by decide⟩, by decide +kernel,
    ⟨rfl, rfl, rfl, rfl, rfl⟩, by decide +kernel⟩

/-- A record of 16 words at page 7, and one with a reserved bit. -/
def streamRec : Nat := 0x70000 + 2 ^ 64 * 4 + 2 ^ 128 * 16 + 2 ^ 192 * 6 + 2 ^ 384 * 3

theorem witness_StreamBinding : EngineReady lab .copy ∧ (lab.xr 1).toNat % 64 ≠ 0 ∧ (lab.xr 10).toNat % 64 = 0 ∧
    (recorded streamRec lab).closed.recordAt 0x50000 64 = some streamRec ∧ StreamRecord streamRec ∧ (3 : VReg).toNat < lab.hart.nreg ∧
    lab.hart.binds = [] ∧ (recorded (streamRec + 2 ^ 448) lab).closed.recordAt 0x50000 64 = some (streamRec + 2 ^ 448) ∧
    ¬ StreamRecord (streamRec + 2 ^ 448) := by
  refine ⟨⟨by decide +kernel, lab_quiet.1, by decide +kernel⟩, by decide +kernel, by decide +kernel, by decide +kernel, ?_, by decide +kernel,
    by decide +kernel, by decide +kernel, ?_⟩
  all_goals
    unfold StreamRecord
    decide +kernel

theorem place_of {r : Except XErr Loc} (h : r.toOption.isSome = true) : ∃ loc, r = .ok loc := by
  cases r with
  | ok l => exact ⟨l, rfl⟩
  | error _ => cases h

theorem witness_StreamBinding_bound : EngineReady (streaming 16 false 4) .copy ∧
    (streaming 16 false 4).hart.binds.find? (fun b => b.reg == 16) = some (stream 16 false 4) ∧
    (∃ loc, engineXlate (streaming 16 false 4).closed ((streaming 16 false 4).closed.issuer .copy 0) .store ((stream 16 false 4).recVa + 48) = .ok loc) ∧
    (streaming 16 false 4).xn 15 ≤ (stream 16 false 4).len ∧ (stream 16 false 4).len < (streaming 16 false 4).xn 6 ∧
    ∀ b ∈ (streaming 16 false 4).hart.binds, b.reg ≠ 15 :=
  ⟨⟨by decide +kernel, ⟨rfl, rfl, rfl, rfl, rfl⟩, by decide +kernel⟩, by decide +kernel, place_of (by decide +kernel), by decide +kernel⟩

/-- The conditions of StreamPopAndAppend that every clause has, for an instruction and its one bound register. -/
def MovesStream (s : State) (i : Instr) (b : Binding) : Prop :=
  ∃ f, (intForm s i = some f ∨ fltForm s i = some f ∨ moveForm s i = some f) ∧ VectorLatch s i ∧ (f.form s).formats ∧ (f.form s).Fits s ∧
    (f.form s).Intact s ∧ s.owned.hart.live.lost = [] ∧ inPlace s s.hart = true ∧ 0 < s.hart.live.vl.toNat ∧ s.bindingOf b.reg = some b ∧
    (b.reg ∈ f.srcs ∨ b.reg = f.a) ∧
    ∀ x ∈ s.hart.binds, ∀ v ∈ f.a :: f.srcs, (x = b ∧ v = b.reg) ∨ x.reg.toNat + s.q ≤ v.toNat ∨
      v.toNat + rowsOf s.hart.live.shape * s.q ≤ x.reg.toNat

theorem moves_stream (s : State) (i : Instr) (b : Binding) (f : ElemForm) (hf : intForm s i = some f ∨ fltForm s i = some f ∨ moveForm s i = some f)
    (hl : VectorLatch s i) (hs : (f.form s).formats) (hp : (f.form s).shape)
    (h : (f.form s).groups.all (fun g => decide (rowsOf s.hart.live.shape * g.2 ≤ 8 ∧ g.1.toNat + rowsOf s.hart.live.shape * g.2 ≤ s.hart.nreg)) = true ∧
      s.owned.hart.live.lost = [] ∧ inPlace s s.hart = true ∧ 0 < s.hart.live.vl.toNat ∧ s.bindingOf b.reg = some b ∧
      (b.reg ∈ f.srcs ∨ b.reg = f.a) ∧
      ∀ x ∈ s.hart.binds, ∀ v ∈ f.a :: f.srcs, (x = b ∧ v = b.reg) ∨ x.reg.toNat + s.q ≤ v.toNat ∨
        v.toNat + rowsOf s.hart.live.shape * s.q ≤ x.reg.toNat) :
    MovesStream s i b := by
  obtain ⟨d, l, e⟩ := h
  refine ⟨f, hf, hl, hs, fits_of hp d, fun _ _ u hu => ?_, l, e⟩
  rw [l] at hu
  cases hu

/-- A stream whose elements have a scale byte each, on page 6. -/
def scaled : Binding := { stream 1 false 2 with scale := 0x60000, sstride := 1 }
def scaling : State := hartAt ints fun h => { h with binds := [scaled] }

theorem stream_checked {load : Bool} {b : Binding} {pos n : Nat} {s : State} (z : b.scale = 0)
    (h : works (checkElems (if load then .load else .store) (widthOf b.fmt / 8) (streamElements b pos n) s)
      (fun x _ => x.2.isNone = true ∧ here x.1 = true) = true) : ∃ locs scs t, StreamChecked load b pos n s locs scs t := by
  obtain ⟨locs, t, h, a⟩ := checked (p := fun locs _ => here locs = true) h
  exact ⟨locs, [], t, t, h, fun _ => here_come a, fun _ => ⟨rfl, rfl⟩, fun k => absurd z k⟩

theorem witness_StreamPopAndAppend_pop :
    MovesStream (streaming 1 false 2) (.vmov ⟨0, 0, 1, 2⟩) (stream 1 false 2) ∧
    (∃ locs scs t, StreamChecked true (stream 1 false 2) 0 2 (streaming 1 false 2).owned locs scs t) ∧
    MovesStream (streaming 1 false 1) (.vadd ⟨0, 0, 0, 1, 4, 2⟩) (stream 1 false 1) ∧
    (∃ locs scs t, StreamChecked true (stream 1 false 1) 0 1 (streaming 1 false 1).owned locs scs t) ∧
    MovesStream (hartAt (vec 0x46 lab) fun h => { h with binds := [stream 1 false 2] }) (.vmov ⟨0, 0, 1, 4⟩) (stream 1 false 2) := by
  refine ⟨moves_stream _ _ _ _ (.inr (.inr rfl)) trivial ⟨fun r => absurd r (by decide +kernel), rfl⟩ ?_ (by decide +kernel),
    stream_checked rfl (by decide +kernel),
    moves_stream _ _ _ _ (.inl rfl) trivial ⟨fun r => absurd r (by decide +kernel), by decide +kernel⟩ ?_ (by decide +kernel),
    stream_checked rfl (by decide +kernel),
    moves_stream _ _ _ _ (.inr (.inr rfl)) trivial ⟨fun r => absurd r (by decide +kernel), rfl⟩ ?_ (by decide +kernel)⟩
  · exact (show rowsOf (streaming 1 false 2).hart.live.shape * (streaming 1 false 2).q ≤ 8 by decide +kernel)
  · exact (show rowsOf (streaming 1 false 1).hart.live.shape * (streaming 1 false 1).q ≤ 8 by decide +kernel)
  · exact (show rowsOf (hartAt (vec 0x46 lab) fun h => { h with binds := [stream 1 false 2] }).hart.live.shape *
      (hartAt (vec 0x46 lab) fun h => { h with binds := [stream 1 false 2] }).q ≤ 8 by decide +kernel)

theorem witness_StreamPopAndAppend_scaled : MovesStream scaling (.vmov ⟨0, 0, 1, 2⟩) scaled ∧
    ∃ locs scs t, StreamChecked true scaled 0 2 scaling.owned locs scs t := by
  refine ⟨moves_stream _ _ _ _ (.inr (.inr rfl)) trivial ⟨fun r => absurd r (by decide +kernel), rfl⟩
    (show rowsOf scaling.hart.live.shape * scaling.q ≤ 8 by decide +kernel) (by decide +kernel), ?_⟩
  obtain ⟨locs, u, h, a, k⟩ := checked (r := checkElems .load (widthOf scaled.fmt / 8) (streamElements scaled 0 2) scaling.owned)
    (p := fun locs u => here locs = true ∧ works (checkElems .load 1 (streamScales scaled 0 2) u)
      (fun x _ => x.2.isNone = true ∧ here x.1 = true) = true) (by decide +kernel)
  obtain ⟨scs, t, e, c⟩ := checked (p := fun scs _ => here scs = true) k
  exact ⟨locs, scs, t, u, h, fun _ => here_come a, fun z => absurd z (by decide), fun _ => ⟨e, here_come c⟩⟩

theorem witness_StreamPopAndAppend_append :
    MovesStream (streaming 2 true 2) (.vmov ⟨0, 0, 1, 2⟩) (stream 2 true 2) ∧
    StoresFit (streaming 2 true 2) ((streamElements (stream 2 true 2) 0 2).map (·.addr)) ∧
    (∃ locs scs t, StreamChecked false (stream 2 true 2) 0 2 (streaming 2 true 2).owned locs scs t) ∧
    MovesStream (streaming 2 true 1) (.vmov ⟨0, 0, 1, 2⟩) (stream 2 true 1) ∧
    StoresFit (streaming 2 true 1) ((streamElements (stream 2 true 1) 0 1).map (·.addr)) ∧
    ∃ locs scs t, StreamChecked false (stream 2 true 1) 0 1 (streaming 2 true 1).owned locs scs t := by
  refine ⟨moves_stream _ _ _ _ (.inr (.inr rfl)) trivial ⟨fun r => absurd r (by decide +kernel), rfl⟩
      (show rowsOf (streaming 2 true 2).hart.live.shape * (streaming 2 true 2).q ≤ 8 by decide +kernel) (by decide +kernel), ?_,
    stream_checked rfl (by decide +kernel),
    moves_stream _ _ _ _ (.inr (.inr rfl)) trivial ⟨fun r => absurd r (by decide +kernel), rfl⟩
      (show rowsOf (streaming 2 true 1).hart.live.shape * (streaming 2 true 1).q ≤ 8 by decide +kernel) (by decide +kernel), ?_,
    stream_checked rfl (by decide +kernel)⟩
  all_goals
    unfold StoresFit
    decide +kernel

/-! ## Harts -/

/-- A record of a hart with a lease of one brick, in a gang of its own; r adds to it. -/
def child (r : Nat) : State := recorded (2 ^ 256 * (1 + 2 ^ 16 + 2 ^ 40) + r) lab

def decRecord (t : State) (r : Nat) : Decidable (badRecord t r) := by
  unfold badRecord
  infer_instance

def decLease (t : State) (r : Nat) : Decidable (badLease t r) := by
  unfold badLease leaseFits
  infer_instance

def decGang (t : State) (r : Nat) : Decidable (badGang t r) :=
  decidable_of_iff ((t.gangNamed (field r 40 0 32)).all (fun g =>
    decide (g.declared ≤ g.joined ∨ hallOf t (field r 40 32 16) ≠ some g.hall)) = true) (by
      unfold badGang
      cases t.gangNamed (field r 40 0 32) with
      | none => simp
      | some g => simp)

def decNew (r : Nat) : Decidable (newGangRecord r) := by
  unfold newGangRecord
  infer_instance

theorem can_read {t : State} {loc : Loc} {n : Nat} (h : isRemote loc.key = false ∧ damagedByte t loc.key n = none) : t.CanRead loc n :=
  ⟨fun _ => h.2, fun r => by rw [h.1] at r; cases r⟩

/-- HSPAWN at x10 reads a record with a property. -/
def Reads (s : State) (p : State → Nat → Prop) : Prop :=
  s.Quiet ∧ (s.xr 10).toNat % 64 = 0 ∧ ∃ t loc, xlate .load (s.xr 10) s.closed = (t, .ok loc) ∧ t.CanRead loc 64 ∧ p t (t.elementAt loc 64)

theorem reads_of {s : State} {p : State → Nat → Prop} [dec : ∀ t r, Decidable (p t r)] (q : s.Quiet) (a : (s.xr 10).toNat % 64 = 0)
    (h : found (xlate .load (s.xr 10) s.closed) (fun t loc => (isRemote loc.key = false ∧ damagedByte t loc.key 64 = none) ∧
      p t (t.elementAt loc 64)) = true) : Reads s p := by
  obtain ⟨t, loc, e, c, k⟩ := found_spec h
  exact ⟨q, a, t, loc, e, can_read c, k⟩

/-- The record cannot be translated; a byte of it is damaged; and it lies on another device. -/
theorem witness_HartInstructions_unread : lab.Quiet ∧ (lab.xr 1).toNat % 64 ≠ 0 ∧ (lab.xr 0).toNat % 64 = 0 ∧
    (∃ t, xlate .load (lab.xr 0) lab.closed = (t, .error (.cause .page))) ∧
    (∃ s, s = hartAt { worn with dev := { worn.dev with damaged := [0x70000 / 8 + 7] } } id ∧ s.Quiet ∧
      ∃ t loc, xlate .load (s.xr 10) s.closed = (t, .ok loc) ∧ failingByte t loc.key 64 = some 56) ∧
    ∃ s, s = hartAt lab (fun h => { h with live := { h.live with x := h.live.x.set 10 0x30000 } }) ∧ s.Quiet ∧ (s.xr 10).toNat % 64 = 0 ∧
      ∃ t loc, xlate .load (s.xr 10) s.closed = (t, .ok loc) ∧ isRemote loc.key = true ∧ t.hart.refusedByte loc.key 64 = none ∧
        t.hart.missing loc.key 64 = some (2 ^ 47, 64) :=
  ⟨lab_quiet.1, by decide +kernel, by decide +kernel, failed_spec (by decide +kernel), ⟨_, rfl, ⟨rfl, rfl, rfl, rfl, rfl⟩, found_spec (by decide +kernel)⟩,
    ⟨_, rfl, ⟨rfl, rfl, rfl, rfl, rfl⟩, by decide +kernel, found_spec (by decide +kernel)⟩⟩

/-- The lease of the second has a preference below its minimum; the third is of a gang of nine; the fourth joins no gang. -/
theorem witness_HartInstructions_refused :
    Reads (child 1) badRecord ∧
    Reads (child (2 ^ 256)) (fun t r => ¬ badRecord t r ∧ newGangRecord r ∧ badLease t r) ∧
    Reads (child (2 ^ 299)) (fun t r => ¬ badRecord t r ∧ newGangRecord r ∧ ¬ badLease t r ∧ ¬ (1 ≤ field r 32 40 8 ∧ field r 32 40 8 ≤ 8)) ∧
    Reads (child (2 ^ 320)) (fun t r => ¬ badRecord t r ∧ ¬ newGangRecord r ∧ badGang t r) := by
  refine ⟨reads_of (dec := letI := decRecord; letI := decLease; letI := decGang; letI := decNew; fun _ _ => inferInstance)
    ⟨rfl, rfl, rfl, rfl, rfl⟩ ?_ ?_, reads_of (dec := letI := decRecord; letI := decLease; letI := decGang; letI := decNew; fun _ _ => inferInstance)
    ⟨rfl, rfl, rfl, rfl, rfl⟩ ?_ ?_, reads_of (dec := letI := decRecord; letI := decLease; letI := decGang; letI := decNew; fun _ _ => inferInstance)
    ⟨rfl, rfl, rfl, rfl, rfl⟩ ?_ ?_,
    reads_of (dec := letI := decRecord; letI := decLease; letI := decGang; letI := decNew; fun _ _ => inferInstance)
    ⟨rfl, rfl, rfl, rfl, rfl⟩ ?_ ?_⟩
  all_goals decide +kernel

/-- A gang that waits for its second member. -/
def gathering (s : State) : State := { s with
  part := { s.part with
    gangs := s.part.gangs ++ [{ bootGang with
      id := 1
      declared := 2
      age := 1 }] } }

/-- A partition with every hart. -/
def crowded (s : State) : State := { s with harts := List.replicate 4096 { bootHart with id := 1 } }

theorem witness_HartInstructions_spawned :
    Reads (child 0) (fun t r => ¬ badRecord t r ∧ newGangRecord r ∧ ¬ badLease t r ∧ 1 ≤ field r 32 40 8 ∧ field r 32 40 8 ≤ 8 ∧
      ¬ (Config.maxHarts ≤ (hartsOf t).length ∨ freeHartId t = none) ∧ freeHartId t = some 1 ∧ hallOf t (field r 40 32 16) = some 0) ∧
    Reads (gathering (child (2 ^ 320))) (fun t r => ¬ badRecord t r ∧ ¬ newGangRecord r ∧ ¬ badGang t r ∧
      ¬ (Config.maxHarts ≤ (hartsOf t).length ∨ freeHartId t = none) ∧ freeHartId t = some 1 ∧ hallOf t (field r 40 32 16) = some 0) := by
  refine ⟨reads_of (dec := letI := decRecord; letI := decLease; letI := decGang; letI := decNew; fun _ _ => inferInstance)
    ⟨rfl, rfl, rfl, rfl, rfl⟩ ?_ ?_, reads_of (dec := letI := decRecord; letI := decLease; letI := decGang; letI := decNew; fun _ _ => inferInstance)
    ⟨rfl, rfl, rfl, rfl, rfl⟩ ?_ ?_⟩
  all_goals decide +kernel

theorem witness_HartInstructions_full : Reads (crowded (child 0)) (fun t r => ¬ badRecord t r ∧ newGangRecord r ∧ ¬ badLease t r ∧
    Config.maxHarts ≤ (hartsOf t).length) := by
  refine reads_of (dec := letI := decRecord; letI := decLease; letI := decGang; letI := decNew; fun _ _ => inferInstance)
    ⟨rfl, rfl, rfl, rfl, rfl⟩ ?_ ?_
  all_goals decide +kernel

/-- Hart 2 has ended, hart 3 is detached, hart 4 runs and is claimed by nobody. -/
def family : State := { lab with harts := [{ bootHart with
    id := 2
    status := .ended }, { bootHart with
    id := 3
    detached := true }, { bootHart with id := 4 }] }

def arrived : State := { lab with part := { lab.part with gangs := [{ bootGang with arrived := [0] }] } }

def LeaseOk (s : State) (v : Nat) : Prop :=
  v < 2 ^ 40 ∧ leaseFits (v % 2 ^ 16) (v / 2 ^ 16 % 2 ^ 16) (v / 2 ^ 32) s.hart.prio.toNat ∧ (isReduced s = true → v % 2 ^ 16 ≤ 4)

def leasing : State := hartAt lab fun h => { h with live := { h.live with x := h.live.x.set 1 0x20001 } }

theorem witness_HartInstructions_others : lab.Quiet ∧ leasing.closed.gang = some bootGang ∧ LeaseOk leasing (leasing.xn 1) ∧
    ¬ LeaseOk lab (lab.xn 1) ∧ lab.closed.gang = some bootGang ∧ lab.hart.id ∉ bootGang.arrived ∧
    arrived.closed.gang = some { bootGang with arrived := [0] } ∧ 
    (0 < (bootGang.phase - (lab.xr 7).setWidth 32).toNat ∧ (bootGang.phase - (lab.xr 7).setWidth 32).toNat ≤ 2 ^ 31) ∧
    ¬ (0 < (bootGang.phase - (lab.xr 8).setWidth 32).toNat) := by
  unfold LeaseOk leaseFits
  refine ⟨lab_quiet.1, by decide +kernel⟩

theorem witness_HartInstructions_join : family.Quiet ∧ family.closed.findHart 0 (family.xn 6) = none ∧
    (family.closed.findHart 0 (family.xn 13)).any (fun h => h.status == .ended && !h.detached && h.claim.isNone && h.id == 2) = true ∧
    (family.closed.findHart 0 (family.xn 14)).any (fun h => h.detached) = true ∧
    (family.closed.findHart 0 (family.xn 15)).any (fun h => h.status == .ready && !h.detached && h.claim.isNone && h.id == 4) = true :=
  ⟨⟨rfl, rfl, rfl, rfl, rfl⟩, by decide +kernel⟩

/-- An exit word that may be written, one that waits for a table on another device, and one that waits for the marking of its page. -/
theorem witness_HartInstructions_exit : lab.closed.hart.exitVa = 0 ∧
    (exiting (farRoot lab) 0x10008).Quiet ∧ (exiting (farRoot lab) 0x10008).closed.hart.exitVa ≠ 0 ∧
    (∃ t k n, xlate .store 0x10008 (exiting (farRoot lab) 0x10008).closed = (t, .error (.remote k n))) ∧
    (exiting (farRoot lab) 0x10008).closed.hart.asked = none ∧
    ∃ t loc, xlate .store 0x10008 (exiting farLeaf 0x10008).closed = (t, .ok loc) ∧ (t.leafMarked loc).hart.acks ≠ [] :=
  ⟨by decide +kernel, ⟨rfl, rfl, rfl, rfl, rfl⟩, by decide +kernel, farTable_spec (by decide +kernel), by decide +kernel,
    found_spec (by decide +kernel)⟩

/-! ## Copies and blocks -/

def setX (r : Nat) (v : Word) (s : State) : State := hartAt s fun h => { h with live := { h.live with x := h.live.x.setIfInBounds r v } }

/-- A record of 256 bytes from page 6 to page 7. -/
def copyRec : Nat := 0x60000 + 2 ^ 64 * 0x70000 + 2 ^ 128 * 256 + 2 ^ 192 * 8 + 2 ^ 256 * 0x50100

theorem engine_of {s : State} {e : EngineKind} (h : (!isReduced s && !s.hart.queueFull e && decide (s.hart.outgoing = [] ∧ s.hart.acks = [] ∧
    s.hart.owes s = false ∧ s.hart.preempt = none) && s.hart.mortar.all (fun st => !isRemote st.key && st.leaf.all (fun k => !isRemote k))) = true) : EngineReady s e := by
  simp only [Bool.and_eq_true, decide_eq_true_eq, Bool.not_eq_true'] at h
  obtain ⟨⟨⟨a, b⟩, c, d, o, f⟩, g⟩ := h
  exact ⟨a, ⟨c, d, o, f, g⟩, b⟩

theorem pool_of {s : State} (h : (!isReduced s && !s.hart.queueFull .blk && decide (s.hart.outgoing = [] ∧ s.hart.acks = [] ∧
    s.hart.owes s = false ∧ s.hart.preempt = none) && s.hart.mortar.all (fun st => !isRemote st.key && st.leaf.all (fun k => !isRemote k))) = true)
    (p : (poolValid s.part && decide (s.part.reclaim = none)) = true) : PoolReady s :=
  ⟨engine_of h, (Bool.and_eq_true_iff.mp p).1, of_decide_eq_true (Bool.and_eq_true_iff.mp p).2⟩

/-- The engine instruction at x10 reads a record of n bytes. -/
abbrev Record (s : State) (n r : Nat) : Prop := (s.xr 10).toNat % n = 0 ∧ s.closed.recordAt (s.xr 10) n = some r

def decCopy (r : Nat) : Decidable (CopyRecordOk r) := by
  unfold CopyRecordOk
  infer_instance

def decOverlap (r : Nat) : Decidable (CopyOverlaps r) := by
  unfold CopyOverlaps meets
  infer_instance

theorem no_of {p : Prop} (d : Decidable p) (h : @decide p d = false) : ¬ p := of_decide_eq_false h
theorem yes_of {p : Prop} (d : Decidable p) (h : @decide p d = true) : p := of_decide_eq_true h

theorem witness_CopyInstructions_start : EngineReady (recorded copyRec lab) .copy ∧ (lab.xr 1).toNat % 64 ≠ 0 ∧
    Record (recorded copyRec lab) 64 copyRec ∧ CopyRecordOk copyRec ∧ ¬ CopyOverlaps copyRec ∧ field copyRec 24 8 8 = 0 ∧
    freeCopySlot ((recorded copyRec lab).closed.accepts .copy) = some 0 := by
  exact ⟨engine_of (by decide +kernel), by decide +kernel, ⟨by decide +kernel, by decide +kernel⟩,
    yes_of (decCopy _) (by decide +kernel), no_of (decOverlap _) (by decide +kernel), by decide +kernel, by decide +kernel⟩

/-- A chunk size out of range, a mask that no copy may use, and a destination within the source. -/
theorem witness_CopyInstructions_refused : ¬ CopyRecordOk (copyRec + 2 ^ 192 * 9) ∧ CopyRecordOk (copyRec + 2 ^ 200 * 3) ∧
    ¬ (field (copyRec + 2 ^ 200 * 3) 24 8 8 = 0 ∨ 4 ≤ field (copyRec + 2 ^ 200 * 3) 24 8 8) ∧
    CopyRecordOk (copyRec - 2 ^ 64 * 0xFF80) ∧ CopyOverlaps (copyRec - 2 ^ 64 * 0xFF80) ∧ CopyRecordOk (copyRec + 2 ^ 200 * 4) ∧
    ¬ CopyOverlaps (copyRec + 2 ^ 200 * 4) ∧ lab.hart.bound = [] :=
  ⟨no_of (decCopy _) (by decide +kernel), yes_of (decCopy _) (by decide +kernel), by decide +kernel, yes_of (decCopy _) (by decide +kernel),
    yes_of (decOverlap _) (by decide +kernel), yes_of (decCopy _) (by decide +kernel), no_of (decOverlap _) (by decide +kernel), by decide +kernel⟩

def aCopy (i : Nat) (st : CopyState) (status : BitVec 8) (serial : Nat) : Copy :=
  { copyRecord ⟨.copy, 0x10000, .supervisor, 0, serial, 0, 0⟩ 0 copyRec with
    handle := BitVec.ofNat 32 (2 ^ 31 + i)
    state := st
    status := status }

def copying (l : List Copy) : State := setX 9 0x80000000 { lab with part := { lab.part with copies := l } }

theorem witness_CopyInstructions_none_free :
    freeCopySlot ((copying ((List.range 256).map fun i => aCopy i .running 0 0)).closed.accepts .copy) = none ∧
    copyOf lab.closed (lab.xr 1) = none := by
  refine ⟨List.find?_eq_none.mpr fun i h a => ?_, by decide +kernel⟩
  exact absurd (List.all_eq_true.mp a (aCopy i .running 0 0) (List.mem_map.mpr ⟨i, h, rfl⟩)) (by simp [aCopy, copyHandle]; rfl)

theorem witness_CopyInstructions_handles : EngineReady (copying [aCopy 0 .running 0 0]) .copy ∧
    copyOf (copying [aCopy 0 .complete 0 0]).closed ((copying [aCopy 0 .complete 0 0]).xr 9) = some (aCopy 0 .complete 0 0) ∧
    copyOf (copying [aCopy 0 .running 0 0]).closed ((copying [aCopy 0 .running 0 0]).xr 9) = some (aCopy 0 .running 0 0) ∧
    copyOf (copying [aCopy 0 .running 0x60 0]).closed ((copying [aCopy 0 .running 0x60 0]).xr 9) = some (aCopy 0 .running 0x60 0) ∧
    copyOf (copying [aCopy 0 .running 0 1]).closed ((copying [aCopy 0 .running 0 1]).xr 9) = some (aCopy 0 .running 0 1) ∧
    (copying []).hart.serial = 0 ∧ (copying []).xr 0 = 0 ∧ (copying []).xr 31 = 1 ∧ (copying []).xr 13 = 2 ∧ (copying []).xr 14 = 3 :=
  ⟨engine_of (by decide +kernel), by decide +kernel⟩

/-- Eight blocks at page 5: 0 RESIDENT, 1 shared, 2 FAR, 3 PROMOTING, 4 DAMAGED, 5 retired, 6 with the greatest count, 7 FREE. -/
def pool : State :=
  let s := { lab with
    part := { lab.part with
      bpbase := 0x50000
      bszlog := 0x80000000C
      tpb := 1
      tokb := 1 } }
  s.poke 0x78000 (([⟨1, 1, false, 0⟩, ⟨2, 1, false, 0⟩, ⟨1, 2, false, 0⟩, ⟨1, 3, false, 0⟩, ⟨1, 4, false, 0⟩, ⟨0, 1, true, 0⟩,
    ⟨0xFFFFFFFF, 1, false, 0⟩] : List Meta).flatMap Meta.bytes)

def fullPool : State := pool.poke 0x78070 (Meta.bytes ⟨1, 1, false, 0⟩)

/-- x9 names a block. -/
def naming (id : Word) : State := setX 9 id pool

/-- The metadata of block 2 cannot be read. -/
def patchy (id : Word) : State := { naming id with dev := { (naming id).dev with damaged := [0x78020 / 8] } }

def reclaiming : State := { pool with part := { pool.part with reclaim := some (Issuer.none, []) } }

theorem witness_BlockCommands_pool : EngineReady lab .blk ∧ poolValid lab.part = false ∧ EngineReady reclaiming .blk ∧
    poolValid reclaiming.part = true ∧ reclaiming.part.reclaim ≠ none :=
  ⟨engine_of (by decide +kernel), by decide +kernel, engine_of (by decide +kernel), by decide +kernel, by decide +kernel⟩

theorem witness_BlockCommands_free : PoolReady (naming 0) ∧ lowestFree (naming 0).closed = some 7 ∧ lowestFree fullPool.closed = none ∧
    poolValid fullPool.part = true ∧ fullPool.part.reclaim = none := 
  ⟨pool_of (by decide +kernel) (by decide +kernel), by decide +kernel⟩

/-- x9 names a block with a count and a state. -/
def Block (id : Word) (count st : Nat) : Prop :=
  PoolReady (naming id) ∧ ∃ m, IsBlock (naming id).closed ((naming id).xr 9) m ∧ m.count = count ∧ m.st = st

theorem block_of {id : Word} {count st : Nat} (h : decide (((naming id).xr 9).toNat < poolBlocks (naming id).closed.part ∧
    (metaOf (naming id).closed ((naming id).xr 9).toNat).count = count ∧ (metaOf (naming id).closed ((naming id).xr 9).toNat).st = st ∧ st ≠ 0) =
      true) (p : PoolReady (naming id)) : Block id count st := by
  obtain ⟨a, b, c, d⟩ := of_decide_eq_true h
  exact ⟨p, _, ⟨a, rfl, c ▸ d⟩, b, c⟩

theorem witness_BlockCommands_blocks : Block 0 1 1 ∧ Block 1 2 1 ∧ Block 2 1 2 ∧ Block 3 1 3 ∧ Block 4 1 4 ∧ Block 5 0 1 ∧
    Block 6 0xFFFFFFFF 1 ∧ ∀ m, ¬ IsBlock (naming 7).closed ((naming 7).xr 9) m := by
  refine ⟨block_of (by decide +kernel) (pool_of (by decide +kernel) (by decide +kernel)), block_of (by decide +kernel) (pool_of (by decide +kernel) (by decide +kernel)), block_of (by decide +kernel) (pool_of (by decide +kernel) (by decide +kernel)), block_of (by decide +kernel) (pool_of (by decide +kernel) (by decide +kernel)),
    block_of (by decide +kernel) (pool_of (by decide +kernel) (by decide +kernel)), block_of (by decide +kernel) (pool_of (by decide +kernel) (by decide +kernel)), block_of (by decide +kernel) (pool_of (by decide +kernel) (by decide +kernel)), fun m h => ?_⟩
  have : (metaOf (naming 7).closed ((naming 7).xr 9).toNat).st = 0 := by decide +kernel
  exact h.2.2 (h.2.1 ▸ this)

theorem witness_BlockCommands_unread : PoolReady (patchy 2) ∧ badMeta (patchy 2).closed (searched (patchy 2).closed) = some 2 ∧
    UnreadMeta (patchy 2).closed ((patchy 2).xr 9) ∧ ¬ UnreadMeta (patchy 1).closed ((patchy 1).xr 9) ∧
    badMeta (naming 0).closed (searched (naming 0).closed) = none ∧ badMeta fullPool.closed (searched fullPool.closed) = none ∧
    badMeta (patchy 2).closed (poolBlocks (patchy 2).part) = some 2 ∧ badMeta (naming 0).closed (poolBlocks (naming 0).part) = none := by
  unfold UnreadMeta
  exact ⟨pool_of (by decide +kernel) (by decide +kernel), by decide +kernel⟩

theorem witness_BlockCommands_bstat : poolBlocks pool.part ≤ (pool.xr 10).toNat ∧ pool.xr 0 = 0 ∧ (pool.xr 31).toNat < poolBlocks pool.part ∧
    pool.xr 31 = 1 ∧ pool.xr 13 = 2 ∧ pool.xr 14 = 3 ∧ 3 < pool.xn 15 := by decide +kernel

def lastEpoch : State := { pool with part := { pool.part with epoch := BitVec.allOnes 64 } }

theorem witness_BlockEpochsAndTranslation_epochs : PoolReady (naming 0) ∧ (naming 0).part.epoch ≠ wi (-1) ∧ lastEpoch.part.epoch = wi (-1) ∧
    PoolReady lastEpoch :=
  ⟨pool_of (by decide +kernel) (by decide +kernel), by decide +kernel, by decide +kernel, engine_of (by decide +kernel), by decide +kernel,
    by decide +kernel⟩

def promoRec : Nat := 0x40 + 2 ^ 128 * 0x60000
def compactRec : Nat := 0x60000 + 2 ^ 128 + 2 ^ 168

theorem witness_BlockEpochsAndTranslation_records : PoolReady (recorded promoRec (naming 2)) ∧ (pool.xr 1).toNat % 32 ≠ 0 ∧ (pool.xr 1).toNat % 64 ≠ 0 ∧
    (pool.xr 10).toNat % 32 = 0 ∧ (recorded promoRec pool).closed.recordAt (pool.xr 10) 32 = some promoRec ∧
    (field promoRec 0 0 6 = 0 ∧ field promoRec 12 0 32 = 0 ∧ field promoRec 16 0 3 = 0) ∧ ¬ field (promoRec + 1) 0 0 6 = 0 ∧
    (pool.xr 10).toNat % 64 = 0 ∧ (recorded compactRec pool).closed.recordAt (pool.xr 10) 64 = some compactRec ∧
    (field compactRec 0 0 2 = 0 ∧ 1 ≤ field compactRec 16 0 32 ∧ field compactRec 16 0 32 ≤ 65536 ∧
      field compactRec 20 0 8 < field compactRec 21 0 8 ∧ field compactRec 21 0 8 ≤ 4 ∧ field compactRec 22 0 16 = 0 ∧
      field compactRec 24 0 32 ≤ field compactRec 16 0 32 ∧ field compactRec 28 0 32 = 0 ∧ field compactRec 32 0 3 = 0 ∧
      field compactRec 48 0 128 = 0) ∧ ¬ 1 ≤ field (compactRec - 2 ^ 128) 16 0 32 :=
  ⟨pool_of (by decide +kernel) (by decide +kernel), by decide +kernel⟩

/-- An error of an engine's operation, by its kind. -/
def stopped {α : Type} (r : EStateM.Result EStop State α) (p : EStop → Bool) : Bool :=
  match r with
  | .error e _ => p e
  | _ => false

theorem stopped_spec {α : Type} {r : EStateM.Result EStop State α} {p : EStop → Bool} (h : stopped r p = true) :
    ∃ e t, r = .error e t ∧ p e = true := by
  rcases r with ⟨_, u⟩ | ⟨stop, u⟩
  · cases h
  · exact ⟨stop, u, rfl, h⟩

/-- A record cannot be read; metadata cannot be read; a compaction does its work, meets an entry outside the pool, and waits for a table
of another device. -/
def compaction (table : Word) (chain : Nat) : Compaction :=
  { by_ := lab.closed.issuer .blk 0
    epoch := 0
    recVa := 0x50000
    table := table
    p0 := 0
    stride := 1
    chain := chain
    chains := 2
    accepted := 1
    cword := 0
    cval := 0
    status := 0 }

theorem witness_BlockEpochsAndTranslation_unread :
    trapped (engineRead (pool.xr 0).toNat 32 pool.closed) .page = true ∧ (pool.xr 0).toNat % 64 = 0 ∧
    trapped (engineRead (pool.xr 0).toNat 64 pool.closed) .page = true ∧ UnreadMeta (patchy 2).closed ((patchy 2).xr 9) ∧
    PoolReady (recorded promoRec (naming 7)) ∧ (∀ m, ¬ IsBlock (naming 7).closed ((naming 7).xr 9) m) ∧
    stopped ((compaction 0x60000 0).work (pool.closed.accepts .blk)) (fun e => match e with | .status _ => true | _ => false) = false ∧
    stopped ((compaction 0 1).work (pool.closed.accepts .blk)) (fun e => match e with | .status _ => true | _ => false) = true ∧
    stopped ((compaction 0x30000 1).work (pool.closed.accepts .blk)) (fun e => match e with | .await _ _ => true | _ => false) = true := by
  refine ⟨by decide +kernel, by decide +kernel, by decide +kernel, ?_, pool_of (by decide +kernel) (by decide +kernel), fun m h => ?_,
    by decide +kernel, by decide +kernel, by decide +kernel⟩
  · unfold UnreadMeta
    decide +kernel
  · have : (metaOf (naming 7).closed ((naming 7).xr 9).toNat).st = 0 := by decide +kernel
    exact h.2.2 (h.2.1 ▸ this)

theorem witness_BlockEpochsAndTranslation_positions : (xlatForm ints ⟨3, 0, 11, 1, 2⟩ (some 3)).Ready ints ∧ (shapeOf ints).vl ≠ 0 ∧
    poolValid ints.part = false ∧ (xlatForm (vec 0x06 pool) ⟨0, 0, 11, 1, 2⟩ none).Ready (vec 0x06 pool) ∧
    poolValid (vec 0x06 pool).part = true ∧ ∃ x t, xlatElements ((vec 0x06 pool).xr 11) 32 true
      (((List.range (shapeOf (vec 0x06 pool)).vl).filter (fun e => (vec 0x06 pool).owned.hart.live.active 0 e)).map (fun e =>
        (e, (shapeOf (vec 0x06 pool)).el (vec 0x06 pool).owned.hart.live 1 0 e))) (vec 0x06 pool).owned = .ok x t ∧ x.2.isNone = true := by
  refine ⟨ready_of ⟨⟨fun r => absurd r (by decide +kernel), by decide +kernel⟩, by decide +kernel⟩
    (show rowsOf ints.hart.live.shape * ints.q ≤ 8 by decide +kernel) trivial (by decide +kernel), by decide +kernel, by decide +kernel,
    ready_of ⟨⟨fun r => absurd r (by decide +kernel), by decide +kernel⟩, by decide +kernel⟩
    (show rowsOf (vec 0x06 pool).hart.live.shape * (vec 0x06 pool).q ≤ 8 by decide +kernel) trivial (by decide +kernel), by decide +kernel,
    works_spec (by decide +kernel)⟩

/-! ## The work of engines, computed step by step -/

def trySteps {α : Type} (f : α → State → Option State) : List α → State → Option State
  | [], s => some s
  | x :: xs, s => (f x s).bind (trySteps f xs)

theorem steps_of {α : Type} {f : α → State → Option State} {r : α → State → State → Prop} (hf : ∀ x s t, f x s = some t → r x s t) :
    ∀ (l : List α) (s t : State), trySteps f l s = some t → Steps r l s t
  | [], s, t, h => by
    cases h
    exact .nil s
  | x :: xs, s, t, h => by
    obtain ⟨u, a, b⟩ := Option.bind_eq_some_iff.mp h
    exact .cons (hf _ _ _ a) (steps_of hf xs u t b)

def tryRead (b : Issuer) (s : State) (p : Nat × Nat) : Option (List Byte) :=
  match engineXlate s b .load (word p.1) with
  | .ok loc => if isRemote loc.key || s.damagedAt loc.key p.2 then none else some (s.mem.read loc.key p.2)
  | .error _ => none

theorem read_of {b : Issuer} {s : State} {p : Nat × Nat} {bs : List Byte} (h : tryRead b s p = some bs) : EngineReads b s p bs := by
  unfold tryRead at h
  split at h
  · rename_i loc e
    split at h
    · cases h
    · rename_i c
      rw [Bool.or_eq_true, not_or, Bool.not_eq_true, Bool.not_eq_true] at c
      cases h
      exact ⟨loc, e, c.1, c.2, rfl⟩
  · cases h

def tryReadAll (b : Issuer) (s : State) : List (Nat × Nat) → Option (List Byte)
  | [] => some []
  | p :: rest => (tryRead b s p).bind (fun bs => (tryReadAll b s rest).map (fun more => bs ++ more))

theorem readAll_of {b : Issuer} {s : State} : ∀ (l : List (Nat × Nat)) (bs : List Byte), tryReadAll b s l = some bs → EngineReadsAll b s l bs
  | [], _, h => by
    cases h
    exact .nil
  | _ :: rest, _, h => by
    obtain ⟨_, a, c⟩ := Option.bind_eq_some_iff.mp h
    obtain ⟨_, d, e⟩ := Option.map_eq_some_iff.mp c
    exact e ▸ .cons (read_of a) (readAll_of rest _ d)

def tryWrite (b : Issuer) (p : Nat × List Byte) (s : State) : Option State :=
  match engineXlate s b .store (word p.1) with
  | .ok loc => if isRemote loc.key then none else some (s.poke loc.key p.2)
  | .error _ => none

theorem write_of {b : Issuer} (p : Nat × List Byte) (s t : State) (h : tryWrite b p s = some t) : EngineWrites b p s t := by
  unfold tryWrite at h
  split at h
  · rename_i loc e
    split at h
    · cases h
    · rename_i c
      cases h
      exact ⟨loc, e, Bool.not_eq_true _ ▸ c, rfl⟩
  · cases h

def tryLoad (b : Issuer) (a n : Nat) (s : State) : Option (List Byte) := tryReadAll b s (spanOf a n)
def trySave (b : Issuer) (a : Nat) (bs : List Byte) (s : State) : Option State := trySteps (tryWrite b) (cutAt (spanOf a bs.length) bs) s

theorem load_of {b : Issuer} {a n : Nat} {s : State} {bs : List Byte} (h : tryLoad b a n s = some bs) : EngineLoads b a n s bs := readAll_of _ _ h
theorem save_of {b : Issuer} {a : Nat} {bs : List Byte} {s t : State} (h : trySave b a bs s = some t) : EngineSaves b a bs s t :=
  steps_of write_of _ _ _ h

def tryUnit (b : Issuer) (src dst i : Nat) (s : State) : Option State :=
  let at_ := fun id : Nat => s.part.bpbase.toNat + id * 2 ^ poolLog s.part + 64 * i
  (tryLoad b (at_ src) 64 s).bind (fun bs => trySave b (at_ dst) bs s)

def tryCopy (by_ : Issuer) (src dst : Nat) (s : State) : Option State :=
  trySteps (tryUnit (poolIssuer s.part by_) src dst) (List.range (2 ^ poolLog s.part / 64)) s

theorem copies_of {by_ : Issuer} {src dst : Nat} {s t : State} (h : tryCopy by_ src dst s = some t) : CopiesBlock by_ src dst s t :=
  steps_of (fun _ _ _ u => by
    obtain ⟨bs, a, b⟩ := Option.bind_eq_some_iff.mp u
    exact ⟨bs, load_of a, save_of b⟩) _ _ _ h

theorem some_of {α : Type} {o : Option α} (h : o.isSome = true) : ∃ a, o = some a := Option.isSome_iff_exists.mp h

/-- Two blocks at page 1, in a small memory: 0 RESIDENT and shared, 1 FREE; x9 names block 0. -/
def lowPool : State :=
  let s := State.reset.boot.pokeWord 0x20008 0x300C7
  let s := s.poke 0x32000 (Meta.bytes ⟨2, 1, false, 0⟩)
  { s with
    part := { s.part with
      bpbase := 0x10000
      bszlog := 0x20000000C
      tpb := 1
      tokb := 1 } }

/-- The state from which a private copy of block 0 goes to block 1. -/
def cowing (s : State) : State :=
  let b := lowPool.closed.issuer .blk 0
  ((s.closed.setMeta b 1 ⟨1, 1, false, 0⟩).setMeta b 0 ⟨1, 1, false, 0⟩).accepts .blk

theorem witness_BlockCommands_copies : (cowing lowPool).hart.unperformed = [] ∧
    ∃ t, CopiesBlock (lowPool.closed.issuer .blk 0) 0 1 (cowing lowPool) t := by
  refine ⟨by decide +kernel, ?_⟩
  obtain ⟨t, h⟩ := some_of (o := tryCopy (lowPool.closed.issuer .blk 0) 0 1 (cowing lowPool)) (by decide +kernel)
  exact ⟨t, copies_of h⟩

/-- An operation of an engine that ends. -/
def ends {α : Type} (r : EStateM.Result EStop State α) : Bool :=
  match r with
  | .ok _ _ => true
  | _ => false

theorem ends_of {α : Type} {r : EStateM.Result EStop State α} (h : ends r = true) : ∃ x t, r = .ok x t := by
  cases r with
  | ok x t => exact ⟨x, t, rfl⟩
  | error _ _ => cases h

/-- BCOW's copy ends, meets bytes that cannot be read, and waits for bytes of another device. -/
def lowDamaged : State := { lowPool with dev := { lowPool.dev with damaged := [0x30000 / 8] } }

/-- Blocks of 64 KiB: 0 at page 3 in another device, RESIDENT and shared, 1 FREE; the metadata at page 6. -/
def farBlock : State :=
  let s := lab.poke 0x80000 (Meta.bytes ⟨2, 1, false, 0⟩)
  { s with
    part := { s.part with
      bpbase := 0x30000
      bszlog := 0x300000010
      tpb := 1
      tokb := 1 } }

theorem witness_BlockCommands_cow :
    (PoolReady lowPool ∧ ¬ UnreadMeta lowPool.closed (lowPool.xr 0) ∧ (∃ m, IsBlock lowPool.closed (lowPool.xr 0) m ∧ m.st ∉ [2, 3, 4] ∧ 1 < m.count) ∧
      missingMeta lowPool.closed (searched lowPool.closed) = none ∧ badMeta lowPool.closed (searched lowPool.closed) = none ∧
      lowestFree lowPool.closed = some 1) ∧
    (∃ t, copyBlock (lowPool.closed.issuer .blk 0) 0 1 (cowing lowPool) = .ok () t) ∧
    stopped (copyBlock (lowPool.closed.issuer .blk 0) 0 1 (cowing lowDamaged)) (fun e => decide (e = .status Cause.uncor.code)) = true ∧
    (missingMeta farBlock.closed (searched farBlock.closed) = none ∧ lowestFree farBlock.closed = some 1 ∧
      stopped (copyBlock (farBlock.closed.issuer .blk 0) 0 1 (((farBlock.closed.setMeta (farBlock.closed.issuer .blk 0) 1 ⟨1, 1, false, 0⟩).setMeta
        (farBlock.closed.issuer .blk 0) 0 ⟨1, 1, false, 0⟩).accepts .blk)) (fun e => match e with | .await _ _ => true | _ => false) = true) := by
  refine ⟨⟨pool_of (by decide +kernel) (by decide +kernel), by unfold UnreadMeta; decide +kernel,
    ⟨metaOf lowPool.closed (lowPool.xr 0).toNat, ⟨by decide +kernel, rfl, by decide +kernel⟩, by decide +kernel⟩,
    by decide +kernel⟩, ?_, by decide +kernel⟩
  obtain ⟨_, t, h⟩ := ends_of (r := copyBlock (lowPool.closed.issuer .blk 0) 0 1 (cowing lowPool)) (by decide +kernel)
  exact ⟨t, h⟩

/-- The pool lies in another device; the record of x10 is here. -/
def farPool (id : Word) : State := { naming id with part := { (naming id).part with bpbase := 0x30000 } }

theorem witness_BlockCommands_far :
    (PoolReady (farPool 2) ∧ (missingMeta (farPool 2).closed (searched (farPool 2).closed)).isSome = true ∧
      (missingMeta (farPool 2).closed (poolBlocks (farPool 2).part)).isSome = true ∧
      (∃ k n, AbsentMeta (farPool 2).closed ((farPool 2).xr 9) k n) ∧ ¬ UnreadMeta (farPool 2).closed ((farPool 2).xr 9) ∧
      PoolReady (recorded 0x40 (farPool 2)) ∧ (∃ k n, AbsentMeta (recorded 0x40 (farPool 2)).closed ((recorded 0x40 (farPool 2)).xr 9) k n) ∧
      (recorded 0x40 (farPool 2)).part.epoch ≠ wi (-1)) ∧
    (∀ k n, ¬ AbsentMeta (naming 0).closed ((naming 0).xr 9) k n) ∧ missingMeta (naming 0).closed (searched (naming 0).closed) = none ∧
    missingMeta (naming 0).closed (poolBlocks (naming 0).part) = none ∧ State.reset.part.cfg.windows = [] := by
  have absent : ∀ (s : State) (id : Word), (decide (id.toNat < poolBlocks s.part) && (metaMissing s id.toNat).isSome) = true →
      ∃ k n, AbsentMeta s id k n := fun s id h => by
    obtain ⟨a, b⟩ := Bool.and_eq_true_iff.mp h
    obtain ⟨⟨k, n⟩, e⟩ := Option.isSome_iff_exists.mp b
    exact ⟨k, n, of_decide_eq_true a, e⟩
  refine ⟨⟨pool_of (by decide +kernel) (by decide +kernel), by decide +kernel, by decide +kernel, absent _ _ (by decide +kernel), ?_,
    pool_of (by decide +kernel) (by decide +kernel), absent _ _ (by decide +kernel), by decide +kernel⟩, fun k n h => ?_, by decide +kernel⟩
  · unfold UnreadMeta
    decide +kernel
  · have e : metaMissing (naming 0).closed ((naming 0).xr 9).toNat = none := by decide +kernel
    exact absurd (e.symm.trans h.2) (fun h => by cases h)

/-- Each state of a block, among them one with no reference that is not read for its own. -/
theorem witness_BlockEpochsAndTranslation_resident :
    let known := fun (id st : Nat) => ∃ m, Known pool id m ∧ m.st = st
    known 7 0 ∧ known 2 2 ∧ known 3 3 ∧ known 4 4 ∧ known 0 1 ∧ ∃ m, Known pool 5 m ∧ m.st ≠ 0 ∧ m.st ≠ 2 ∧ m.count = 0 := by
  have read : ∀ {s : State} {id : Nat} (p : Meta → Prop) [DecidablePred p], (match metaRead s id with
      | .entry m => decide (id < poolBlocks s.part ∧ p m)
      | _ => false) = true → ∃ m, Known s id m ∧ p m := fun {s id} p _ h => by
    split at h
    · rename_i m e
      exact ⟨m, ⟨(of_decide_eq_true h).1, e⟩, (of_decide_eq_true h).2⟩
    · cases h
  exact ⟨read (fun m => m.st = 0) (by decide +kernel), read (fun m => m.st = 2) (by decide +kernel),
    read (fun m => m.st = 3) (by decide +kernel), read (fun m => m.st = 4) (by decide +kernel), read (fun m => m.st = 1) (by decide +kernel),
    read (fun m => m.st ≠ 0 ∧ m.st ≠ 2 ∧ m.count = 0) (by decide +kernel)⟩

/-- A compaction's table whose entries 0 and 1 name blocks. -/
def tabled (a b : Nat) : State := (naming 0).poke 0x80000 (leBytes 4 a ++ leBytes 4 b)

theorem witness_BlockEpochsAndTranslation_work : PoolReady (tabled 0 2) ∧
    ends ((compaction 0x60000 1).work (tabled 0 0).closed) = true ∧
    stopped ((compaction 0x60000 1).work (tabled 3 0).closed) (fun e => decide (e = .promoting)) = true :=
  ⟨pool_of (by decide +kernel) (by decide +kernel), by decide +kernel⟩

/-! A compaction computed step by step. -/

def tryKnown (s : State) (id : Nat) : Option Meta :=
  match metaRead s id with
  | .entry m => if id < poolBlocks s.part then some m else none
  | _ => none

theorem known_of {s : State} {id : Nat} {m : Meta} (h : tryKnown s id = some m) : Known s id m := by
  unfold tryKnown at h
  split at h
  · split at h
    · cases h
      exact ⟨‹_›, ‹_›⟩
    · cases h
  · cases h

def tryEntry (c : Compaction) (j : Nat) (s : State) : Option Nat := (tryLoad c.by_ (c.table + word (4 * j)).toNat 4 s).map leNat

theorem entry_of {c : Compaction} {j id : Nat} {s : State} (h : tryEntry c j s = some id) : TableEntry c j s id := by
  obtain ⟨bs, a, b⟩ := Option.map_eq_some_iff.mp h
  exact ⟨bs, load_of a, b.symm⟩

/-- An entry whose block is RESIDENT and the sequence's own already is moved. -/
def tryMove (c : Compaction) (k : Nat) (s : State) : Option State :=
  let p := s.part
  let at_ := fun id pos : Nat => p.bpbase.toNat + id * 2 ^ poolLog p + pos % p.tpb.toNat * p.tokb.toNat
  let dst := c.p0 + k
  let src := c.p0 + c.chain * c.stride + k
  (tryEntry c (dst / p.tpb.toNat) s).bind fun d => (tryKnown s d).bind fun m =>
    (tryEntry c (src / p.tpb.toNat) s).bind fun sid => (tryKnown s sid).bind fun l =>
      (tryLoad (poolIssuer p c.by_) (at_ sid src) p.tokb.toNat s).bind fun bs =>
        if m.st = 1 ∧ m.count = 1 ∧ l.st = 1 ∧ bs.length = p.tokb.toNat then trySave (poolIssuer p c.by_) (at_ d dst) bs s else none

theorem move_of {c : Compaction} (k : Nat) (s t : State) (h : tryMove c k s = some t) : MovesEntry c k s t := by
  obtain ⟨d, a, h⟩ := Option.bind_eq_some_iff.mp h
  obtain ⟨m, b, h⟩ := Option.bind_eq_some_iff.mp h
  obtain ⟨sid, e, h⟩ := Option.bind_eq_some_iff.mp h
  obtain ⟨l, f, h⟩ := Option.bind_eq_some_iff.mp h
  obtain ⟨bs, g, h⟩ := Option.bind_eq_some_iff.mp h
  split at h
  · rename_i x
    exact ⟨d, s, sid, l, bs, ⟨d, m, entry_of a, known_of b, x.1, by rw [x.2.1]; decide, .inl ⟨x.2.1, rfl, rfl⟩⟩, entry_of e, known_of f,
      x.2.2.1, load_of g, x.2.2.2, save_of h⟩
  · cases h

def tryWithdraw (c : Compaction) (j : Nat) (s : State) : Option State :=
  (tryEntry c j s).bind fun id =>
    if id = 0xFFFFFFFF then some s
    else (tryKnown s id).bind fun m => if m.st ≠ 0 ∧ m.count ≠ 0 then
      trySave c.by_ (c.table + word (4 * j)).toNat (leBytes 4 0xFFFFFFFF) (s.setMeta c.by_ id (m.released s.part.epoch)) else none

theorem withdraw_of {c : Compaction} (j : Nat) (s t : State) (h : tryWithdraw c j s = some t) : WithdrawsEntry c j s t := by
  obtain ⟨id, a, h⟩ := Option.bind_eq_some_iff.mp h
  split at h
  · cases h
    exact ⟨id, entry_of a, .inl ⟨‹_›, rfl⟩⟩
  · rename_i n
    obtain ⟨m, b, h⟩ := Option.bind_eq_some_iff.mp h
    split at h
    · rename_i x
      exact ⟨id, entry_of a, .inr ⟨n, m, known_of b, x.1, x.2, save_of h⟩⟩
    · cases h

def tryCompact (c : Compaction) (s : State) : Option State :=
  (trySteps (tryMove c) (List.range c.accepted) s).bind fun u =>
    let n := u.part.tpb.toNat
    let up := fun k : Nat => (k + n - 1) / n
    let first := up (c.p0 + c.accepted)
    trySteps (tryWithdraw c) ((List.range (up (c.p0 + c.chains * c.stride) - first)).map (fun j => j + first)) u

/-- Entry 0 is block 6's own, entry 1 block 0's: the slot moves, and index 1 is withdrawn. -/
def resident : State := (tabled 6 0).poke 0x78060 (Meta.bytes ⟨1, 1, false, 0⟩)

theorem witness_BlockEpochsAndTranslation_compacts : resident.hart.unperformed = [] ∧ ∃ t, Compacts (compaction 0x60000 1) resident t := by
  refine ⟨by decide +kernel, ?_⟩
  obtain ⟨t, h⟩ := some_of (o := tryCompact (compaction 0x60000 1) resident) (by decide +kernel)
  obtain ⟨u, a, b⟩ := Option.bind_eq_some_iff.mp h
  exact ⟨t, u, .inr ⟨by decide, steps_of move_of _ _ _ a⟩, steps_of withdraw_of _ _ _ b⟩

/-- The source of a copy lies below a table of another device. -/
def farSource : State := (recorded (copyRec - 0x60000 + 2 ^ 40) lab).pokeWord 0x10008 0x800000008001

theorem witness_CopyInstructions_translated :
    (EngineReady farSource .copy ∧ Record farSource 64 (copyRec - 0x60000 + 2 ^ 40) ∧ CopyRecordOk (copyRec - 0x60000 + 2 ^ 40) ∧
      ¬ CopyOverlaps (copyRec - 0x60000 + 2 ^ 40) ∧ freeCopySlot (farSource.closed.accepts .copy) = some 0) ∧
    (∃ p, Copy.translated farSource.closed { copyRecord (farSource.closed.issuer .copy (farSource.closed.hart.ordinal .copy)) farSource.part.epoch
      (copyRec - 0x60000 + 2 ^ 40) with handle := 0x80000000 } = .error p) ∧
    ∃ k, Copy.translated (recorded copyRec lab).closed { copyRecord ((recorded copyRec lab).closed.issuer .copy
      ((recorded copyRec lab).closed.hart.ordinal .copy)) (recorded copyRec lab).part.epoch copyRec with handle := 0x80000000 } = .ok k := by
  have no : ∀ {ε α : Type} {r : Except ε α}, r.toOption.isNone = true → ∃ e, r = .error e := fun {ε α r} h => by
    cases r with
    | error e => exact ⟨e, rfl⟩
    | ok _ => cases h
  have yes : ∀ {ε α : Type} {r : Except ε α}, r.toOption.isSome = true → ∃ x, r = .ok x := fun {ε α r} h => by
    cases r with
    | ok x => exact ⟨x, rfl⟩
    | error _ => cases h
  exact ⟨⟨engine_of (by decide +kernel), by decide +kernel, yes_of (decCopy _) (by decide +kernel),
    no_of (decOverlap _) (by decide +kernel), by decide +kernel⟩, no (by decide +kernel), yes (by decide +kernel)⟩

/-! The translation of positions, computed step by step. -/

theorem any_of {α : Type} {o : Option α} {p : α → Bool} (h : o.any p = true) : ∃ x, o = some x ∧ p x = true := by
  cases o with
  | none => cases h
  | some x => exact ⟨x, rfl, h⟩

def tryElement (b : Nat) (x : Elt) (s : State) : Option (Nat × State) :=
  match loadElems b [x] s with
  | .ok ([(y, loc)], none) t => if y = x then some (t.elementAt loc b, t) else none
  | _ => none

theorem element_of {b : Nat} {x : Elt} {s t : State} {v : Nat} (h : tryElement b x s = some (v, t)) : ElementGives b x s v t := by
  unfold tryElement at h
  split at h
  · rename_i y loc u e
    split at h
    · rename_i c
      cases h
      exact ⟨loc, c ▸ e, rfl⟩
    · cases h
  · cases h

/-- The position of a block in the pool, with the address or the offset that it gives. -/
def tryPosition (base : Word) (w e pos : Nat) (s : State) : Option (Xlat × State) :=
  let p := s.part
  (tryElement 4 ⟨0, e, tableEntryVa s base pos⟩ s).bind fun y =>
    if poolBlocks p ≤ y.1 then some (.fault .page, y.2)
    else (tryElement 16 ⟨0, e, word (p.bpbase.toNat + poolBlocks p * 2 ^ poolLog p + 16 * y.1)⟩ y.2).map fun z =>
      let st := z.1 / 2 ^ 32 % 2 ^ 8
      let o := y.1 * 2 ^ poolLog p + pos % p.tpb.toNat * p.tokb.toNat
      (if st = 4 then .fault .bdamage
        else if st ≠ 1 then .fault .page
        else if w = 32 then (if 2 ^ 32 ≤ o then .fault .page else .value o)
        else .value ((p.bpbase.toNat + o) % 2 ^ 64), z.2)

theorem position_of {base : Word} {w e pos : Nat} {s t : State} {x : Xlat} (h : tryPosition base w e pos s = some (x, t)) :
    PositionGives base w e pos s x t := by
  obtain ⟨⟨id, u⟩, a, h⟩ := Option.bind_eq_some_iff.mp h
  split at h
  · cases h
    exact ⟨u, id, element_of a, .inl ⟨‹_›, rfl, rfl⟩⟩
  · obtain ⟨⟨n, v⟩, b, h⟩ := Option.map_eq_some_iff.mp h
    cases h
    exact ⟨u, id, element_of a, .inr ⟨Nat.lt_of_not_le ‹_›, n, element_of b, rfl⟩⟩

/-- The translation of one position gives a value. -/
def valued (r : Option (Xlat × State)) : Bool := r.any (fun p => !p.1.isFault)

theorem valued_of {base : Word} {w : Nat} {s : State} (h : valued (tryPosition base w 0 0 s) = true) :
    ∃ l u, PositionsGive base w [(0, 0)] s l u ∧ ∀ x ∈ l, x.2.isFault = false := by
  unfold valued at h
  obtain ⟨⟨x, t⟩, a, b⟩ := any_of h
  refine ⟨[(0, x)], t, .cons (position_of a) (.nil t), fun y m => ?_⟩
  cases List.mem_singleton.mp m
  exact Bool.not_eq_true' _ ▸ b

/-- Position 0 lies in block 0, which is RESIDENT, and position 1 in block 4, which is DAMAGED, or in none of the pool. -/
theorem witness_BlockEpochsAndTranslation_answers :
    (∃ l u, PositionsGive 0x60000 32 [(0, 0)] (tabled 0 4) l u ∧ ∀ x ∈ l, x.2.isFault = false) ∧
    (∃ l u, PositionsGive 0x60000 64 [(0, 0)] (tabled 0 4) l u ∧ ∀ x ∈ l, x.2.isFault = false) ∧
    (∃ t, PositionGives 0x60000 32 1 1 (tabled 0 4) (.fault .bdamage) t) ∧ (∃ t, PositionGives 0x60000 32 1 1 (tabled 0 9) (.fault .page) t) ∧
    (∃ locs f t, loadElems 4 [⟨0, 0, tableEntryVa (tabled 0 4) 0 0⟩] (tabled 0 4) = .ok (locs, some f) t) ∧
    ∃ id y, ElementGives 4 ⟨0, 0, tableEntryVa (tabled 0 4) 0x60000 0⟩ { tabled 0 4 with part := { (tabled 0 4).part with bpbase := 0x80000 } } id y ∧
      id < poolBlocks (tabled 0 4).part ∧ ∃ locs f v, loadElems 16 [⟨0, 0, word (metaVa { (tabled 0 4).part with bpbase := 0x80000 } id)⟩] y =
        .ok (locs, some f) v := by
  have ends : ∀ {r : Option (Xlat × State)} {c : Cause}, r.any (fun p => decide (p.1 = .fault c)) = true → ∃ t, r = some (.fault c, t) :=
    fun {r c} h => by
      obtain ⟨⟨x, t⟩, a, b⟩ := any_of h
      exact ⟨t, a.trans (congrArg (fun x => some (x, t)) (of_decide_eq_true b))⟩
  have faults : ∀ {r : EStateM.Result Abort State (List (Elt × Loc) × Option EFault)}, works r (fun x _ => x.2.isSome = true) = true →
      ∃ locs f t, r = .ok (locs, some f) t := fun {r} h => by
    obtain ⟨⟨l, o⟩, t, a, b⟩ := works_spec h
    obtain ⟨f, e⟩ := Option.isSome_iff_exists.mp b
    exact ⟨l, f, t, by rw [a]; exact congrArg (fun o => EStateM.Result.ok (l, o) t) e⟩
  refine ⟨valued_of (by decide +kernel), valued_of (by decide +kernel), ?_, ?_, faults (by decide +kernel), ?_⟩
  · obtain ⟨t, h⟩ := ends (r := tryPosition 0x60000 32 1 1 (tabled 0 4)) (c := .bdamage) (by decide +kernel)
    exact ⟨t, position_of h⟩
  · obtain ⟨t, h⟩ := ends (r := tryPosition 0x60000 32 1 1 (tabled 0 9)) (c := .page) (by decide +kernel)
    exact ⟨t, position_of h⟩
  · let s : State := { tabled 0 4 with part := { (tabled 0 4).part with bpbase := 0x80000 } }
    have h : (tryElement 4 ⟨0, 0, tableEntryVa (tabled 0 4) 0x60000 0⟩ s).any (fun y => decide (y.1 < poolBlocks (tabled 0 4).part) &&
        works (loadElems 16 [⟨0, 0, word (metaVa { (tabled 0 4).part with bpbase := 0x80000 } y.1)⟩] y.2) (fun x _ => x.2.isSome = true)) = true := by
      decide +kernel
    obtain ⟨⟨id, y⟩, a, b⟩ := any_of h
    obtain ⟨b, c⟩ := Bool.and_eq_true_iff.mp b
    exact ⟨id, y, element_of a, of_decide_eq_true b, faults c⟩

/-! ## Index objects, cursors, launches and the gang switch -/

def anObject : IxObj :=
  { handle := 0x40000000
    owner := 0
    isSealed := false
    share := []
    tokens := [1, 2, 3]
    cap := 8
    base := 0x70000
    pages := [0x80000] }

/-- An object whose storage lies on another device, and one with no storage, whose sequence is what the engine keeps. -/
def farObject : IxObj := { anObject with pages := [0x800000080000] }
def bareObject : IxObj := { anObject with pages := [] }

def aCursor : Cursor := Cursor.new 0x80000000 0 none

/-- A partition with objects and cursors, and a handle in x9. -/
def indexed (h : Word) (xs : List IxObj) (ds : List Cursor) : State := setX 9 h { lab with
  part := { lab.part with
    objects := xs
    cursors := ds } }

/-- The storage of an object of 16 tokens at page 6. -/
def newRec : Nat := 0x60000 + 2 ^ 64 * 16

theorem witness_IndexObjectResults_new : EngineReady (recorded newRec lab) .span ∧ Record (recorded newRec lab) 32 newRec ∧
    (1 ≤ field newRec 8 0 64 ∧ field newRec 8 0 64 ≤ 2 ^ 32 ∧ field newRec 16 0 128 = 0) ∧ field newRec 0 0 16 = 0 ∧
    ¬ 1 ≤ field 0x60000 8 0 64 ∧ field (newRec + 1) 0 0 16 ≠ 0 ∧
    (∃ locs, (recorded newRec lab).closed.reads (storePages (spanOf (field newRec 0 0 64) ((4096 + 68 * field newRec 8 0 64 + 65535) / 65536 * 65536))) =
      some locs) ∧
    ((recorded newRec lab).closed.reads (storePages (spanOf 0x60000 0x10000))).map (fun l => l.map (·.1.key)) = some [0x80000] ∧
    (∀ x ∈ lab.part.objects, x.handle.toNat % 2 ^ 16 ≠ 0) ∧ (∃ x ∈ (indexed 0 [anObject] []).part.objects, ∃ k ∈ x.pages, k ∈ [0x80000]) ∧
    (∃ x ∈ (indexed 0 [anObject] []).part.objects, x.handle.toNat % 2 ^ 16 = 0) :=
  ⟨engine_of (by decide +kernel), by decide +kernel, by decide +kernel, by decide +kernel, by decide +kernel, by decide +kernel,
    some_of (by decide +kernel), by decide +kernel, (fun _ h => by cases h), ⟨anObject, List.mem_singleton.mpr rfl, by decide⟩,
    ⟨anObject, List.mem_singleton.mpr rfl, by decide⟩⟩

/-- Every slot used, of objects and of cursors. -/
def fullIndex : State := indexed 0 ((List.range 65536).map fun i => { anObject with handle := BitVec.ofNat 32 (2 ^ 30 + i) })
  ((List.range 16384).map fun i => { aCursor with handle := BitVec.ofNat 32 (2 ^ 31 + i) })

theorem witness_IndexObjectResults_full : (∀ i, i < 65536 → ∃ x ∈ fullIndex.part.objects, x.handle.toNat % 2 ^ 16 = i) ∧
    ∀ i, i < 16384 → ∃ d ∈ fullIndex.part.cursors, d.handle.toNat % 2 ^ 14 = i := by
  refine ⟨fun i h => ⟨_, List.mem_map.mpr ⟨i, List.mem_range.mpr h, rfl⟩, ?_⟩, fun i h => ⟨_, List.mem_map.mpr ⟨i, List.mem_range.mpr h, rfl⟩, ?_⟩⟩
  · simp only [BitVec.toNat_ofNat]
    omega
  · simp only [BitVec.toNat_ofNat]
    omega

/-- A run of two tokens at x10, and an empty one. -/
def runRec : Nat := 0x50040 + 2 ^ 64 * 2 + 2 ^ 512 * (7 + 2 ^ 32 * 8)
def emptyRun : Nat := 0x50040

theorem run_of {s : State} {a : Word} {ts : List Slot} (r v : Nat) (h : decide (a.toNat % 16 = 0 ∧ s.recordAt a 16 = some r ∧
    field r 8 0 64 = ts.length ∧ ts.length ≤ 2 ^ 20 ∧ (word (field r 0 0 64)).toNat % 4 = 0 ∧
    s.recordAt (word (field r 0 0 64)) (4 * ts.length) = some v ∧ (∀ i (_ : i < ts.length), ts[i].toNat = field v (4 * i) 0 32) ∧
    ts.all (fun t => decide (t.toNat < 2 ^ 24)) = true) = true) : s.RunAt a ts := by
  obtain ⟨a, b, c, d, e, f, g, k⟩ := of_decide_eq_true h
  exact ⟨a, r, b, c, d, e, ⟨v, f, g⟩, fun t h => of_decide_eq_true (List.all_eq_true.mp k t h)⟩

def runState : State := recorded runRec (indexed 0x40000000 [anObject] [])
def emptyRunState : State := recorded emptyRun (indexed 0x40000000 [anObject] [])

theorem witness_IndexObjectResults_run : runState.closed.RunAt (runState.xr 10) [7, 8] :=
  run_of (runRec % 2 ^ 128) (7 + 2 ^ 32 * 8) (by decide +kernel)

theorem witness_IndexObjectResults_empty_run : emptyRunState.closed.RunAt (emptyRunState.xr 10) [] := run_of emptyRun 0 (by decide +kernel)

theorem witness_IndexObjectResults_ready : EngineReady runState .span ∧ EngineReady emptyRunState .span :=
  ⟨engine_of (by decide +kernel), engine_of (by decide +kernel)⟩

/-- An object of another domain that shares it, one that is sealed, one that is full, and one that is shared with all it can be. -/
def foreign : IxObj := { anObject with
  owner := 5
  isSealed := true
  share := [0] }
def sealedObject : IxObj := { anObject with isSealed := true }
def fullObject : IxObj := { anObject with cap := 4 }
def widelyShared : IxObj := { sealedObject with share := [1, 2, 3, 4, 5, 6, 7, 8] }

def Names (s : State) (x : IxObj) : Prop := EngineReady s .span ∧ s.closed.readableObject (s.xr 9) = some x

theorem names_of (x : IxObj) (h : decide ((indexed 0x40000000 [x] []).closed.readableObject ((indexed 0x40000000 [x] []).xr 9) = some x) = true)
    (r : EngineReady (indexed 0x40000000 [x] []) .span) : Names (indexed 0x40000000 [x] []) x := ⟨r, of_decide_eq_true h⟩

/-- The device that holds the storage of an object refuses a read of its first byte. -/
def spoilt (h : Word) (xs : List IxObj) (ds : List Cursor) : State :=
  hartAt (indexed h xs ds) fun h => { h with refused := [0x800000080000] }

theorem witness_IndexObjectResults_damaged : EngineReady (spoilt 0x40000000 [farObject] []) .span ∧
    (spoilt 0x40000000 [farObject] []).closed.readableObject ((spoilt 0x40000000 [farObject] []).xr 9) = some farObject ∧
    farObject.owner = (spoilt 0x40000000 [farObject] []).hart.domain ∧
    damagedStorage (spoilt 0x40000000 [farObject] []).closed farObject = some 0x70000 ∧
    (spoilt 0x40000000 [farObject] []).closed.HasStorage [farObject] ∧
    (missingStorage (indexed 0x40000000 [farObject] []).closed farObject).isSome = true := by
  unfold State.HasStorage
  exact ⟨engine_of (by decide +kernel), by decide +kernel⟩

theorem witness_IndexObjectResults_stored : (indexed 0x40000000 [bareObject] []).closed.HasStorage [bareObject] ∧
    damagedStorage (indexed 0x40000000 [bareObject] []).closed bareObject = none ∧
    (bareObject.seen (indexed 0x40000000 [bareObject] []).closed).tokens.length + 2 ≤ bareObject.cap ∧
    4 < (({ bareObject with cap := 4 } : IxObj).seen (indexed 0x40000000 [bareObject] []).closed).tokens.length + 2 ∧
    (indexed 0x40000000 [sealedObject] []).closed.HasStorage [sealedObject] ∧
    damagedStorage (indexed 0x40000000 [sealedObject] []).closed sealedObject = none := by
  unfold State.HasStorage
  decide +kernel

theorem witness_IndexObjectResults_handles : EngineReady (indexed 0x40000001 [anObject] []) .span ∧
    (indexed 0x40000001 [anObject] []).closed.readableObject ((indexed 0x40000001 [anObject] []).xr 9) = none ∧
    (Names (indexed 0x40000000 [foreign] []) foreign ∧ foreign.owner ≠ (indexed 0x40000000 [foreign] []).hart.domain) ∧
    (Names (indexed 0x40000000 [anObject] []) anObject ∧ anObject.owner = (indexed 0x40000000 [anObject] []).hart.domain ∧
      anObject.isSealed = false ∧ anObject.tokens.length + 2 ≤ anObject.cap) ∧
    (Names (indexed 0x40000000 [fullObject] []) fullObject ∧ fullObject.isSealed = false ∧ fullObject.cap < fullObject.tokens.length + 2) ∧
    (Names (indexed 0x40000000 [sealedObject] []) sealedObject ∧ sealedObject.isSealed = true ∧ (5 : Slot) ∉ sealedObject.share ∧
      5 ≠ sealedObject.owner ∧ sealedObject.share.length < 8) ∧
    (Names (indexed 0x40000000 [widelyShared] []) widelyShared ∧ widelyShared.isSealed = true ∧ (5 : Slot) ∈ widelyShared.share ∧
      (9 : Slot) ∉ widelyShared.share ∧ 8 ≤ widelyShared.share.length) ∧
    (2 ^ 33 ≤ (lab.xr 7).toNat ∧ (lab.xr 6).toNat < 2 ^ 33 ∧ (lab.xr 6).getLsbD 32 = false) := by
  refine ⟨engine_of (by decide +kernel), by decide +kernel, ⟨names_of _ ?_ (engine_of ?_), by decide +kernel⟩, ⟨names_of _ ?_ (engine_of ?_), by decide +kernel⟩,
    ⟨names_of _ ?_ (engine_of ?_), by decide +kernel⟩, ⟨names_of _ ?_ (engine_of ?_), by decide +kernel⟩,
    ⟨names_of _ ?_ (engine_of ?_), by decide +kernel⟩, by decide +kernel⟩
  all_goals decide +kernel

def linkedCursor : Cursor := { aCursor with
  w := [1, 2]
  linked := some 0x40000000
  slots := #v[some 0x40000000, none, none, none] }

/-- A cursor after a CURACC that committed three tokens with nothing linked. -/
def marked (l : Option (Slot × Nat)) (q : Option Slot) : Cursor := { aCursor with
  w := [1, 2, 3]
  linked := q
  mark := some ⟨0, l, 3⟩ }

def Cursors (s : State) (d : Cursor) : Prop := EngineReady s .span ∧ s.closed.cursorNamed (s.xr 9) = some d

theorem cursors_of (s : State) (d : Cursor) (h : decide (s.closed.cursorNamed (s.xr 9) = some d) = true) (r : EngineReady s .span) : Cursors s d :=
  ⟨r, of_decide_eq_true h⟩

theorem witness_CursorResults_new : lab.xr 8 = 0 ∧ (∀ d ∈ lab.part.cursors, d.handle.toNat % 2 ^ 14 ≠ 0) ∧ lab.xr 6 ≠ 0 ∧
    lab.closed.readableObject (lab.xr 6) = none ∧ lab.closed.cursorNamed (lab.xr 6) = none ∧ EngineReady lab .span :=
  ⟨by decide +kernel, (fun _ h => by cases h), by decide +kernel, by decide +kernel, by decide +kernel, engine_of (by decide +kernel)⟩

/-- Slot 0 holds the object and the others are empty; with four objects no slot is empty. -/
theorem witness_CursorResults_attach : Cursors (indexed 0x80000000 [bareObject] [linkedCursor]) linkedCursor ∧
    (indexed 0x80000000 [bareObject] [linkedCursor]).closed.readableObject ((indexed 0x80000000 [bareObject] [linkedCursor]).xr 6) = none ∧
    (setX 16 0x40000000 (indexed 0x80000000 [bareObject] [linkedCursor])).closed.readableObject 0x40000000 = some bareObject ∧
    linkedCursor.slots.toList[0]? = some (some bareObject.handle) ∧
    (∀ i, ¬ (i < 4 ∧ aCursor.slots.toList[i]? = some (some bareObject.handle))) ∧
    aCursor.useSlot (indexed 0x80000000 [bareObject] [aCursor]).closed 0 = none ∧
    linkedCursor.useSlot (indexed 0x80000000 [bareObject] [linkedCursor]).closed 0 ≠ none := by
  refine ⟨cursors_of _ _ (by decide +kernel) (engine_of (by decide +kernel)), by decide +kernel, by decide +kernel, by decide +kernel, fun i h => ?_,
    by decide +kernel⟩
  have : ∀ j, j < 4 → aCursor.slots.toList[j]? ≠ some (some bareObject.handle) := by decide +kernel
  exact this i h.1 h.2

/-- A command that reads the attached objects waits for one, or cannot read one. -/
theorem witness_CursorResults_storage : EngineReady (spoilt 0x80000000 [farObject] [linkedCursor]) .span ∧
    (spoilt 0x80000000 [farObject] [linkedCursor]).closed.cursorNamed ((spoilt 0x80000000 [farObject] [linkedCursor]).xr 9) = some linkedCursor ∧
    ((linkedCursor.attached (spoilt 0x80000000 [farObject] [linkedCursor]).closed).findSome?
        (damagedStorage (spoilt 0x80000000 [farObject] [linkedCursor]).closed) = some 0x70000 ∧
      (spoilt 0x80000000 [farObject] [linkedCursor]).closed.HasStorage
        (linkedCursor.attached (spoilt 0x80000000 [farObject] [linkedCursor]).closed)) ∧
    ((linkedCursor.attached (indexed 0x80000000 [bareObject] [linkedCursor]).closed).findSome?
        (damagedStorage (indexed 0x80000000 [bareObject] [linkedCursor]).closed) = none ∧
      (indexed 0x80000000 [bareObject] [linkedCursor]).closed.HasStorage
        (linkedCursor.attached (indexed 0x80000000 [bareObject] [linkedCursor]).closed)) ∧
    ((linkedCursor.attached (indexed 0x80000000 [farObject] [linkedCursor]).closed).findSome?
      (missingStorage (indexed 0x80000000 [farObject] [linkedCursor]).closed)).isSome = true := by
  unfold State.HasStorage
  exact ⟨engine_of (by decide +kernel), by decide +kernel⟩

def feeding : State := recorded runRec (indexed 0x80000000 [] [aCursor])

theorem witness_CursorResults_feed : Cursors feeding aCursor := cursors_of _ _ (by decide +kernel) (engine_of (by decide +kernel))

theorem witness_CursorResults_fed : feeding.closed.RunAt (feeding.xr 10) [7, 8] :=
  run_of (runRec % 2 ^ 128) (7 + 2 ^ 32 * 8) (by decide +kernel)

theorem witness_CursorResults_roll :
    let at_ := fun (xs : List IxObj) (d : Cursor) => indexed 0x80000000 xs [d]
    let past := marked (some (0x40000000, 0)) (some 0x40000000)
    let short := marked (some (0x40000000, 1)) (some 0x40000000)
    let alone := marked none none
    (Cursors (at_ [] aCursor) aCursor ∧ aCursor.mark = none) ∧ (Cursors (at_ [] alone) alone ∧ alone.mark = some ⟨0, none, 3⟩) ∧
    (Cursors (at_ [] past) past ∧ objectOf (at_ [] past).closed 0x40000000 = none) ∧
    (Cursors (at_ [bareObject] short) short ∧ objectOf (at_ [bareObject] short).closed 0x40000000 = some bareObject ∧
      bareObject.tokens.length ≠ 1 + 3) ∧
    (Cursors (at_ [bareObject] past) past ∧ objectOf (at_ [bareObject] past).closed 0x40000000 = some bareObject ∧
      bareObject.tokens.length = 0 + 3 ∧ (at_ [bareObject] past).closed.HasStorage [bareObject] ∧
      damagedStorage (at_ [bareObject] past).closed bareObject = none) ∧
    objectOf (at_ [farObject] past).closed 0x40000000 = some farObject ∧
    (missingStorage (at_ [farObject] past).closed farObject).isSome = true ∧ (spoilt 0x80000000 [farObject] [past]).closed.HasStorage [farObject] ∧
    damagedStorage (spoilt 0x80000000 [farObject] [past]).closed farObject = some 0x70000 := by
  unfold State.HasStorage
  refine ⟨⟨cursors_of _ _ ?_ (engine_of ?_), ?_⟩, ⟨cursors_of _ _ ?_ (engine_of ?_), ?_⟩, ⟨cursors_of _ _ ?_ (engine_of ?_), ?_⟩,
    ⟨cursors_of _ _ ?_ (engine_of ?_), ?_⟩, ⟨cursors_of _ _ ?_ (engine_of ?_), ?_⟩, ?_⟩
  all_goals decide +kernel

/-- One chain of one token at page 6, for matches of at least one token. -/
def propRec : Nat := 0x60000 + 2 ^ 64 * (1 + 2 ^ 8 + 2 ^ 16)

theorem witness_ProposalAndAcceptance_propose :
    Cursors (recorded propRec (indexed 0x80000000 [bareObject] [linkedCursor])) linkedCursor ∧
    Record (recorded propRec (indexed 0x80000000 [bareObject] [linkedCursor])) 16 propRec ∧
    (1 ≤ field propRec 8 0 8 ∧ field propRec 8 0 8 ≤ 4 ∧ 1 ≤ field propRec 8 8 8 ∧ field propRec 8 8 8 ≤ 64 ∧ 1 ≤ field propRec 8 16 16 ∧
      field propRec 8 32 32 = 0) ∧ field propRec 0 0 4 = 0 ∧ ¬ 1 ≤ field (propRec - 2 ^ 64) 8 0 8 ∧ field (propRec + 1) 0 0 4 ≠ 0 ∧
    ∃ locs, (recorded propRec (indexed 0x80000000 [bareObject] [linkedCursor])).closed.reads (storePages (spanOf (field propRec 0 0 64) 1040)) = some locs :=
  ⟨cursors_of _ _ (by decide +kernel) (engine_of (by decide +kernel)), by decide +kernel, by decide +kernel, by decide +kernel,
    by decide +kernel, by decide +kernel, some_of (by decide +kernel)⟩

def accepting : State := indexed 0x80000000 [bareObject] [linkedCursor]

theorem witness_ProposalAndAcceptance_tokens : accepting.closed.TokensAt (accepting.xr 11) (List.replicate 260 0) := by
  refine ⟨by decide +kernel, ⟨0, by decide +kernel, fun i h => ?_⟩, fun t h => ?_⟩
  · rw [List.getElem_replicate]
    simp [field]
  · rw [List.eq_of_mem_replicate h]
    decide

theorem witness_ProposalAndAcceptance_accept : (List.replicate 260 (0 : Slot)).length = 260 ∧ Cursors accepting linkedCursor ∧
    aCursor.linked = none ∧ linkedCursor.linked = some 0x40000000 ∧ objectOf accepting.closed 0x40000000 = some bareObject ∧
    (bareObject.appended [0]).tokens.length ≤ bareObject.cap ∧ ({ fullObject with cap := 3 } : IxObj).cap < (fullObject.appended [0]).tokens.length ∧
    (accepting.closed.HasStorage [bareObject] ∧ damagedStorage accepting.closed bareObject = none) ∧
    (objectOf (indexed 0x80000000 [farObject] [linkedCursor]).closed 0x40000000 = some farObject ∧
      (missingStorage (indexed 0x80000000 [farObject] [linkedCursor]).closed farObject).isSome = true) ∧
    (spoilt 0x80000000 [farObject] [linkedCursor]).closed.HasStorage [farObject] ∧
    damagedStorage (spoilt 0x80000000 [farObject] [linkedCursor]).closed farObject = some 0x70000 := by
  unfold State.HasStorage
  exact ⟨by decide +kernel, cursors_of _ _ (by decide +kernel) (engine_of (by decide +kernel)), rfl, rfl, by decide +kernel⟩

/-- One row of four points for one task, its save area at page 6 and its completion word at page 7. -/
def launchRec : Nat := 1 + 2 ^ 32 + 2 ^ 48 + 2 ^ 64 * 4 + 2 ^ 512 * 0x60000 + 2 ^ 576 * 0x70000

theorem deps_none (r : Nat) (d : field r 0 8 8 = 0) (h : ∀ j, j < 4 → ∀ k, k < 3 → depOf r j k = 0) : LaunchDeps r :=
  ⟨fun j hj => absurd hj (by omega), fun j _ hj k hk => h j hj k hk⟩

def decFields (r c : Nat) : Decidable (LaunchFields r c) := by
  unfold LaunchFields leaseFits
  infer_instance

theorem witness_FrontierResults_launch : EngineReady (recorded launchRec lab) .front ∧ (lab.xr 1).toNat % 128 ≠ 0 ∧
    Record (recorded launchRec lab) 128 launchRec ∧ LaunchFields launchRec (recorded launchRec lab).hart.prio.toNat ∧ LaunchDeps launchRec ∧
    (∃ pages, (recorded launchRec lab).closed.reads (launchPages (spanOf (field launchRec 64 0 64) (320 + 16 * launchRows launchRec))) = some pages) ∧
    ((recorded launchRec lab).closed.reads (engineTranslate .store (field launchRec 72 0 64))).map (·.dev) = some false ∧
    (∀ l ∈ (recorded launchRec lab).closed.part.launches, l.handle.toNat % 2 ^ 8 ≠ 0) ∧
    freeTaskIds ((recorded launchRec lab).closed.accepts .front) (launchTasks launchRec) = some [1] :=
  ⟨engine_of (by decide +kernel), by decide +kernel, by decide +kernel, yes_of (decFields _ _) (by decide +kernel),
    deps_none _ (by decide +kernel) (by decide +kernel), some_of (by decide +kernel), by decide +kernel, (fun _ h => by cases h), by decide +kernel⟩

/-- No dimension; a vector that points nowhere; a completion word in the page of a device. -/
theorem witness_FrontierResults_launch_refused : ¬ LaunchFields (launchRec - 1) 3 ∧ LaunchFields (launchRec + 2 ^ 256) 0 ∧
    ¬ LaunchDeps (launchRec + 2 ^ 256) ∧
    ((lab.pokeWord 0x20040 0xA02C7).closed.reads (engineTranslate .store 0x80000)).map (·.dev) = some true := by
  refine ⟨no_of (decFields _ _) (by decide +kernel), yes_of (decFields _ _) (by decide +kernel), fun h => ?_, by decide +kernel⟩
  exact absurd (h.2 0 (by decide +kernel) (by decide) 0 (by decide)) (by decide +kernel)

theorem witness_FrontierResults_no_task : freeTaskIds ((crowded lab).closed.accepts .front) 1 = none := by
  unfold freeTaskIds
  rw [if_neg]
  intro h
  have : (hartsOf ((crowded lab).closed.accepts .front)).length = 4097 := by decide +kernel
  rw [this] at h
  exact absurd h.2 (by decide)

/-- A launch whose only task is the control hart. -/
def aLaunch : Launch := launchOf launchRec 0xC0000000 ⟨.front, 0x10000, .supervisor, 0, 0, 0, 0⟩ [(0x80000, 336)] ⟨0x90000, none⟩ [0]

def launched (l : Launch) : State := setX 9 0xC0000000 { lab with part := { lab.part with launches := [l] } }

def Launches (l : Launch) (p : State → Launch → Bool) : Prop :=
  EngineReady (launched l) .front ∧ (launched l).isSuper ∧ (launched l).closed.launchNamed ((launched l).xr 9) = some l ∧ p (launched l).closed l = true

theorem launches_of {l : Launch} {p : State → Launch → Bool}
    (h : decide ((launched l).closed.launchNamed ((launched l).xr 9) = some l ∧ p (launched l).closed l = true) = true)
    (r : EngineReady (launched l) .front) : Launches l p :=
  ⟨r, rfl, (of_decide_eq_true h).1, (of_decide_eq_true h).2⟩

/-- A launch in a state, with its task as it is. -/
def inState (st : LaunchState) (t : Task) : Launch := { aLaunch with
  state := st
  tasks := [t] }

def idle (s : State) (l : Launch) : Bool := s.taskNamed l == some ⟨0, none, false⟩
def holds0 (s : State) (l : Launch) : Bool := s.taskNamed l == some ⟨0, some 0, false⟩ && (l.unpack 0 == some ⟨0, 0, 0⟩)

theorem witness_FrontierResults_points : aLaunch.firstReady = some ⟨0, 0, 0⟩ ∧ aLaunch.unpack (lab.xr 7) = none ∧
    aLaunch.unpack (lab.xr 8) = some ⟨0, 0, 0⟩ ∧ aLaunch.over = false ∧ waitingNext (launched aLaunch).closed aLaunch = [] ∧
    ({ aLaunch with rows := [(4, 0)] } : Launch).over = true := by decide +kernel

theorem witness_FrontierResults_handles : EngineReady lab .front ∧ lab.closed.launchNamed (lab.xr 9) = none ∧
    Launches { aLaunch with tasks := [] } (fun s l => s.taskNamed l == none) ∧
    Launches (inState .saved ⟨0, some 0, false⟩) holds0 ∧ Launches aLaunch idle ∧ Launches (inState .running ⟨0, some 0, false⟩) holds0 ∧
    Launches { aLaunch with rows := [(4, 0)] } (fun s l => idle s l && l.over) ∧
    Launches { aLaunch with tasks := [⟨0, none, false⟩, ⟨5, some 0, false⟩] } (fun s l => idle s l && !l.over) ∧
    Launches (inState .saving ⟨0, none, false⟩) idle ∧ Launches (inState .parked ⟨0, none, false⟩) idle ∧
    Launches (inState .done ⟨0, none, false⟩) idle := by
  refine ⟨engine_of (by decide +kernel), by decide +kernel, launches_of (by decide +kernel) (engine_of (by decide +kernel)),
    launches_of (by decide +kernel) (engine_of (by decide +kernel)), launches_of (by decide +kernel) (engine_of (by decide +kernel)),
    launches_of (by decide +kernel) (engine_of (by decide +kernel)), launches_of (by decide +kernel) (engine_of (by decide +kernel)),
    launches_of (by decide +kernel) (engine_of (by decide +kernel)), launches_of (by decide +kernel) (engine_of (by decide +kernel)),
    launches_of (by decide +kernel) (engine_of (by decide +kernel)), launches_of (by decide +kernel) (engine_of (by decide +kernel))⟩

theorem witness_FrontierResults_wait : Launches { aLaunch with
    ext := (100, 0, 0)
    tasks := [⟨0, none, false⟩, ⟨5, some 0, false⟩]
    rows := [(0, 0xFFFFFFFFFFFFFFFE)] } (fun s l => idle s l && !l.over && l.firstReady == none) :=
  launches_of (by decide +kernel) (engine_of (by decide +kernel))

theorem witness_FrontierResults_point_states : PointDone { aLaunch with rows := [(1, 0)] } ⟨0, 0, 0⟩ ∧ ¬ PointDone aLaunch ⟨0, 0, 0⟩ ∧
    PointHeld (inState .running ⟨0, some 0, false⟩) ⟨0, 0, 0⟩ ∧ ¬ PointHeld aLaunch ⟨0, 0, 0⟩ := by
  unfold PointDone PointHeld
  refine ⟨by decide +kernel, by decide +kernel, ⟨⟨0, some 0, false⟩, by decide +kernel⟩, ?_⟩
  rintro ⟨t, ht, h⟩
  rw [show aLaunch.tasks = [⟨0, none, false⟩] by decide +kernel] at ht
  cases List.mem_singleton.mp ht
  cases h

def savedLaunch : Launch := inState .saved ⟨0, none, false⟩
def areaWritten : State := (launched savedLaunch).poke 0x80000 savedLaunch.area

/-- The bytes of the save area, as FRESUME reads them. -/
def areaRead (s : State) : List Byte := (s.closed.reads (readPages savedLaunch.saveVa.toNat savedLaunch.savePages)).getD []

/-- An area as it was written is one that FRESUME loads. -/
theorem area_resumes : ∃ k, AreaOk savedLaunch (areaRead areaWritten) k := by
  refine ⟨_, rfl, by decide +kernel, by decide +kernel, by decide +kernel, by decide +kernel, fun t ht v p hv => ?_⟩
  have e : savedLaunch.tasks = [⟨0, none, false⟩] := by decide +kernel
  rw [e] at ht
  cases List.mem_singleton.mp ht
  cases hv

/-- A saved launch whose area is as it was written, and one whose area is empty. -/
theorem witness_FrontierResults_resume : areaWritten.closed.launchNamed (areaWritten.xr 9) = some savedLaunch ∧
    areaWritten.closed.reads (readPages savedLaunch.saveVa.toNat savedLaunch.savePages) = some (areaRead areaWritten) ∧
    (∃ k, AreaOk savedLaunch (areaRead areaWritten) k) ∧
    (launched savedLaunch).closed.reads (readPages savedLaunch.saveVa.toNat savedLaunch.savePages) = some (areaRead (launched savedLaunch)) ∧
    ∀ k, ¬ AreaOk savedLaunch (areaRead (launched savedLaunch)) k :=
  ⟨by decide +kernel, by decide +kernel, area_resumes, by decide +kernel, fun k h => absurd h.names.1 (by decide +kernel)⟩

/-- The save area of a launch has a page here, or on another device. -/
theorem witness_FrontierResults_area : aLaunch.savePages = (0x80000, 336) :: [] ∧ isRemote (0x80000 + 6) = false ∧
    ({ aLaunch with savePages := [(0x800000080000, 336)] } : Launch).savePages = (0x800000080000, 336) :: [] ∧
    isRemote (0x800000080000 + 6) = true := ⟨rfl, by decide, rfl, by decide⟩

/-- Every point done: with its task there, and with it ended. -/
def finished (ended : Bool) : Launch := { inState .running ⟨0, none, ended⟩ with rows := [(4, 0)] }

theorem witness_FrontierResults_settle : (launched (finished false)).launchOf (finished false).handle = some (finished false) ∧
    (completeLaunch (finished false) (launched (finished false))).launchOf (finished false).handle =
      some { finished false with state := .done, wordWritten := true } ∧
    (completeLaunch (finished true) (launched (finished true))).launchOf (finished true).handle =
      some { finished true with state := .done, wordWritten := true } ∧
    (launched aLaunch).launchOf aLaunch.handle = some aLaunch ∧
    (dismissFnext (inState .cancelling ⟨0, some 0, false⟩) (launched (inState .cancelling ⟨0, some 0, false⟩))).launchOf aLaunch.handle =
      some (inState .cancelling ⟨0, some 0, false⟩) := by decide +kernel

/-- The partition controls job 7, and is of it, with a save area of the size its packets need, in a state of the job. -/
def switching (st : JobState) (size : Nat) (r : Nat) : State :=
  let s := recorded r lab
  { s with
    part := { s.part with
      cfg := { s.part.cfg with
        ctrlTags := [7]
        job := 7
        saveSize := size
        jobNodes := [(7, [⟨1, 0x40000, size, 0⟩])] } }
    dev := { s.dev with jobs := [{ Job.fresh 7 with state := st }] } }

def switchRec : Nat := 7 + 2 ^ 64 * 0x60000

def decSwitch (s : State) (r : Nat) : Decidable (SwitchRecordOk s r) := by
  unfold SwitchRecordOk
  infer_instance

/-- The record of a switch is good, and its job is in a state. -/
def Switches (st : JobState) : Prop :=
  EngineReady (switching st 400000 switchRec) .fab ∧ (switching st 400000 switchRec).isSuper ∧ Record (switching st 400000 switchRec) 32 switchRec ∧
    SwitchRecordOk (switching st 400000 switchRec).closed switchRec ∧ ((switching st 400000 switchRec).closed.job 7).state = st ∧
    (∃ loc, (switching st 400000 switchRec).closed.reads (engineTranslate .store (field switchRec 8 0 64)) = some loc) ∧
    ((jobPart (switching st 400000 switchRec).closed 7).all fun q => decide (64 + 384 * (1024 + q.cfg.lateCap) ≤ q.cfg.saveSize)) = true ∧
    (jobDevices (switching st 400000 switchRec).closed 7).all (fun d => decide (64 + 384 * (1024 + d.lateCap) ≤ d.saveSize)) = true

theorem switches (st : JobState) : Switches st := by
  unfold Switches Record
  cases st <;>
    exact ⟨engine_of (by decide +kernel), rfl, by decide +kernel, yes_of (decSwitch _ _) (by decide +kernel), by decide +kernel,
      some_of (by decide +kernel), by decide +kernel⟩

theorem witness_GangSwitchInstructions : ∀ st, Switches st := switches

/-- The other device of the job has no save area. -/
def smallSave : State :=
  let s := switching .running 400000 switchRec
  { s with part := { s.part with cfg := { s.part.cfg with jobNodes := [(7, [⟨1, 0x40000, 0, 0⟩])] } } }

theorem witness_GangSwitchInstructions_refused : (lab.xr 1).toNat % 32 ≠ 0 ∧
    (switching .running 0 (switchRec + 2 ^ 64)).closed.recordAt 0x50000 32 = some (switchRec + 2 ^ 64) ∧ field (switchRec + 2 ^ 64) 8 0 64 % 8 ≠ 0 ∧
    field 7 8 0 64 = 0 ∧ ¬ SwitchRecordOk (switching .running 0 switchRec).closed (switchRec + 1) ∧
    SwitchRecordOk (switching .running 0 switchRec).closed switchRec ∧
    ((jobPart (switching .running 0 switchRec).closed 7).any fun q => !decide (64 + 384 * (1024 + q.cfg.lateCap) ≤ q.cfg.saveSize)) = true ∧
    jobDevices smallSave.closed 7 = [] ++ ⟨1, 0x40000, 0, 0⟩ :: [] ∧ ¬ 64 + 384 * (1024 + 0) ≤ 0 ∧
    ((jobPart smallSave.closed 7).all fun q => decide (64 + 384 * (1024 + q.cfg.lateCap) ≤ q.cfg.saveSize)) = true :=
  ⟨by decide +kernel, by decide +kernel, by decide +kernel, by decide +kernel, no_of (decSwitch _ _) (by decide +kernel),
    yes_of (decSwitch _ _) (by decide +kernel), by decide +kernel⟩

/-- The job of a switch and of a return has a partition here. -/
theorem witness_GangSwitchInstructions_work : (jobPart (switching .running 0 0) (Job.fresh 7).tag).isSome = true ∧
    (let v := ((switching .out 0 0).setJob { Job.fresh 7 with state := .resuming })
     jobPart v 7).isSome = true := by decide +kernel

/-- x9 holds a tag of the partition; x6 holds one of another. -/
theorem witness_GangSwitchInstructions_fbstat : EngineReady (setX 9 7 (switching .out 0 0)) .fab ∧
    ¬ ((setX 9 7 (switching .out 0 0)).xr 6 = 7) ∧ ((5 : BitVec 16) ∉ (switching .out 0 0).closed.part.cfg.ctrlTags) ∧
    (switching .out 0 0).closed.part.cfg.job ≠ 5 ∧
    ((setX 9 7 (switching .out 0 0)).xr 9).toNat < 2 ^ 16 ∧ (7 : BitVec 16) ∈ (switching .out 0 0).closed.part.cfg.ctrlTags ∧
    ((switching .out 0 0).closed.job 7).state ∉ [JobState.running, .switching] ∧
    ((switching .running 0 0).closed.job 7).state ∈ [JobState.running, .switching] ∧ 4 < (lab.xr 6).toNat :=
  ⟨engine_of (by decide +kernel), by decide +kernel⟩

/-- A launch that goes with its last task, one that does not, and one that is no more. -/
theorem witness_FrontierResults_free :
    (let l := { finished true with wordWritten := true };
      (launched l).launchOf l.handle = some l ∧ l.wordWritten = true ∧ l.tasks.all (·.ended) = true) ∧
    (launched aLaunch).launchOf aLaunch.handle = some aLaunch ∧ aLaunch.wordWritten = false ∧ lab.launchOf aLaunch.handle = none := by
  decide +kernel

/-- The saved-by byte of a parked launch is written here, and on another device. -/
theorem witness_FrontierResults_parked :
    let parked := inState .parked ⟨0, none, false⟩
    let far := { parked with savePages := [(0x800000080000, 336)] }
    owed (parkedToSaved parked ((launched parked).closed.accepts .front)) parked.by_ = false ∧
    owed (parkedToSaved far ((launched far).closed.accepts .front)) far.by_ = true := by decide +kernel

/-- The pre-emption of the job's partition is in progress. -/
def leavingJob : State := { switching .running 400000 switchRec with
  harts := [{ bootHart with
    id := 1
    preempt := some .managed }] }

theorem witness_GangSwitchInstructions_leaving : EngineReady leavingJob .fab ∧ jobLeaves leavingJob.closed 7 = true ∧
    jobLeaves (switching .running 400000 switchRec).closed 7 = false ∧ jobLeaves (switching .out 400000 switchRec).closed 7 = false :=
  ⟨engine_of (by decide +kernel), by decide +kernel⟩

/-- A packet of a job for this device, for another through an input, and of an egress queue. -/
def sweptPacket (p : PortRef) (dst : BitVec 16) : Swept := ⟨p, { packet with
  job := 7
  dst := dst }⟩

/-- An input full on VC 0, one with room, and a full egress queue. -/
def fullPorts : State :=
  let s := switching .resuming 0 0
  { s with dev := { s.dev with
    ports := [{ ref := ⟨0, 1⟩, up := true, credits := #v[6, 6, 6], buffer := List.replicate 6 packet },
      { ref := ⟨0, 11⟩, up := true, credits := #v[8, 8, 8], buffer := List.replicate 7 packet }]
    egress := List.replicate 16 (1, packet)
    jobs := [{ Job.fresh 7 with
      state := .resuming
      stopped := true }] } }

theorem witness_GangSwitchInstructions_rooms :
    (hasRoom fullPorts (sweptPacket ⟨0, 1⟩ 0) = true ∧ hasRoom fullPorts (sweptPacket ⟨0, 1⟩ 3) = false ∧
      hasRoom fullPorts (sweptPacket ⟨0, 11⟩ 3) = true ∧ hasRoom fullPorts (sweptPacket ⟨0, 10⟩ 3) = true ∧
      hasRoom fullPorts (sweptPacket ⟨1, 10⟩ 3) = false ∧ (fullPorts.portOf ⟨0, 1⟩).isSome = true) ∧
    (waitsBehind (sweptPacket ⟨0, 1⟩ 3) (sweptPacket ⟨0, 2⟩ 3) = true ∧ waitsBehind (sweptPacket ⟨0, 1⟩ 3) (sweptPacket ⟨1, 1⟩ 3) = false) ∧
    fullPorts.dev.node = 0 := by decide +kernel

/-- All packets of a job have entered, some have not, or the job is not RESUMING. -/
theorem witness_GangSwitchInstructions_readmitted :
    ((fullPorts.job 7).state = .resuming ∧ (fullPorts.job 7).stopped = true ∧ fullPorts.dev.entering = []) ∧
    (jobPart (fullPorts.setJob { fullPorts.job 7 with
      stopped := false
      marked := [] }) 7).isSome = true ∧
    ((switching .running 0 0).job 7).state ≠ .resuming ∧
    jobPart (lab.setJob { Job.fresh 9 with
      state := .resuming
      back := [] }) 9 = none := by decide +kernel

/-! ## Events -/

/-- The hart 0 of partition 0 as an event finds it, and as the issuing hart. -/
def meet (s : State) (p : Hart → State → Bool) : Bool :=
  match s.findHart 0 0 with
  | some h => match s.focusHart h.pid h.id with
    | some t => p h t
    | none => false
  | none => false

theorem meets_of {s : State} {p : Hart → State → Bool} (h : meet s p = true) :
    ∃ g t, s.findHart 0 0 = some g ∧ s.focusHart g.pid g.id = some t ∧ p g t = true := by
  unfold meet at h
  split at h
  next g hg =>
    split at h
    next t ht => exact ⟨g, t, hg, ht, h⟩
    next => cases h
  next => cases h

def waitingFor (w : Wait) (s : State) : State := hartAt s fun h => { h with status := .waiting w }

def waitsFor (w : Wait) (h : Hart) (_ : State) : Bool := h.status == .waiting w

theorem witness_HartEventResults_absent : lab.findHart 0 5 = none ∧ (FetchCause.uncor, Cause.uncor) ∈ [(FetchCause.page, Cause.page), (.prot, .prot), (.uncor, .uncor)] := by
  decide +kernel

theorem witness_HartEventResults_queue : meet (waitingFor (.queue .copy) lab) (waitsFor (.queue .copy)) = true := by decide +kernel

/-- A request at a commit point, one within a strip, one while an atomic is in flight, and none. -/
theorem witness_HartEventResults_preemption :
    meet (hartAt State.reset.boot fun h => { h with preempt := some .slot }) (fun h _ => h.preempt == some .slot && h.status == .ready &&
      h.live == h.ckpt && h.mortar == [] && h.pending == 0) = true ∧
    meet asked (fun h _ => h.preempt == some .slot && h.live != h.ckpt && h.status == .ready) = true ∧
    meet (waitingFor (.atomic farKey 8 9) asked) (fun h _ => h.preempt == some .slot && h.status == .waiting (.atomic farKey 8 9)) = true ∧
    meet lab (fun h _ => h.preempt == none) = true := by decide +kernel

/-- The control hart holds a slot and another, of a higher priority, needs every brick of the hall. -/
def crowdedHall : State := { lab with
  part := { lab.part with
    gangs := [bootGang, { bootGang with
      id := 1
      min := 12
      pref := 12
      prio := 3
      age := 1 }] }
  harts := [{ bootHart with
    id := 1
    gang := 1
    gkey := 1
    prio := 3
    slot := none
    status := .off .slot }] }

theorem witness_HartEventResults_eviction : meet crowdedHall (fun h _ => h.slot.isSome && h.share crowdedHall == 0 &&
    crowdedHall.allHarts.all (fun g => (g.pid == h.pid && g.id == h.id) || g.hall != h.hall || !g.isLive || g.slot == none || outranks crowdedHall g h) &&
    crowdedHall.allHarts.any (fun g => g.hall == h.hall && g.isLive && !(g.pid == h.pid && g.id == h.id) && g.status == .off .slot &&
      decide (0 < g.share crowdedHall) && outranks crowdedHall g h)) = true ∧
    meet lab (fun h _ => h.share lab != 0) = true := by decide +kernel

/-- A hart that holds two bricks and prefers one. -/
def overfull : State := hartAt lab fun h => { h with grant := [(0, 0), (0, 1)] }

theorem witness_HartEventResults_shrink : meet overfull (fun h _ => h.share overfull != 0 && decide ((h.keeps overfull).length < h.grant.length) &&
    (membersOf overfull h.pid h.gkey).all (fun g => g.status == .ready)) = true ∧
    meet lab (fun h _ => decide (h.grant.length ≤ (h.keeps lab).length)) = true := by decide +kernel

theorem witness_HartEventResults_grant :
    meet (waitingFor .grant lab) (fun h t => h.status == .waiting .grant && (takeGrant t).2) = true ∧
    meet (waitingFor .grant starved) (fun h t => h.status == .waiting .grant && !(takeGrant t).2) = true ∧
    meet lab (fun h _ => h.status == .ready) = true := by decide +kernel

def timed (s : State) : State := hartAt s fun h => { h with wtime := 5 }

/-- A location that changed, one that did not, a damaged one and one in another device, with and without a time-out. -/
theorem witness_HartEventResults_value :
    meet (waitingFor (.value 0x30008 8 7 9) lab) (fun h t => waitsFor (.value 0x30008 8 7 9) h t && !isRemote 0x30008 && !t.damagedAt 0x30008 8 &&
      t.peekNat 0x30008 8 != 7 && t.hart.wtime == 0) = true ∧
    meet (waitingFor (.value 0x30008 8 0 9) (timed lab)) (fun h t => waitsFor (.value 0x30008 8 0 9) h t && !isRemote 0x30008 &&
      !t.damagedAt 0x30008 8 && t.peekNat 0x30008 8 == 0 && t.hart.wtime != 0) = true ∧
    meet (waitingFor (.value 0x30008 8 0 9) (timed worn)) (fun h t => waitsFor (.value 0x30008 8 0 9) h t && t.damagedAt 0x30008 8 &&
      t.hart.wtime != 0) = true ∧
    meet (waitingFor (.value farKey 8 0 9) (timed lab)) (fun h t => waitsFor (.value farKey 8 0 9) h t && isRemote farKey && t.hart.wtime != 0) =
      true := by decide +kernel

theorem witness_HartEventResults_halt :
    meet (waitingFor (.halt 0) { lab with part := { lab.part with posted := 1 } }) (fun h t => waitsFor (.halt 0) h t && decide (0 < t.part.posted)) = true ∧
    meet (waitingFor (.halt 0) (timed lab)) (fun h t => waitsFor (.halt 0) h t && decide (t.part.posted ≤ 0) && t.hart.wtime != 0) = true ∧
    meet (waitingFor (.halt 0) lab) (fun h t => waitsFor (.halt 0) h t && t.hart.wtime == 0) = true := by decide +kernel

theorem witness_HartEventResults_tlbinv :
    meet (waitingFor .tlbinv holder) (fun h t => waitsFor .tlbinv h t && t.harts.any (fun g => g.pid == t.hart.pid && g.isLive && g.stale)) = true ∧
    meet (waitingFor .tlbinv lab) (fun h t => waitsFor .tlbinv h t && t.harts.all (fun g => !g.stale)) = true ∧
    meet (waitingFor (.curatt 9 3) lab) (waitsFor (.curatt 9 3)) = true := by decide +kernel

/-- A request meets a hart in each of its states; a hart in flight, and one that has ended, are not cut back. -/
theorem witness_HartEventResults_requests : lab.hart.status = .ready ∧ (waitingFor (.ending 3) lab).hart.status = .waiting (.ending 3) ∧
    (waitingFor .grant lab).hart.status = .waiting .grant ∧ (hartAt lab fun h => { h with status := .held }).hart.status = .held ∧
    (hartAt lab fun h => { h with status := .off .slot }).hart.status = .off .slot ∧ Off.slot.rank < Off.managed.rank ∧
    Off.bricks.rank ≤ Off.slot.rank ∧ (hartAt lab fun h => { h with status := .ended }).hart.isLive = false ∧
    (hartAt lab fun h => { h with status := .ended }).hart.InFlight ∧ (waitingFor (.atomic farKey 8 9) lab).hart.InFlight ∧ ¬ lab.hart.InFlight ∧
    (lab.focusPart 0).isSome = true ∧ lab.hart.AtCommit = (lab.hart.live = lab.hart.ckpt ∧ lab.hart.mortar = [] ∧ lab.hart.pending = 0) := by
  refine ⟨rfl, rfl, rfl, rfl, rfl, by decide, by decide, by decide +kernel, .inr (.inr (by decide +kernel)), .inl ⟨_, _, _, rfl⟩, ?_,
    by decide +kernel, rfl⟩
  rintro (⟨_, _, _, h⟩ | ⟨_, h⟩ | h)
  · cases h
  · cases h
  · exact absurd h (by decide +kernel)

/-- A gang switch that waits for the pre-emption of its partition, in progress and over; a request of the arbiters finds a load of another
device on its way, and a hart that awaits acknowledgements with stores still to send. -/
theorem witness_HartEventResults_leaving :
    (meet (waitingFor (.leaving 7) leavingJob) (waitsFor (.leaving 7)) = true ∧ jobLeaves (waitingFor (.leaving 7) leavingJob) 7 = true) ∧
    (meet (waitingFor (.leaving 7) lab) (waitsFor (.leaving 7)) = true ∧ jobLeaves (waitingFor (.leaving 7) lab) 7 = false) ∧
    (waitingFor (.remote farKey 8) lab).hart.status = .waiting (.remote farKey 8) ∧
    ((waitingFor .acks (hartAt lab fun h => { h with outgoing := [⟨0x30008, farKey, [1], none⟩] })).hart.outgoing ≠ []) ∧
    meet lab (fun h _ => decide (h.grant.length ≤ (h.keeps lab).length) || h.share lab == 0) = true := by decide +kernel

/-- The partition 0 of an event. -/
def part0 (s : State) (p : State → Bool) : Bool := (s.focusPart 0).any p

theorem part0_spec {s : State} {p : State → Bool} (h : part0 s p = true) : ∃ t, s.focusPart 0 = some t ∧ p t = true := by
  unfold part0 at h
  cases e : s.focusPart 0 with
  | none => rw [e] at h; cases h
  | some t => rw [e] at h; exact ⟨t, rfl, h⟩

def translatedCopy (status : BitVec 8) : Copy := { aCopy 0 .running status 0 with
  srcMap := [(6, 0x80000)]
  dstMap := [(7, 0x90000)] }

theorem witness_EngineEventResults_copies : lab.focusPart 5 = none ∧
    part0 (copying [translatedCopy 0]) (fun t => (copyOf t 0x80000000).any fun k => k.state == .running && k.status == 0 && k.chunks == 1 && !copyEnding t k &&
      k.done == [] && k.failed == [] && (k.srcKeys 0).all fun a => !t.damagedAt a 1) = true ∧
    part0 { copying [translatedCopy 0] with dev := { lab.dev with damaged := [0x80000 / 8] } } (fun t => (copyOf t 0x80000000).any fun k =>
      k.state == .running && k.status == 0 && k.done == [] && k.failed == [] && (k.srcKeys 0).any fun a => t.damagedAt a 1) = true ∧
    part0 (copying [translatedCopy 0x60]) (fun t => (copyOf t 0x80000000).any fun k => k.state == .running && k.status != 0 && !copyEnding t k) = true ∧
    part0 (copying [{ translatedCopy 0 with bytes := 0 }]) (fun t => (copyOf t 0x80000000).any fun k => k.state == .running && k.status == 0 &&
      k.chunks == 0 && !copyEnding t k) = true ∧
    part0 (copying [aCopy 0 .complete 0 0]) (fun t => (copyOf t 0x80000000).any fun k => k.state != .running) = true := by decide +kernel

/-- The promotion of block 3 from a place in memory. -/
def aPromotion (far : Word) (crc : Slot) : Promotion :=
  { id := 3
    by_ := ⟨.blk, 0x10000, .supervisor, 0, 0, 0, 0⟩
    epoch := 0
    asked := none
    reply := []
    refused := []
    recVa := 0x60000
    far := far
    crc := crc
    cword := 0x70000
    cval := 1 }

/-- What a promotion does before it compares its check value. -/
def moved (pr : Promotion) : E (List Byte) := do
  metaReady pr.id
  let s ← get
  let bs ← engineLoad pr.by_ pr.far.toNat (2 ^ poolLog s.part)
  engineSave (poolIssuer s.part pr.by_) (blockVa s.part pr.id) bs
  pure bs

theorem promote_moved {pr : Promotion} {t u : State} {bs : List Byte} (h : moved pr t = .ok bs u) : promote pr t = .ok (crc32c bs == pr.crc) u := by
  have e : promote pr t = ((moved pr).map fun bs => crc32c bs == pr.crc) t := by
    unfold promote moved
    simp only [EStateM.map, bind, EStateM.bind, get, getThe, MonadStateOf.get, EStateM.get, pure, EStateM.pure]
    cases metaReady pr.id t with
    | error c s => rfl
    | ok x s =>
      dsimp only
      cases engineLoad pr.by_ pr.far.toNat (2 ^ poolLog s.part) s with
      | error c s => rfl
      | ok b w =>
        dsimp only
        cases engineSave (poolIssuer s.part pr.by_) (blockVa s.part pr.id) b w <;> rfl
  rw [e]
  simp only [EStateM.map, h]

def promoting (pr : Promotion) : State := { pool with part := { pool.part with promotions := [pr] } }

def isAwait (e : EStop) : Bool :=
  match e with
  | .await _ _ => true
  | _ => false

theorem status_spec {α : Type} {r : EStateM.Result EStop State α} (h : stopped r (fun e => match e with | .status _ => true | _ => false) = true) :
    ∃ c u, r = .error (.status c) u := by
  obtain ⟨e, u, h, k⟩ := stopped_spec h
  cases e with
  | status c => exact ⟨c, u, h⟩
  | _ => cases k

theorem await_spec {α : Type} {r : EStateM.Result EStop State α} (h : stopped r isAwait = true) : ∃ k n u, r = .error (.await k n) u := by
  obtain ⟨e, u, h, a⟩ := stopped_spec h
  cases e with
  | await k n => exact ⟨k, n, u, h⟩
  | _ => cases a

/-- The check value of a promotion fits what it moved, or does not; or its source cannot be read, or lies on another device. -/
theorem witness_EngineEventResults_promotions :
    (∃ c u, promote (aPromotion 0x60000 c) (promoting (aPromotion 0x60000 0)) = .ok true u) ∧
    (∃ c u, promote (aPromotion 0x60000 c) (promoting (aPromotion 0x60000 0)) = .ok false u) ∧
    (∃ c u, promote (aPromotion 0x400000 0) (promoting (aPromotion 0x400000 0)) = .error (.status c) u) ∧
    (∃ k n u, promote (aPromotion 0x30000 0) (promoting (aPromotion 0x30000 0)) = .error (.await k n) u) ∧
    (aPromotion 0 0).asked = none ∧ ({ aPromotion 0 0 with asked := some 3 } : Promotion).asked ≠ none ∧
    ∀ far c, part0 (promoting (aPromotion far c)) (fun t => (t.part.promotions.find? (fun x => decide (x.id = (3 : Slot).toNat))).isSome) = true := by
  obtain ⟨bs, u, h⟩ := ends_of (r := moved (aPromotion 0x60000 0) (promoting (aPromotion 0x60000 0))) (by decide +kernel)
  refine ⟨⟨crc32c bs, u, ?_⟩, ⟨crc32c bs + 1, u, ?_⟩, status_spec (by decide +kernel), await_spec (by decide +kernel), rfl, by decide, fun _ _ => rfl⟩
  · have g : moved (aPromotion 0x60000 (crc32c bs)) (promoting (aPromotion 0x60000 0)) = .ok bs u := h
    rw [promote_moved g]
    simp [aPromotion]
  · have g : moved (aPromotion 0x60000 (crc32c bs + 1)) (promoting (aPromotion 0x60000 0)) = .ok bs u := h
    rw [promote_moved g]
    have : (crc32c bs == (aPromotion 0x60000 (crc32c bs + 1)).crc) = false := by
      rw [beq_eq_false_iff_ne]
      change crc32c bs ≠ crc32c bs + 1
      bv_omega
    rw [this]

/-- A completion word here, on another device, and at an address without a page. -/
theorem witness_EngineEventResults_word :
    (match engineXlate lab (aPromotion 0 0).by_ .store 0x70000 with | .ok loc => !isRemote loc.key | .error _ => false) = true ∧
    (match engineXlate lab (aPromotion 0 0).by_ .store 0x30000 with | .ok loc => isRemote loc.key | .error _ => false) = true ∧
    (match engineXlate lab (aPromotion 0 0).by_ .store 0x400000 with | .ok _ => false | .error _ => true) = true := by decide +kernel

/-- The control hart waits in a FNEXT of the launch. -/
def serving (l : Launch) : State := waitingFor (.fnext 0xC0000000 9) { lab with part := { lab.part with launches := [{ l with waiting := [0] }] } }

theorem witness_EngineEventResults_launches :
    part0 (launched aLaunch) (fun t => (t.launchOf 0xC0000000).any fun l => waitingNext t l == []) = true ∧
    part0 (serving aLaunch) (fun t => (t.launchOf 0xC0000000).any fun l => waitingNext t l == [0] && !l.over && l.firstReady.isSome) = true ∧
    part0 (serving { aLaunch with rows := [(4, 0)] }) (fun t => (t.launchOf 0xC0000000).any fun l => waitingNext t l == [0] && l.over) = true ∧
    part0 (serving { aLaunch with
      ext := (100, 0, 0)
      tasks := [⟨0, none, false⟩, ⟨5, some 0, false⟩]
      rows := [(0, 0xFFFFFFFFFFFFFFFE)] }) (fun t => (t.launchOf 0xC0000000).any fun l => waitingNext t l == [0] && !l.over && l.firstReady == none) =
        true ∧
    part0 (hartAt (launched (inState .saving ⟨0, none, false⟩)) fun h => { h with
      status := .off (.launch 0xC0000000)
      slot := none }) (fun t => (t.launchOf 0xC0000000).any fun l => l.state == .saving && tasksOff t l) = true := by decide +kernel

/-- A launch of priority 0 holds the slot that a task of a launch of priority 2 needs. -/
def outbid : State := { lab with
  part := { lab.part with
    launches := [aLaunch, { aLaunch with
      handle := 0xC0000001
      prio := 2
      tasks := [⟨1, none, false⟩] }]
    gangs := [bootGang, { bootGang with
      id := 1
      prio := 2
      age := 1 }] }
  harts := [{ bootHart with
    id := 1
    gang := 1
    gkey := 1
    prio := 2
    slot := none
    status := .off .slot }] }

theorem witness_EngineEventResults_park : part0 outbid (fun t => (parkChoice t).any fun l => l.handle == 0xC0000000) = true := by decide +kernel

def aCompaction (table : Word) : Compaction :=
  { by_ := ⟨.blk, 0x10000, .supervisor, 0, 0, 0, 0⟩
    epoch := 0
    recVa := 0x60000
    table := table
    p0 := 0
    stride := 1
    chain := 0
    chains := 1
    accepted := 0
    cword := 0x70000
    cval := 1
    status := 0 }

def compacting (table : Word) : State := { pool with part := { pool.part with compactions := [aCompaction table] } }

theorem witness_EngineEventResults_partition : part0 lab (fun t => t.part.compactions == [] && t.part.reclaim == none) = true ∧
    part0 (compacting 0x60000) (fun t => t.part.compactions == [aCompaction 0x60000]) = true ∧
    part0 reclaiming (fun t => t.part.reclaim == some (Issuer.none, []) && enginesPassed t) = true ∧
    part0 { reclaiming with part := { reclaiming.part with epoch := 1, copies := [translatedCopy 0] } } (fun t => !enginesPassed t) = true := by decide +kernel

def holding (s : State) (w : Hold) : State := hartAt s fun h => { h with hold := some w }

/-- A write of an engine's command, sent to another device and not acknowledged. -/
def unacked (b : Issuer) (s : State) : State := { s with dev := { s.dev with
  outstanding := [{ num := 0
                    pid := 0
                    key := farKey
                    job := 0
                    node := 5
                    kind := 3
                    addr := 0
                    from_ := .engine b none }] } }

theorem witness_EngineEventResults_holds :
    ((holding lab .storage).findHart 0 0).any (fun h => h.hold == some .storage) = true ∧
    ((holding lab (.output [(0x80000, [1])])).findHart 0 0).any (fun h => h.hold == some (.output [(0x80000, [1])])) = true := by decide +kernel

/-- The copy of a BCOW is performed, or not yet, and has gone well or has met a fault. -/
theorem witness_EngineEventResults_cow :
    let cow := fun (c : BitVec 8) => holding lab (.cow 7 0 0 c)
    let mine := fun (t : State) => { t.issuer .blk 0 with
      mode := .user
      root := 0 }
    meet (cow 0) (fun _ t => t.hart.hold == some (.cow 7 0 0 0) && !owed t (mine t)) = true ∧
    meet (cow 0x66) (fun _ t => t.hart.hold == some (.cow 7 0 0 0x66) && !owed t (mine t)) = true ∧
    meet (unacked (mine lab) (cow 0)) (fun _ t => t.hart.hold == some (.cow 7 0 0 0) && owed t (mine t)) = true := by decide +kernel

/-- A completion of a command whose word lies here, or where there is no page, or behind a table of another device. -/
def aCompletion (va : Word) : Completion := Completion.of (aPromotion 0 0).by_ va 1 0x60000 0 none

def placeIs (s : State) (c : Completion) (p : Except XErr Loc → Bool) : Bool :=
  p (engineXlate { s with hart := { s.hart with
    reply := c.reply
    refused := c.refused } } c.by_ .store c.va)

theorem witness_EngineEventResults_completions :
    (owed lab (aCompletion 0x70000).payload = false ∧ owed (unacked (aPromotion 0 0).by_ lab) (aCompletion 0x70000).payload = true) ∧
    placeIs lab (aCompletion 0x70000) (fun r => match r with | .ok loc => !isRemote loc.key | _ => false) = true ∧
    placeIs lab (aCompletion 0x30000) (fun r => match r with | .ok loc => isRemote loc.key | _ => false) = true ∧
    placeIs lab (aCompletion 0x400000) (fun r => match r with | .error (.cause _) => true | _ => false) = true ∧
    (placeIs farSource (aCompletion 0x10000000000) (fun r => match r with | .error (.remote _ _) => true | _ => false) = true ∧
      (aCompletion 0x10000000000).asked = none ∧ owed farSource (aCompletion 0x10000000000).payload = false ∧
      farSource.part.completions = [] ∧ ({ aCompletion 0x10000000000 with asked := some 4 } : Completion).asked ≠ none) ∧
    (aCompletion 0).copy = none ∧ (aCompletion 0).launch = none ∧ lab.hart.serial = (aCompletion 0).by_.serial ∧ lab.hart.isLive = true := by
  decide +kernel

/-- The metadata of a block that is mapped, or not. -/
theorem witness_EngineEventResults_state : (metaLoc lowPool .store 1).isSome = true ∧ metaLoc lab .store 1 = none := by decide +kernel

/-- A promotion computed step by step in the small pool: block 1 takes the bytes at page 1. -/
theorem witness_EngineEventResults_promotes :
    lowPool.hart.unperformed = [] ∧ (∀ k n, metaPlace lowPool .store 1 ≠ .error (.remote k n)) ∧
    ∃ bs t, EngineLoads (aPromotion 0 0).by_ 0x10000 (2 ^ poolLog lowPool.part) lowPool bs ∧
      EngineSaves (poolIssuer lowPool.part (aPromotion 0 0).by_) (lowPool.part.bpbase.toNat + 1 * 2 ^ poolLog lowPool.part) bs lowPool t := by
  refine ⟨by decide +kernel, fun k n h => ?_, ?_⟩
  · have e : (metaLoc lowPool .store 1).isSome = true := by decide +kernel
    unfold metaLoc at e
    rw [h] at e
    cases e
  · obtain ⟨p, h⟩ := some_of (o := (tryLoad (aPromotion 0 0).by_ 0x10000 (2 ^ poolLog lowPool.part) lowPool).bind fun bs =>
      (trySave (poolIssuer lowPool.part (aPromotion 0 0).by_) (lowPool.part.bpbase.toNat + 1 * 2 ^ poolLog lowPool.part) bs lowPool).map
        fun t => (bs, t)) (by decide +kernel)
    obtain ⟨bs, a, b⟩ := Option.bind_eq_some_iff.mp h
    obtain ⟨t, b, c⟩ := Option.map_eq_some_iff.mp b
    exact ⟨bs, t, load_of a, save_of b⟩

/-- A save area is written, or still on its way; and a launch within the sizes of its area. -/
theorem witness_EngineEventResults_area : owed lab aLaunch.by_ = false ∧ owed (unacked aLaunch.by_ lab) aLaunch.by_ = true ∧
    aLaunch.tasks.length ≤ 16 ∧ aLaunch.rows.length < 2 ^ 32 ∧ aLaunch.saveBy < 256 ∧ aLaunch.dims < 256 ∧ (∀ t ∈ aLaunch.tasks, t.hart < 2 ^ 16) ∧
    (∀ r ∈ aLaunch.rows, r.1 < 2 ^ 32) ∧
    part0 (launched (inState .saving ⟨0, none, false⟩)) (fun t => (t.launchOf 0xC0000000).any fun l => l.state == .saving && !tasksOff t l) = true ∧
    part0 (launched aLaunch) (fun t => (t.launchOf 0xC0000000).any fun l => l.state != .saving) = true := by decide +kernel

/-- A packet of job 7 for this device. -/
def sentPacket (kind vc : Nat) (seq addr : Word) (len : Nat) (data : List Byte) : Packet :=
  { job := 7
    src := 5
    dst := 0
    kind := BitVec.ofNat 8 kind
    vc := BitVec.ofNat 2 vc
    seq := seq
    addr := addr
    len := len
    payload := data }

/-- Partition 0 is of job 7, which has another device, and has received one packet of the stream. -/
def joined : State := { lab with
  part := { lab.part with
    cfg := { lab.part.cfg with
      job := 7
      jobNodes := [(7, [⟨5, 0x40000, 0, 0⟩])] } }
  dev := { lab.dev with rxSeq := [((7, 5, 0), 1)] } }

/-- A job in a state: whether its injection has stopped, and the devices whose harts are off. -/
def jobIn (st : JobState) (stop : Bool) (off : List (BitVec 16)) : Job := { Job.fresh 7 with
  state := st
  stopped := stop
  offNodes := off }

def withJob (j : Job) : State := { joined with dev := { joined.dev with jobs := [j] } }

theorem witness_FabricEventResults_kinds : (sentPacket 11 2 0 0 1 [0]).kind = 11 ∧ (sentPacket 11 2 0 0 1 [0]).vc = 2 ∧
    ¬ ((sentPacket 11 1 0 0 1 [0]).kind = 11 ∧ (sentPacket 11 1 0 0 1 [0]).vc = 2) ∧
    sentPacket 7 2 0 0x50000 1 [3] = { sentPacket 7 2 0 0 0 [] with
      addr := 0x50000
      len := [(3 : Byte)].length
      payload := [3] } := by decide

def link : PortRef := ⟨0, 0⟩

/-- A packet on its way to device 5. -/
def outward : Packet := { sentPacket 1 0 0 0x50000 8 [] with dst := 5 }

/-- A link that is up, with a packet for device 5 in the buffer of another port, and one in the egress queue. -/
def linked : State := { joined with
  part := { joined.part with cfg := { joined.part.cfg with limits := 0x100000001 ||| 0x1000000010000 } }
  dev := { joined.dev with
    routes := [(5, link)]
    peers := [(link, 5)]
    ports := joined.dev.ports ++ [{ ref := link, up := true, credits := #v[6, 6, 6], buffer := [] },
      { ref := ⟨0, 1⟩, up := true, credits := #v[6, 6, 6], buffer := [outward] }]
    egress := [(0, outward)] } }

/-- An input whose buffer has room, one that is full, and one that the device does not have. -/
def crowdedInput : State := { linked with dev := { linked.dev with
  ports := [{ ref := link, up := true, credits := #v[6, 6, 6], buffer := List.replicate 6 outward },
    { ref := ⟨0, 11⟩, up := true, credits := #v[8, 8, 8], buffer := List.replicate 7 outward }] } }

theorem witness_FabricEventResults_arrivals :
    ((sentPacket 8 2 0 0 64 []).kind = 8 ∧ (sentPacket 8 2 0 0 64 []).dst = joined.dev.node ∧ (jobPart (withJob (jobIn .out true [])) 7).isSome = true ∧
      ((withJob (jobIn .out true [])).job 7).state ≠ .running) ∧
    ((withJob (jobIn .out true [])).job 7).stopped = true ∧ (joined.job 7).stopped = false ∧ outward.dst ≠ joined.dev.node ∧
    (crowdedInput.portOf ⟨0, 11⟩).any (fun q => decide ((q.buffer.filter (fun x => x.vc == 0)).length < 8)) = true ∧
    (crowdedInput.portOf link).all (fun q => decide (¬ (q.buffer.filter (fun x => x.vc == 0)).length < 6)) = true ∧
    crowdedInput.portOf ⟨0, 2⟩ = none ∧ crowdedInput.dev.entering = [] ∧ crowdedInput.dev.jobs = [] ∧
    ((withJob (jobIn .resuming true [])).job 7).stopped = true := by decide +kernel

theorem witness_FabricEventResults_streams : ([0, 1, 2] : List Word).all (fun n => decide ((sentPacket 1 0 n 0x50000 8 []).kind.toNat = 1 ∧
      (sentPacket 1 0 n 0x50000 8 []).vc.toNat = 0 ∧ (sentPacket 1 0 n 0x50000 8 []).dst = joined.dev.node)) = true ∧
    assocGet joined.dev.rxSeq (7, 5, 0) 0 = 1 ∧ (0 : Word).toNat < (1 : Word).toNat ∧ (1 : Word).toNat < (2 : Word).toNat := by decide +kernel

/-- An operation of job 7, and a packet that is none. -/
def operation : Packet := { sentPacket 11 2 0 0 3 [6, 7, 0] with job := 0 }

theorem witness_FabricEventResults_operations : isJobOp operation = true ∧ isJobOp { operation with payload := [6, 7] } = false ∧
    isJobOp { operation with payload := [10, 7, 0] } = false ∧ isJobOp { operation with job := 7 } = false ∧
    ({ joined with dev := { joined.dev with mgmt := [operation] } } : State).dev.mgmt = [operation] ∧ opWaits joined operation = false ∧
    opWaits { joined with harts := [{ bootHart with
      id := 1
      preempt := some .managed }] } { operation with payload := [0, 7, 0] } = true := by decide +kernel

/-- A byte at the end of memory, and one past it; a damaged word; the configuration page; an atomic of eight bytes. -/
theorem witness_FabricEventResults_requests : jobPart lab 7 = none ∧ (jobPart joined 7).any (fun q =>
      decide (0xFFFFF8 + 8 ≤ q.cfg.memSize) && decide (q.cfg.memSize < 0xFFFFF9 + 8)) = true ∧
    joined.damagedAt (physKey 0 0xFFFFF8) 8 = false ∧ ({ joined with dev := { joined.dev with damaged := [0xFFFFF8 / 8] } } : State).damagedAt
      (physKey 0 0xFFFFF8) 8 = true ∧
    (0xFFF8 : Word).toNat < 2 ^ 16 ∧ 2 ^ 16 ≤ (0x10000 : Word).toNat ∧ (sentPacket 3 0 1 0x10000 2 [1, 2]).payload.length = 2 ∧
    field (leNat ([0, 8] ++ leBytes 8 5)) 1 0 8 = 8 := by decide +kernel

/-- A request that an answer of device 5 at 0x1008 may be for. -/
def sentBy (kind : Byte) (o : Origin) : Request := ⟨4, 0, farKey, 7, 5, kind, 0x1008, o⟩

def awaiting (r : Request) (f : Hart → Hart) : State :=
  let s := hartAt joined f
  { s with dev := { s.dev with outstanding := [{ sentBy 1 (.promotion 2) with addr := 0x2000 }, r] } }

def waitsWith (w : HartStatus) (h : Hart) : Hart := { h with
  status := w
  asked := some 4
  acks := [(5, 4)] }

/-- Each origin of a request, as the second of those outstanding; the first is none that the packet answers. -/
theorem witness_FabricEventResults_responses :
    [(2, (1 : Byte)), (4, 3), (6, 5)].all (fun k => [Origin.hart 0 0, .engine Issuer.none none, .engine Issuer.none (some (1, 0x70000)), .promotion 2, .completion Issuer.none, .host,
      .exit 0 0 0x70000 5].all fun o =>
        let s := awaiting (sentBy k.2 o) (waitsWith .ready)
        let p := sentPacket k.1 1 0 0x1008 0 []
        (s.focusPart 0).isSome && (s.focusHart 0 0).isSome && s.dev.outstanding.map (fun r => decide (r.job = p.job ∧ r.node = p.src ∧ r.kind = k.2 ∧
          r.addr = p.addr)) == [false, true]) = true ∧
    joined.dev.outstanding = [] := by decide +kernel

/-- What the one who asked waits for: the next packet of the response, an atomic, or nothing. -/
theorem witness_FabricEventResults_answers :
    (waitsWith (.waiting (.remote farKey 8)) bootHart).asked = some (sentBy 1 (.hart 0 0)).num ∧ bootHart.asked ≠ some (sentBy 1 (.hart 0 0)).num ∧
    (waitsWith (.waiting (.remote farKey 8)) bootHart).status = .waiting (.remote farKey 8) ∧
    (waitsWith (.waiting (.atomic farKey 8 9)) bootHart).status = .waiting (.atomic farKey 8 9) ∧
    (sentPacket 6 1 0 0x1008 0 []).len = 0 ∧ (sentPacket 6 1 0 0x1008 8 []).len ≠ 0 ∧
    ∀ k n a, (waitsWith .ready bootHart).status ≠ .waiting (.remote k n) ∧ (waitsWith .ready bootHart).status ≠ .waiting (.atomic k n a) :=
  ⟨rfl, by decide, rfl, rfl, rfl, by decide, fun _ _ _ => ⟨nofun, nofun⟩⟩

/-- A hart at the end of its stores, by what it waits for. -/
theorem witness_FabricEventResults_acknowledgements :
    [HartStatus.ready, .waiting .acks, .waiting (.ending 5)].all (fun w =>
      ((awaiting (sentBy 3 (.hart 0 0)) (waitsWith w)).focusHart 0 0).any fun t => t.hart.acks.contains (5, 4) &&
        (({ t with hart := { t.hart with acks := t.hart.acks.erase (5, 4) } } : State).drain).hart.status == w) = true ∧
    ((awaiting (sentBy 3 (.hart 0 0)) id).focusHart 0 0).any (fun t => !t.hart.acks.contains (5, 4)) = true := by decide +kernel

theorem witness_FabricEventResults_host : (sentPacket 7 2 0 0x50000 1 [3]).kind = 7 ∧ (jobPart joined 7).any (fun q => (joined.focusPart q.cfg.pid).isSome) =
      true ∧ (sentPacket 8 2 0 0 64 []).kind = 8 ∧ (sentPacket 11 2 0 0 1 [0]).kind = 11 := by decide +kernel

theorem witness_FabricEventResults_ports : link.k.toNat < 10 ∧ 10 ≤ (⟨0, 11⟩ : PortRef).k.toNat ∧ (⟨0, 11⟩ : PortRef).k = 11 ∧ link.k ≠ 11 ∧
    maySend linked link 0 outward = true ∧ maySend joined link 0 outward = false ∧
    (joined.dev.ports.flatMap fun p => p.buffer.map fun q => (p.ref.die, q)) ++ joined.dev.egress = [] ∧
    (linked.dev.ports.flatMap fun p => p.buffer.map fun q => (p.ref.die, q)) ++ linked.dev.egress = [(0, outward), (0, outward)] := by decide +kernel

/-- The job of the partition, with the link its packets come in by. -/
def switched (j : Job) : State := { linked with dev := { linked.dev with jobs := [j] } }

theorem witness_FabricEventResults_markers :
    ([jobIn .running false [], jobIn .switching true [], jobIn .switching false []] : List Job).all (fun j =>
      decide ((switched j).job 7 = j) && (jobPart (switched j) 7).isSome && (openLinks (switched j) 7).contains link) = true ∧
    ¬ ((jobPart lab 7).isSome = true ∧ ((lab.job 7).state = .running ∨ (lab.job 7).state = .switching) ∧ link ∈ openLinks lab 7) := by decide +kernel

/-- The switched job with its control hart off. -/
def offFor (j : Job) : State := hartAt (switched j) fun h => { h with
  status := .off .job
  slot := none }

/-- A device outside the job is its home. -/
def elsewhere (j : Job) : Job := { j with home := 5 }

/-- The home of a job that has no partition on it. -/
def onlyHome (j : Job) : State := { lab with
  part := { lab.part with cfg := { lab.part.cfg with jobNodes := [(7, [⟨5, 0x40000, 0, 0⟩])] } }
  dev := { lab.dev with jobs := [j] } }

/-- The job with the markers of every open input. -/
def sweptJob : Job := { jobIn .switching true [0, 5] with marked := [(link, 0), (link, 1), (link, 2)] }

theorem witness_FabricEventResults_reports :
    (offFor (jobIn .switching false [])).jobOf 7 = some (jobIn .switching false []) ∧
    (0 ∈ jobNodes (offFor (jobIn .switching false [])) 7 ∧ (0 : BitVec 16) ∉ (jobIn .switching false []).offNodes ∧
      jobHartsOff (offFor (jobIn .switching false [])) 7 = true) ∧ jobHartsOff (switched (jobIn .switching false [])) 7 = false ∧
    (jobIn .switching false []).home = joined.dev.node ∧ (elsewhere (jobIn .switching false [])).home ≠ joined.dev.node ∧
    (sweptJob.stopped = true ∧ jobHartsOff (offFor sweptJob) 7 = true ∧ sweepDone (offFor sweptJob) sweptJob = true ∧
      ∀ c ∈ sweptJob.reports, c.node ≠ joined.dev.node) ∧
    sweepDone (offFor (jobIn .switching true [0, 5])) (jobIn .switching true [0, 5]) = false ∧
    ((onlyHome (jobIn .switching false [])).jobOf 7 = some (jobIn .switching false []) ∧
      (jobPart (onlyHome (jobIn .switching false [])) 7).isSome = false) ∧
    (jobIn .out true []).state ≠ .switching ∧ (jobIn .out true []).state ≠ .resuming := by decide +kernel

theorem witness_FabricEventResults_resumed : (jobIn .resuming false []).state = .resuming ∧ (jobPart (withJob (jobIn .resuming false [])) 7).isSome = true ∧
    (jobPart (onlyHome (jobIn .resuming false [])) 7).isSome = false ∧ (0 : BitVec 16) ∉ (jobIn .resuming false []).back ∧
    (0 : BitVec 16) ∈ ({ jobIn .resuming false [] with back := [0] } : Job).back := by decide +kernel

theorem witness_FabricEventResults_late : (sentPacket 1 0 0 0 8 []).job = 7 ∧ (jobIn .switching true []).stopped = true ∧
    (sentPacket 1 0 0 0 8 []).kind ≠ 8 ∧ ¬ ((jobIn .running false []).stopped = true ∧ (sentPacket 1 0 0 0 8 []).kind ≠ 8) ∧
    ((jobIn .switching true []).state = .switching ∧ link ∈ openLinks (switched (jobIn .switching true [])) 7 ∧
      (link, (0 : BitVec 2)) ∉ (jobIn .switching true []).marked) ∧
    (link, (0 : BitVec 2)) ∈ sweptJob.marked ∧ ({ jobIn .out true [] with full := true } : Job).full = true := by decide +kernel

/-- The devices of the job are 5 and 0; the lists of those that have reported are complete or not. -/
theorem witness_FabricEventResults_devices : jobNodes joined 7 = [5, 0] ∧
    (jobNodes joined 7).all (fun m => ((jobIn .switching false [5]).offNodes.filter (· != 0) ++ [0]).contains m) ∧
    ((jobNodes joined 7).all (fun m => ((jobIn .switching false []).offNodes.filter (· != 0) ++ [0]).contains m)) = false ∧
    (jobNodes joined 7).all (fun m => ([⟨5, 0, 0, false⟩, ⟨0, 1, 2, true⟩] : List Counts).any fun c => c.node == m) ∧
    ((jobNodes joined 7).all (fun m => ([⟨5, 0, 0, false⟩] : List Counts).any fun c => c.node == m)) = false ∧
    (jobNodes joined 7).all (fun m => ([0, 5] : List (BitVec 16)).contains m) ∧
    ((jobNodes joined 7).all (fun m => ([0] : List (BitVec 16)).contains m)) = false := by decide +kernel

theorem witness_FabricEventResults_course : (jobPart joined 7).isSome = true ∧ (joined.job 7).state = .running ∧ (joined.job 7).home = joined.dev.node ∧
    ([.switching, .out, .resuming] : List JobState).all (fun st => (jobPart (withJob (jobIn st true [])) 7).isSome &&
      decide (((withJob (jobIn st true [])).job 7).state = st ∧ ((withJob (jobIn st true [])).job 7).home = joined.dev.node)) = true := by decide +kernel

/-- Nothing waits for the device, so that nothing is settled before the report of harts that are off. -/
theorem witness_FabricEventResults_settled : settleMgmt (offFor (jobIn .switching false [])) = offFor (jobIn .switching false []) := by decide +kernel

/-- A host write with nothing left, and with a piece on an HS page, on one that is none, at no page, and below a table of another device. -/
def hosting (s : State) (l : List (Nat × Nat)) (asked : Option Nat) : State := { s with part := { s.part with hostWork := [{
  pieces := l
  bytes := [1]
  asked := asked
  reply := []
  refused := [] }] } }

def hostPlace (s : State) (a : Word) (p : Except XErr Loc → Bool) : Bool :=
  p (engineXlate { s with hart := { s.hart with
    reply := []
    refused := [] } } { Issuer.none with root := s.part.cfg.ptroot } .store a)

theorem witness_FabricEventResults_host_work :
    ((hosting joined [] none).part.hostWork.map (·.pieces) = [[]] ∧ joined.part.hostWork = []) ∧
    hostPlace (lab.pokeWord 0x20038 0x901C7) 0x70000 (fun r => match r with | .ok loc => loc.hs && !isRemote loc.key | _ => false) = true ∧
    hostPlace lab 0x60000 (fun r => match r with | .ok loc => !loc.hs | _ => false) = true ∧
    hostPlace lab 0x400000 (fun r => match r with | .error (.cause _) => true | _ => false) = true ∧
    hostPlace farSource 0x10000000000 (fun r => match r with | .error (.remote _ _) => true | _ => false) = true ∧
    (hosting farSource [(2 ^ 40, 1)] (some 3)).part.hostWork.all (fun w => w.asked != none) = true := by decide +kernel

/-- The save area of a job with one packet swept and one late. -/
def recordedJob : Job := { jobIn .out true [] with
  swept := [⟨link, sentPacket 3 0 1 0x10000 2 [1, 2]⟩]
  late := [⟨link, sentPacket 1 0 2 0x10000 8 []⟩] }

def savingJob : State := { joined with part := { joined.part with cfg := { joined.part.cfg with
  saveBase := 0x40000
  saveSize := 400000
  lateCap := 2 } } }

theorem witness_FabricEventResults_area : jobPart lab 9 = none ∧ (jobPart savingJob recordedJob.tag).any (fun q => decide (q.cfg.lateCap < 2 ^ 32)) = true ∧
    savingJob.MemOk ∧ recordedJob.swept.length ≤ 1024 ∧ recordedJob.late.length < 2 ^ 32 ∧
    (recordedJob.swept ++ recordedJob.late).all (fun r => decide (r.packet.payload.length ≤ 268 ∧ r.packet.len < 2 ^ 32)) = true ∧
    ((switched (jobIn .switching true [])).job 7).stopped = true ∧ ((switched (jobIn .switching false [])).job 7).stopped = false :=
  ⟨by decide +kernel, by decide +kernel, show _ = _ by decide +kernel, by decide, by decide, by decide, by decide +kernel, by decide +kernel⟩

/-- The list of late packets has room, or is full; and a job that has died at its home. -/
theorem witness_FabricEventResults_lists : (jobIn .switching true []).full = false ∧ (jobIn .switching true []).reports = [] ∧
    (jobPart savingJob 7).any (fun q => decide ((jobIn .switching true []).late.length < q.cfg.lateCap)) = true ∧
    (jobPart joined 7).any (fun q => decide (q.cfg.lateCap ≤ (jobIn .switching true []).late.length)) = true ∧
    ((withJob (jobIn .dead true [])).job 7).state = .dead ∧ ((withJob (jobIn .dead true [])).job 7).home = joined.dev.node ∧
    (unacked (aPromotion 0 0).by_ lab).focusHart 0 9 = none ∧ (unacked (aPromotion 0 0).by_ lab).focusHart 0 0 ≠ none := by decide +kernel

/-! ## The management plane -/

/-- A start message for the control hart: its program counter at 0x10000, a lease of one brick. -/
def startRec : Nat := 0x10000 + 2 ^ 320 * (1 + 2 ^ 16)

def startsWith (r : Nat) : Start := Start.ofBytes (padTo 0 64 (leBytes 64 r))

/-- The partition without its control hart, and without its job. -/
def unstarted : State := hartAt lab fun h => { h with status := .absent }

/-- The device in reduced service. -/
def reduced : State := { unstarted with dev := { lab.dev with devstat := 0x0000B002000F0001 } }

theorem witness_ManagementEventResults_start : jobPart lab 9 = none ∧ (jobPart lab 0).any (fun q => (lab.focusPart q.cfg.pid).isSome) = true ∧
    part0 (withJob (jobIn .switching false [])) (fun t => t.dev.jobState t.part.cfg.job != .running) = true ∧
    part0 lab (fun t => t.dev.jobState t.part.cfg.job == .running && t.allHarts.any fun h => h.pid == t.part.cfg.pid && h.id == 0 && h.isLive) = true ∧
    part0 unstarted (fun t => t.dev.jobState t.part.cfg.job == .running && t.allHarts.all fun h => h.pid != t.part.cfg.pid || h.id != 0 || !h.isLive) =
      true ∧
    ((startsWith startRec).reserved = false ∧ (startsWith startRec).flags ≤ 1 ∧
      leaseFits (startsWith startRec).lease.min (startsWith startRec).lease.pref (startsWith startRec).lease.prio 3 ∧
      (startsWith startRec).pc.getLsbD 0 = false ∧ (startsWith startRec).exitVa.toNat % 8 = 0) ∧
    (startsWith (startRec + 1)).pc.getLsbD 0 = true ∧
    part0 reduced (fun t => isReduced t && t.dev.jobState t.part.cfg.job == .running) = true ∧ part0 unstarted (fun t => !isReduced t) = true ∧
    ¬ ((startsWith (startRec + 2 ^ 320 * (4 + 2 ^ 18))).lease.min ≤ 4 ∧ (startsWith (startRec + 2 ^ 320 * (4 + 2 ^ 18))).flags ≠ 1) ∧
    ((startsWith startRec).lease.min ≤ 4 ∧ (startsWith startRec).flags ≠ 1) := by
  unfold leaseFits
  decide +kernel

/-- A partition that may stand beside that of the laboratory, and the laboratory with two halls. -/
def otherCfg : PartCfg := { goodCfg with
  pid := 1
  job := 9
  halls := [2, 3] }

def twoHalls : State := { lab with part := { lab.part with cfg := { lab.part.cfg with halls := [0, 1] } } }

theorem witness_ManagementEventResults_partitions : mayConfigure lab otherCfg = true ∧ mayConfigure lab { otherCfg with halls := [0] } = false ∧
    mayConfigure lab { otherCfg with job := 0 } = false ∧ mayConfigure lab { otherCfg with ctrlTags := [9] } = false ∧
    memoryOk lab 1 (8 * 1500000000) 0xF 0xFF = true ∧ memoryOk lab 1 (8 * 1500000000 + 1) 0xF 0xFF = false ∧ memoryOk lab 1 (2 ^ 30) 7 0xFF = false ∧
    memoryOk lab 1 (2 ^ 30) 0xF 0x7F = false := by decide +kernel

theorem witness_ManagementEventResults_halls :
    part0 twoHalls (fun t => mayRemove t 0 1 && !mayRemove t 1 0 && noSwitch t) = true ∧
    part0 lab (fun t => hallOffered t 2 && !isReduced t && !hallTaken t t.part.cfg.pid 2 && !t.part.cfg.halls.contains 2 &&
      t.dev.jobs.all (fun j => j.tag != t.part.cfg.job || (j.state != .switching && j.state != .resuming))) = true ∧
    part0 lab (fun t => memoryOk t 0 t.part.cfg.memSize 0xF 0xFF && !memoryOk t 0 t.part.cfg.memSize 0 0) = true ∧
    part0 (withJob (jobIn .switching false [])) (fun t => !noSwitch t) = true := by decide +kernel

theorem witness_ManagementEventResults_drain :
    ({ bootHart with status := .off (.launch 0xC0000000) } : Hart).status = .off (.launch 0xC0000000) ∧ ({ bootHart with status := .off .job } : Hart).status = .off .job ∧
    ¬ ((∃ l, bootHart.status = .off (.launch l)) ∨ bootHart.status = .off .job) ∧ bootHart.preempt = none ∧
    ({ bootHart with preempt := some .slot } : Hart).preempt = some .slot ∧ lab.MemOk :=
  ⟨rfl, rfl, fun h => h.elim (fun ⟨_, h⟩ => nomatch h) (fun h => nomatch h), rfl, rfl, show _ = _ by decide +kernel⟩

def devstatIs (d : Word) (v : Bool) : State := { State.reset with
  dev := { State.reset.dev with
    devstat := d
    verified := v } }

/-- An image of a version, with a key and a signature of their lengths. -/
def firmware (version : Nat) : Firmware := ⟨leBytes 64 (1 + 2 ^ 32 * version), List.replicate 48 0, List.replicate 16224 0⟩

/-- Whether the signature of an image is the vendor's, and the image too old, depends on the vendor's digest, the verification and the
fused minimum, free values of the model; an image of the greatest version is not too old, and one whose key is short is not good. -/
theorem witness_ManagementEventResults_firmware : (phaseOf (devstatIs 0x0000B00100000000 false) = 1 ∧ (devstatIs 0x0000B00100000000 false).dev.verified = false) ∧
    ¬ ({ firmware 0 with key := [] } : Firmware).key.length = 48 ∧
    ((firmware 0).key.length = 48 ∧ (firmware 0).signature.length = 16224 ∧ 64 ≤ (firmware 0).image.length ∧
      field (leNat ((firmware 0).image.take 64)) 0 0 32 = 1 ∧ field (leNat ((firmware 0).image.take 64)) 8 0 64 = (firmware 0).image.length - 64 ∧
      field (leNat ((firmware 0).image.take 64)) 16 0 384 = 0) ∧
    ¬ field (leNat ((firmware 0xFFFFFFFF).image.take 64)) 4 0 32 < (Config.minVersion 0).toNat := by
  have : field (leNat ((firmware 0xFFFFFFFF).image.take 64)) 4 0 32 = 0xFFFFFFFF := by decide +kernel
  have := (Config.minVersion 0).isLt
  exact ⟨by decide +kernel, by decide, by decide +kernel, by omega⟩

theorem witness_ManagementEventResults_bring_up :
    (phaseOf (devstatIs 0x0000B00100000000 true) = 1 ∧ (devstatIs 0x0000B00100000000 true).dev.verified = true) ∧
    (phaseOf (devstatIs 0x0000B00200010000 true) = 2 ∧ readyBit (devstatIs 0x0000B00200010000 true) = false) ∧
    (phaseOf (devstatIs 0x0000B00200010008 true) = 2 ∧ readyBit (devstatIs 0x0000B00200010008 true) = true ∧
      (devstatIs 0x0000B00200010008 true).allHarts.all (fun h => !h.isLive) = true) := by decide +kernel

theorem witness_ManagementEventResults_training : ({ lab with part := { lab.part with cfg := { lab.part.cfg with chans := 1 } } } : State).allParts.any
      (fun p => p.configured && (p.cfg.chans &&& 1) != 0) = true ∧
    (devstatIs 0x0000B00200010000 true).allParts.all (fun p => !p.configured) = true ∧ (47 : Nat) < 48 ∧ (11 : Nat) < 12 := by decide +kernel

/-- A partition within the limits of its page, with a window and a partner. -/
def paged : State := { lab with part := { lab.part with cfg := { goodCfg with
  windows := [⟨0, true, true, 5, 0x11000⟩]
  partners := [(0, 1, 2, 3)] } } }

theorem witness_ManagementEventResults_page : paged.MemOk ∧ paged.part.cfg.wf = true ∧ (paged.part.cfg.windows.map (·.index)).Nodup ∧
    paged.part.cfg.partners.find? (fun p => decide (p.1 = 0)) = some (0, 1, 2, 3) ∧ (∀ p ∈ paged.part.cfg.partners, p.1 ≠ 1) ∧
    (∀ w ∈ paged.part.cfg.windows, w.index.toNat ≠ 1) ∧ paged.part.cfg.windows ≠ [] :=
  ⟨show _ = _ by decide +kernel, by decide +kernel, by decide, by decide, by decide, by decide, by decide⟩

/-- A report is made, or waits for the switch of the partition's job; so does the return to full service. -/
theorem witness_ManagementEventResults_report : settledFor joined 0 = true ∧ settledFor (withJob (jobIn .switching false [])) 0 = false ∧
    (List.replicate 32 (0 : Byte)).length = 32 ∧
    (State.reset.allParts.all fun p => !p.configured || !decide (State.reset.dev.jobState p.cfg.job ∈ [.switching, .resuming])) = true ∧
    ((withJob (jobIn .switching false [])).allParts.any fun p => p.configured &&
      decide ((withJob (jobIn .switching false [])).dev.jobState p.cfg.job ∈ [.switching, .resuming])) = true := by decide +kernel

/-! ## One step at a time: results computed in the manual's examples or by hand from its rules -/

theorem lab_memOk : lab.MemOk ∧ (placed 32 0x00001282).MemOk := ⟨show _ = _ by decide +kernel, show _ = _ by decide +kernel⟩

/-- Whether an outcome is a next state with a property. -/
def goesTo (o : Host.Outcome State Fault Refusal) (p : State → Bool) : Bool :=
  match o with
  | .next t => p t
  | _ => false

theorem goesTo_spec {o : Host.Outcome State Fault Refusal} {p : State → Bool} (h : goesTo o p = true) : ∃ t, o = .next t := by
  obtain t | f | r := o
  · exact ⟨t, rfl⟩
  · cases h
  · cases h

theorem witness_DecodeAndEncodeAgree : Instr.wf (.add ⟨3, 2, 1⟩) = true ∧ Instr.isAlias (.add ⟨3, 2, 1⟩) = false ∧
    encode (.add ⟨3, 2, 1⟩) ≠ .none ∧ (decodeBytes [0x82, 0x12, 0, 0]).toOption = some (.add ⟨0, 1, 5⟩, []) := by decide

theorem witness_StepKeepsMemoryCanonical : (placed 32 0x00001282).MemOk ∧ ∃ t, step (placed 32 0x00001282) = .next t :=
  ⟨lab_memOk.2, goesTo_spec (p := fun _ => true) (by decide +kernel)⟩

/-- Registers 1 to 3 hold values. -/
def withX (a b c : Word) (s : State) : State := hartAt s fun h => { h with live := { h.live with x := ((h.live.x.set 1 a).set 2 b).set 3 c } }

/-- The quotient of 5.0 and 2.0 and its three roundings, from the example of file 06. -/
theorem test_divide : goesTo (exec (.fdiv ⟨0, 0, 3, 1, 1⟩) (withX 0x40A00000 0 0x40000000 lab)) (fun t => t.xr 1 == 0x40200000) = true := by
  decide +kernel

theorem test_round : [(0, 2), (4, 3), (1, 2)].all (fun r =>
    goesTo (exec (.fcvti ⟨0, BitVec.ofNat 3 r.1, 1, 10⟩) (withX 0x40200000 0 0 lab)) (fun t => t.xr 10 == BitVec.ofNat 64 r.2)) = true := by
  decide +kernel

/-- The jump of that example, at an address of its own. -/
theorem test_jump : goesTo (exec (.jal ⟨16, 31⟩) lab) (fun t => t.xr 31 == 0x10004 && t.pc == 0x10020) = true ∧
    goesTo (exec (.jalr ⟨0, 1, 0⟩) lab) (fun t => t.pc == 0x10008 && t.xr 0 == 0) = true := by decide +kernel

/-- R111: division by zero, and the most negative number by -1. -/
theorem test_division_corners : goesTo (exec (.div ⟨3, 1, 4⟩) (withX 7 0 0 lab)) (fun t => t.xr 4 == BitVec.allOnes 64) = true ∧
    goesTo (exec (.rem ⟨3, 1, 4⟩) (withX 7 0 0 lab)) (fun t => t.xr 4 == 7) = true ∧
    goesTo (exec (.div ⟨3, 1, 4⟩) (withX (1 <<< 63) 0 (-1) lab)) (fun t => t.xr 4 == 1 <<< 63) = true ∧
    goesTo (exec (.rem ⟨3, 1, 4⟩) (withX (1 <<< 63) 0 (-1) lab)) (fun t => t.xr 4 == 0) = true := by decide +kernel

theorem test_multiply : goesTo (exec (.mulh ⟨3, 1, 4⟩) (withX (-1) 0 2 lab)) (fun t => t.xr 4 == -1) = true ∧
    goesTo (exec (.mulhn ⟨3, 1, 4⟩) (withX (-1) 0 2 lab)) (fun t => t.xr 4 == 1) = true := by decide +kernel

theorem test_shift : goesTo (exec (.sra ⟨3, 1, 4⟩) (withX (-8) 0 65 lab)) (fun t => t.xr 4 == -4) = true ∧
    goesTo (exec (.shr ⟨3, 1, 4⟩) (withX (-8) 0 65 lab)) (fun t => t.xr 4 == 0x7FFFFFFFFFFFFFFC) = true := by decide +kernel

/-- The example of file 07: the base of the scratchpad window and the page of 24 MiB. -/
theorem test_window : goesTo (exec (.shli ⟨40, 1, 5⟩) (withX 0xFFF 0 0 lab)) (fun t => t.xr 5 == 0x000FFF0000000000) = true ∧
    goesTo (exec (.lui ⟨0x1800, 6⟩) lab) (fun t => t.xr 6 == 0x01800000) = true := by decide +kernel

/-- R114, R115: a word is extended by its sign or with zeros. -/
theorem test_load_extends : goesTo (exec (.ldw ⟨0, 1, 5⟩) (withX 0x10008 0 0 (lab.poke 0x30008 [0, 0, 0, 0x80]))) (fun t => t.xr 5 == 0xFFFFFFFF80000000) =
      true ∧
    goesTo (exec (.ldwn ⟨0, 1, 5⟩) (withX 0x10008 0 0 (lab.poke 0x30008 [0, 0, 0, 0x80]))) (fun t => t.xr 5 == 0x80000000) = true := by decide +kernel

/-- R66: a hart reads its own stores while they wait in mortar; memory does not hold them. The page lies at 0x30000. -/
theorem test_store_waits : goesTo (exec (.std ⟨0, 2, 1⟩) (withX 0x10008 77 0 lab)) (fun t =>
      t.peekNat 0x30008 8 == 0 && goesTo (exec (.ldd ⟨0, 1, 5⟩) t) (fun u => u.xr 5 == 77)) = true := by decide +kernel

/-- R114 with R207: a misaligned load traps with ALIGN, its address in TVAL. -/
theorem test_misaligned : goesTo (exec (.ldd ⟨1, 1, 5⟩) (hartAt (withX 0x10008 0 0 lab) fun h => { h with tvec := 0x10100 })) (fun t =>
      t.hart.tcause == 0x04 && t.hart.tval == 0x10009 && t.hart.tepc == 0x10000 && t.pc == 0x10100 && decide (t.hart.mode = .supervisor)) =
    true := by decide +kernel

/-- The four values of the example of file 09, and one tile row of them. -/
def summed : State := hartAt (vec 0x0A lab) fun h => { h with live := { h.live with
  vl := 4
  v := h.live.v.set 1 [0x3F800000, 0x34000000, 0x3F800000, 0x34000000] } }

theorem test_sums : goesTo (exec (.vrsumo ⟨0, 0, 0, 1, 10⟩) summed) (fun t => t.xr 10 == 0x40000000) = true ∧
    goesTo (exec (.vrsumt ⟨0, 0, 0, 1, 11⟩) summed) (fun t => t.xr 11 == 0x40000001) = true ∧
    goesTo (exec (.vrmaxfi ⟨0, 0, 0, 1, 12⟩) summed) (fun t => t.xr 12 == 0) = true := by decide +kernel

/-- R173, R174: 1.0625 with the residual 0 is narrowed to 1.0 in b8p4, and 0.0625 is left; the next element is 1.125. -/
theorem test_error_feedback : goesTo (exec (.vcvt ⟨6, 0, 0, 0, 0x14, 1, 2⟩) (hartAt (vec 0x0A lab) fun h => { h with live := { h.live with
      vl := 2
      v := h.live.v.set 1 [0x3F880000, 0x3F880000] } })) (fun t =>
    ((t.hart.live.v[2].getD 0 0).setWidth 16 == 0x4140) && t.hart.live.efc == 0) = true := by decide +kernel

/-- R138: SETVL grants the lesser of what is asked for and what the bricks hold. -/
theorem test_setvl : goesTo (exec (.setvl ⟨9, 8⟩) (hartAt (vec 0x0A lab) fun h => { h with
      lmod := 16
      live := { h.live with x := h.live.x.set 9 1000 } })) (fun t => t.xr 8 == 128 && t.hart.vlgrant == 128) = true := by decide +kernel

end Sys2Proof.Tests
end

section
/-! PROOF. What the machine holds right after reset. -/

namespace Sys2Proof.Machine

/-- The control registers of the reset state, each against the value of its field map (R16, R136, R206). -/
theorem crTable_reset : (crTable State.reset).all (fun r => r.2 == (([(0x006, 32), (0x00C, 2), (0x012, 1),
    (0x800, 0xFFFFFFFF00000000), (0x808, 16384), (0x809, 0xFFFFFFFFFFFFFFFF)] : List (BitVec 12 × Word)).lookup r.1).getD 0) = true := by
  decide +kernel

/-- Settles O4: every part of the reset state is as it was defined, and the registers are those of the table. -/
theorem resetValues : Obligations.ResetValues := by
  unfold Obligations.ResetValues
  refine ⟨rfl, fun _ => rfl, rfl, rfl, rfl, rfl, rfl, rfl, by decide, rfl, rfl, rfl, rfl, rfl, rfl, rfl, rfl, rfl, rfl, rfl, ?_⟩
  exact fun r hr => eq_of_beq (List.all_eq_true.1 crTable_reset r hr)

end Sys2Proof.Machine
end

section
/-! SUPPORT. What happens in a partition, and what holds the management plane back there (R10). -/

namespace Sys2Proof.Machine

/-! ## Visits of a partition -/

theorem visit_congr {s t : State} {f g : State → State} (h : f t = g t) : s.visit t f = s.visit t g := by
  simp only [State.visit, h]

theorem visit_of_fixed {s t : State} {f : State → State} (h : f t = t) : s.visit t f = s := if_pos h

theorem inPart_of_focusPart {s t : State} {p : PartId} (ht : s.focusPart p = some t) (f : State → State) :
    s.inPart p f = s.visit t f := by
  simp only [State.inPart, ht]

/-- An event in a partition is what it does there. -/
theorem next_inPart_of_eq {s t : State} {p : PartId} (ht : s.focusPart p = some t) {f g : State → State} (h : f t = g t) :
    (.next (s.inPart p f) : Out) = .next (s.visit t g) := by
  rw [inPart_of_focusPart ht, visit_congr h]

/-- An event that changes nothing in its partition changes nothing (log entry 3). -/
theorem next_inPart_of_fixed {s t : State} {p : PartId} (ht : s.focusPart p = some t) {f : State → State} (h : f t = t) :
    (.next (s.inPart p f) : Out) = .next s := by
  rw [inPart_of_focusPart ht, visit_of_fixed h]

/-! ## Switches and pre-emptions in progress -/

theorem jobSettled_iff {s : State} {tag : BitVec 16} : jobSettled s tag = true ↔ s.dev.jobState tag ∉ [.switching, .resuming] := by
  simp [jobSettled]

theorem leaving_eq_false_iff {s : State} {p : PartId} :
    leaving s p = false ↔ ∀ h ∈ s.allHarts, h.pid = p → h.isLive = true → h.preempt ≠ some .managed := by
  simp [leaving]

theorem mem_jobsOf {s : State} {p : PartId} {tag : BitVec 16} :
    tag ∈ jobsOf s p ↔ ∃ q ∈ s.allParts, q.configured = true ∧ q.cfg.pid = p ∧ q.cfg.job = tag := by
  simp [jobsOf, and_assoc]

theorem settledFor_iff {s : State} {p : PartId} : settledFor s p = true ↔
    (∀ q ∈ s.allParts, q.configured = true → q.cfg.pid = p → s.dev.jobState q.cfg.job ∉ [.switching, .resuming]) ∧
      ∀ h ∈ s.allHarts, h.pid = p → h.isLive = true → h.preempt ≠ some .managed := by
  rw [settledFor, Bool.and_eq_true, Bool.not_eq_true', leaving_eq_false_iff, List.all_eq_true]
  refine and_congr_left fun _ => ⟨fun h q hq hc hp => jobSettled_iff.1 (h _ (mem_jobsOf.2 ⟨q, hq, hc, hp, rfl⟩)), ?_⟩
  intro h tag ht
  obtain ⟨q, hq, hc, hp, rfl⟩ := mem_jobsOf.1 ht
  exact jobSettled_iff.2 (h q hq hc hp)

/-- No gang switch of a job with a partition here is in progress. -/
theorem jobsSettled_iff {s : State} : s.allParts.all (fun p => !p.configured || jobSettled s p.cfg.job) = true ↔
    ∀ p ∈ s.allParts, p.configured = true → s.dev.jobState p.cfg.job ∉ [.switching, .resuming] := by
  rw [List.all_eq_true]
  refine ⟨fun h p hp hc => ?_, fun h p hp => ?_⟩
  · have := h p hp
    rw [hc] at this
    exact jobSettled_iff.1 this
  · cases hc : p.configured with
    | false => rfl
    | true => exact jobSettled_iff.2 (h p hp hc)

/-- A job has a state that the table lists for it, or is RUNNING. -/
theorem jobState_ne_of_table {d : Device} {tag : BitVec 16} {bad : JobState} (hb : bad ≠ .running)
    (h : ∀ j ∈ d.jobs, j.tag = tag → j.state ≠ bad) : d.jobState tag ≠ bad := by
  unfold Device.jobState
  cases hf : d.jobs.find? (fun j => j.tag == tag) with
  | none => exact hb.symm
  | some j => exact h j (List.mem_of_find?_eq_some hf) (by simpa using List.find?_some hf)

theorem noSwitch_of_quiet {t : State}
    (hq : (∀ j ∈ t.dev.jobs, j.tag = t.part.cfg.job → j.state ≠ .switching ∧ j.state ≠ .resuming) ∧
      ∀ h ∈ t.allHarts, h.pid = t.part.cfg.pid → h.isLive = true → h.preempt ≠ some .managed) : noSwitch t = true := by
  obtain ⟨hj, hh⟩ := hq
  have switching := jobState_ne_of_table (by decide) (fun j hm ht => (hj j hm ht).1)
  have resuming := jobState_ne_of_table (by decide) (fun j hm ht => (hj j hm ht).2)
  rw [noSwitch, Bool.and_eq_true, Bool.not_eq_true', leaving_eq_false_iff, jobSettled_iff]
  exact ⟨by simp [switching, resuming], hh⟩

end Sys2Proof.Machine
end

section
/-! SUPPORT. Start messages: the status of each case of R15, and what the status lets happen. -/

namespace Sys2Proof.Machine

/-- The payload's own fields are as R14 and R86 ask. -/
def Start.WellFormed (m : Start) : Prop :=
  m.reserved = false ∧ m.flags ≤ 1 ∧ leaseFits m.lease.min m.lease.pref m.lease.prio 3 ∧ m.pc.getLsbD 0 = false ∧ m.exitVa.toNat % 8 = 0

/-- The service has room for what the payload asks for (R356). -/
def Start.HasRoom (t : State) (m : Start) : Prop := isReduced t = true → m.lease.min ≤ 4 ∧ m.flags ≠ 1

theorem Start.not_wellFormed_iff {m : Start} : ¬ m.WellFormed ↔
    (m.reserved ∨ 2 ≤ m.flags ∨ m.lease.ok 3 = false ∨ m.pc.getLsbD 0 ∨ m.exitVa.toNat % 8 ≠ 0) := by
  have hl : leaseFits m.lease.min m.lease.pref m.lease.prio 3 ↔ m.lease.ok 3 = true := by
    unfold leaseFits
    exact decide_eq_true_iff.symm
  have hf : m.flags ≤ 1 ↔ ¬ 2 ≤ m.flags := by omega
  simp only [Start.WellFormed, hl, hf, Classical.not_and_iff_not_or_not, Classical.not_not, Bool.not_eq_true, Bool.not_eq_false, ne_eq]

theorem Start.not_hasRoom_iff {t : State} {m : Start} : ¬ m.HasRoom t ↔ (isReduced t = true ∧ (4 < m.lease.min ∨ m.flags = 1)) := by
  rw [Start.HasRoom, Classical.not_imp, Classical.not_and_iff_not_or_not, Nat.not_le, Classical.not_not]

theorem controlHart_live_iff {t : State} : t.allHarts.any (fun h => h.pid == t.part.cfg.pid && h.id == 0 && h.isLive) = true ↔
    ¬ ∀ h ∈ t.allHarts, h.pid = t.part.cfg.pid → h.id = 0 → h.isLive = false := by
  simp [and_assoc]

section
variable {t : State} {m : Start}

theorem startStatus_of_busy (hj : t.dev.jobState t.part.cfg.job ≠ .running) : startStatus t m = 2 := if_pos hj

variable (hj : t.dev.jobState t.part.cfg.job = .running)
include hj

theorem startStatus_of_live (hh : ¬ ∀ h ∈ t.allHarts, h.pid = t.part.cfg.pid → h.id = 0 → h.isLive = false) :
    startStatus t m = 3 := by
  rw [startStatus, if_neg (fun h => h hj), if_pos (controlHart_live_iff.2 hh)]

variable (hh : ∀ h ∈ t.allHarts, h.pid = t.part.cfg.pid → h.id = 0 → h.isLive = false)
include hh

theorem startStatus_of_malformed (hm : ¬ m.WellFormed) : startStatus t m = 4 := by
  rw [startStatus, if_neg (fun h => h hj), if_neg (fun h => controlHart_live_iff.1 h hh), if_pos (Start.not_wellFormed_iff.1 hm)]

variable (hm : m.WellFormed)
include hm

/-- Where everything else is as it should be the service decides. -/
theorem startStatus_of_wellFormed : startStatus t m = if isReduced t ∧ (4 < m.lease.min ∨ m.flags = 1) then 5 else 0 := by
  rw [startStatus, if_neg (fun h => h hj), if_neg (fun h => controlHart_live_iff.1 h hh),
    if_neg (fun h => Start.not_wellFormed_iff.2 h hm)]

theorem startStatus_of_no_room (hr : ¬ m.HasRoom t) : startStatus t m = 5 :=
  (startStatus_of_wellFormed hj hh hm).trans (if_pos (Start.not_hasRoom_iff.1 hr))

theorem startStatus_of_room (hr : m.HasRoom t) : startStatus t m = 0 :=
  (startStatus_of_wellFormed hj hh hm).trans (if_neg (fun h => Start.not_hasRoom_iff.2 h hr))

end

theorem startMessage_of_none {s : State} {job : BitVec 16} {payload : List Byte} (hq : jobPart s job = none) :
    startMessage job payload s = reply job 1 s := by
  simp only [startMessage, hq]

/-- A start message that reaches a partition: the reply, and the start where the status is 0. -/
theorem startMessage_eq_visit {s t : State} {job : BitVec 16} {q : Partition} {payload : List Byte} (hq : jobPart s job = some q)
    (ht : s.focusPart q.cfg.pid = some t) {b : Byte} {u : State} (hb : startStatus t (Start.ofBytes (padTo 0 64 payload)) = b)
    (hu : (if b = 0 then startHart (Start.ofBytes (padTo 0 64 payload)) (extend 3 (sha256 (padTo 0 64 payload)) t) else t) = u) :
    startMessage job payload s = s.visit t (fun _ => reply job b u) := by
  simp only [startMessage, hq, inPart_of_focusPart ht]
  exact visit_congr (by rw [hb, hu])

end Sys2Proof.Machine
end

section
/-! SUPPORT. What configuring and resizing a partition take, and what they do (R336, R342, R343). -/

namespace Sys2Proof.Machine

/-! ## Configuration -/

theorem hallTaken_eq_false_iff {s : State} {p : PartId} {h : Nat} : hallTaken s p h = false ↔
    ∀ q ∈ s.allParts, q.configured = true → q.cfg.pid ≠ p → h ∉ q.cfg.halls := by
  simp [hallTaken]

theorem memoryOk_iff {s : State} {p : PartId} {size : Nat} {l2 chans : BitVec 256} : memoryOk s p size l2 chans = true ↔
    4 ≤ (maskOnes l2).length ∧ 8 ≤ (maskOnes chans).length ∧ size ≤ (maskOnes chans).length * 1500000000 ∧
      chans &&& s.dev.withdrawn = 0 ∧
      ∀ q ∈ s.allParts, q.configured = true → q.cfg.pid ≠ p → q.cfg.l2 &&& l2 = 0 ∧ q.cfg.chans &&& chans = 0 := by
  have apart (q : Partition) : (!q.configured || q.cfg.pid == p || (q.cfg.l2 &&& l2 == 0 && q.cfg.chans &&& chans == 0)) = true ↔
      (q.configured = true → q.cfg.pid ≠ p → q.cfg.l2 &&& l2 = 0 ∧ q.cfg.chans &&& chans = 0) := by
    cases q.configured with
    | false => simp
    | true => by_cases hp : q.cfg.pid = p <;> simp [hp]
  rw [memoryOk, Bool.and_eq_true, Bool.and_eq_true, decide_eq_true_iff, beq_iff_eq, List.all_eq_true]
  simp only [apart, and_assoc, Config.channelSize]

/-- What configuring a partition takes (R10, R11, R336). -/
theorem mayConfigure_elim {s : State} {c : PartCfg} (h : mayConfigure s c = true) :
    c.wf = true ∧ c.job ∉ c.ctrlTags ∧ (phaseOf s = 2 ∨ phaseOf s = 3) ∧ c.memSize ≤ 2 ^ 47 ∧ c.halls.Nodup ∧
      memoryOk s c.pid c.memSize c.l2 c.chans = true ∧
      (∀ h ∈ c.halls, hallOffered s h = true ∧ ∀ q ∈ s.allParts, q.configured = true → q.cfg.pid ≠ c.pid → h ∉ q.cfg.halls) ∧
      (∀ q ∈ s.allParts, q.configured = true → q.cfg.pid ≠ c.pid → q.cfg.job ≠ c.job) ∧
      jobSettled s c.job = true ∧ settledFor s c.pid = true := by
  simp only [mayConfigure, hallsOk, Bool.and_eq_true, decide_eq_true_eq] at h
  obtain ⟨⟨⟨⟨⟨⟨⟨⟨⟨hset, hjob⟩, hwf⟩, htags⟩, hphase⟩, ⟨⟨⟨-, hoff⟩, hnd⟩, -⟩, hfree⟩, hmem⟩, hsize⟩, hjobs⟩, -⟩ := h
  refine ⟨hwf, fun hm => ?_, by simpa using hphase, hsize, hnd, hmem, fun h hh => ⟨List.all_eq_true.1 hoff h hh, ?_⟩,
    fun q hq hc hp => ?_, hjob, hset⟩
  · simpa using List.all_eq_true.1 htags _ hm
  · exact hallTaken_eq_false_iff.1 (by simpa using List.all_eq_true.1 hfree h hh)
  · simpa [hc, hp] using List.all_eq_true.1 hjobs q hq

theorem execPartitionConfigure_of_not {s : State} {c : PartCfg} (h : mayConfigure s c = false) :
    execPartitionConfigure c s = .next s := by
  rw [execPartitionConfigure, if_neg (Bool.eq_false_iff.1 h)]

/-- A configuration that may be made replaces the partition's, scrubs its halls and writes its page (R336, R342, R347). -/
theorem execPartitionConfigure_of_may {s : State} {c : PartCfg} (h : mayConfigure s c = true) : execPartitionConfigure c s =
    .next (measureTable ((c.halls.foldl (fun s h => scrubHall h s)
      ((deadElsewhere s c.pid).foldl (fun s j => sendJob .reconfigured j.tag [] j.home s)
        (({ dropPart c.pid s with parts := (dropPart c.pid s).parts ++ [Partition.fresh c true] } : State).modDev (fun d =>
          { d with
            jobs := d.jobs.filter (fun j => !(c.job :: jobsOf s c.pid).contains j.tag)
            tlb := d.tlb.filter (fun e => e.pid != c.pid)
            contexts := d.contexts.filter (· != c.pid) })))).inPart c.pid writePage)) := by
  rw [execPartitionConfigure, if_pos h]

/-! ## Removing a hall -/

theorem Hart.not_inFlight_of_not_isCommitted {h : Hart} (hc : h.isCommitted = false) : ¬ h.InFlight := by
  rintro (⟨k, n, rd, hs⟩ | ⟨v, hs⟩ | hl)
  · simp [Hart.isCommitted, hs] at hc
  · simp [Hart.isCommitted, hs] at hc
  · simp only [Hart.isLive, Bool.and_eq_false_iff, bne_eq_false_iff_eq] at hl
    rcases hl with hs | hs <;> simp [Hart.isCommitted, hs] at hc

theorem Hart.drainable_elim {h : Hart} (hd : h.drainable = true) : h.outgoing = [] ∧ h.acks = [] ∧ ¬ h.InFlight := by
  simp only [Hart.drainable, Bool.and_eq_true, List.isEmpty_iff, Bool.not_eq_true'] at hd
  obtain ⟨⟨hout, hacks⟩, hc⟩ := hd
  exact ⟨hout, hacks, Hart.not_inFlight_of_not_isCommitted hc⟩

/-- What the removal of a hall takes (R342). -/
theorem mayRemove_elim {s : State} {src dst : Nat} (h : mayRemove s src dst = true) :
    src ∈ s.part.cfg.halls ∧ dst ∈ s.part.cfg.halls ∧ src ≠ dst ∧ noSwitch s = true ∧
      (∀ h ∈ s.allHarts, h.pid = s.part.cfg.pid → h.isLive = true → h.hall ≠ dst) ∧ ∀ h ∈ hartsIn s src, h.drainable = true := by
  simp only [mayRemove, Bool.and_eq_true, List.contains_iff_mem, bne_iff_ne] at h
  obtain ⟨⟨⟨⟨⟨hsrc, hdst⟩, hne⟩, hno⟩, hempty⟩, hdrain⟩ := h
  refine ⟨hsrc, hdst, hne, hno, fun h hh hp hl => ?_, List.all_eq_true.1 hdrain⟩
  simpa [hp, hl] using List.all_eq_true.1 hempty h hh

theorem mayRemove_of_switch {s : State} {src dst : Nat} (h : noSwitch s = false) : mayRemove s src dst = false :=
  Bool.eq_false_iff.2 fun hm => by
    obtain ⟨-, -, -, hno, -⟩ := mayRemove_elim hm
    exact Bool.eq_false_iff.1 h hno

theorem drainHart_of_off {s : State} {h : Hart} (ho : (∃ l, h.status = .off (.launch l)) ∨ h.status = .off .job) :
    drainHart s h = s := by
  rcases ho with ⟨l, hs⟩ | hs <;> simp only [drainHart, hs]

theorem drainHart_of_not_off {s : State} {h : Hart} (ho : ¬((∃ l, h.status = .off (.launch l)) ∨ h.status = .off .job)) :
    drainHart s h = takeOff h.pid h.id (Off.managed.joined h.preempt) (s.modHartOf h.pid h.id Hart.rollback) := by
  unfold drainHart
  split
  · exact absurd (.inr ‹_›) ho
  · exact absurd (.inl ⟨_, ‹_›⟩) ho
  · rfl

end Sys2Proof.Machine
end

section
/-! SUPPORT. Memory under a list of writes, and the scratchpad that a removed hall hands on (R342). -/

namespace Sys2Proof.Machine

/-! ## Stretches of bytes -/

/-- Two stretches of bytes, each with its offset, share no address. -/
def Apart (p q : Nat × List Byte) : Prop := p.1 + p.2.length ≤ q.1 ∨ q.1 + q.2.length ≤ p.1

/-- The stretches of a list written in order, each at its offset from a base. -/
def State.pokes (base : Nat) (l : List (Nat × List Byte)) (s : State) : State := l.foldl (fun s p => s.poke (base + p.1) p.2) s

@[simp] theorem State.pokes_cons (base : Nat) (p : Nat × List Byte) (l : List (Nat × List Byte)) (s : State) :
    s.pokes base (p :: l) = (s.poke (base + p.1) p.2).pokes base l := rfl

theorem get_pokes_outside {base : Nat} {l : List (Nat × List Byte)} {s : State} {j : Nat} (hs : s.MemOk)
    (h : ∀ p ∈ l, j < base + p.1 ∨ base + p.1 + p.2.length ≤ j) : (s.pokes base l).mem.get j = s.mem.get j := by
  induction l generalizing s with
  | nil => rfl
  | cons p l ih =>
    obtain ⟨hp, hl⟩ := List.forall_mem_cons.1 h
    rw [State.pokes_cons, ih (poke_ok _ _ hs) hl, State.poke_mem, get_write_outside hs hp]

/-- Where no two stretches overlap, each reads back whatever is written after it. -/
theorem get_pokes_mem {base : Nat} {l : List (Nat × List Byte)} {s : State} {p : Nat × List Byte} {i : Nat} (hs : s.MemOk)
    (hl : l.Pairwise Apart) (hp : p ∈ l) (hi : i < p.2.length) : (s.pokes base l).mem.get (base + p.1 + i) = p.2[i] := by
  induction l generalizing s with
  | nil => cases hp
  | cons q l ih =>
    obtain ⟨hq, hl⟩ := List.pairwise_cons.1 hl
    rw [State.pokes_cons]
    rcases List.mem_cons.1 hp with rfl | hp
    · have later : ∀ r ∈ l, base + p.1 + i < base + r.1 ∨ base + r.1 + r.2.length ≤ base + p.1 + i := fun r hr => by
        have := hq r hr
        unfold Apart at this
        omega
      rw [get_pokes_outside (poke_ok _ _ hs) later, State.poke_mem, get_write hs, if_pos (by omega), Nat.add_sub_cancel_left,
        List.getD_eq_getElem?_getD, List.getElem?_eq_getElem hi, Option.getD_some]
    · exact ih (poke_ok _ _ hs) hl hp

/-! ## Cells -/

/-- A listed byte is the one its address reads as. -/
theorem get_of_mem {m : Memory} (h : m.wf = true) {c : Host.Cell} (hc : c ∈ m) : m.get c.1 = c.2 := by
  induction m with
  | nil => cases hc
  | cons d m ih =>
    obtain ⟨-, habove, hm⟩ := (wf_cons d m).1 h
    rcases List.mem_cons.1 hc with rfl | hc
    · exact if_pos rfl
    · have := habove c hc
      exact (if_neg (by omega)).trans (ih hm hc)

/-- An address that no cell lists reads 0. -/
theorem get_of_forall_ne {m : Memory} {k : Nat} (h : ∀ c ∈ m, c.1 ≠ k) : m.get k = 0 := by
  induction m with
  | nil => rfl
  | cons d m ih =>
    obtain ⟨hd, hm⟩ := List.forall_mem_cons.1 h
    exact (if_neg hd).trans (ih hm)

theorem pairwise_lt_of_wf {m : Memory} (h : m.wf = true) : m.Pairwise (fun c d => c.1 < d.1) := by
  induction m with
  | nil => exact List.Pairwise.nil
  | cons d m ih =>
    obtain ⟨-, habove, hm⟩ := (wf_cons d m).1 h
    exact List.pairwise_cons.2 ⟨fun c hc => habove c hc, ih hm⟩

/-- The cells of memory from an address up to n bytes on, each as a stretch of one byte. -/
def Memory.stretches (m : Memory) (lo n : Nat) : List (Nat × List Byte) :=
  (m.filter (fun c => decide (lo ≤ c.1 ∧ c.1 < lo + n))).map (fun c => (c.1 - lo, [c.2]))

theorem stretches_apart {m : Memory} (h : m.wf = true) (lo n : Nat) : (m.stretches lo n).Pairwise Apart := by
  refine List.pairwise_map.2 (((pairwise_lt_of_wf h).filter _).imp_of_mem fun hc _ hlt => .inl ?_)
  have hc := (List.mem_filter.1 hc).2
  simp only [decide_eq_true_eq] at hc
  simp only [List.length_cons, List.length_nil]
  omega

/-! ## The scratchpad of a removed hall -/

theorem padKey_eq_add (hall i : Nat) : padKey hall i = padKey hall 0 + i := by rw [padKey, padKey, Nat.add_zero]

theorem movePad_mem (src dst : Nat) (s : State) : (movePad src dst s).mem =
    ((s.wipe (padKey dst 0) Config.padSize).pokes (padKey dst 0) (s.mem.stretches (padKey src 0) Config.padSize)).mem := by
  simp only [movePad, State.pokes, Memory.stretches, List.foldl_map, State.modDev_mem, Nat.add_comm]

/-- The scratchpad of the receiving hall reads as that of the removed one: a listed byte is written there, and any other is wiped. -/
theorem movePad_get {s : State} (hs : s.MemOk) (src dst : Nat) {i : Nat} (hi : i < Config.padSize) :
    (movePad src dst s).mem.get (padKey dst i) = s.mem.get (padKey src i) := by
  rw [movePad_mem, padKey_eq_add dst i, padKey_eq_add src i]
  by_cases hc : ∃ c ∈ s.mem, c.1 = padKey src 0 + i
  · obtain ⟨c, hm, hk⟩ := hc
    have hmem : (i, [c.2]) ∈ s.mem.stretches (padKey src 0) Config.padSize :=
      List.mem_map.2 ⟨c, List.mem_filter.2 ⟨hm, by simp only [decide_eq_true_eq]; omega⟩, by rw [hk, Nat.add_sub_cancel_left]⟩
    rw [← hk, get_of_mem hs hm]
    exact get_pokes_mem (i := 0) (wipe_ok _ _ hs) (stretches_apart hs _ _) hmem (by simp)
  · have hne : ∀ c ∈ s.mem, c.1 ≠ padKey src 0 + i := fun c hm hk => hc ⟨c, hm, hk⟩
    rw [get_pokes_outside (wipe_ok _ _ hs), State.wipe_mem, get_clear, if_pos (by omega), get_of_forall_ne hne]
    intro p hp
    obtain ⟨c, hm, rfl⟩ := List.mem_map.1 hp
    obtain ⟨hm, hin⟩ := List.mem_filter.1 hm
    have := hne c hm
    simp only [decide_eq_true_eq] at hin
    simp only [List.length_cons, List.length_nil]
    omega

end Sys2Proof.Machine
end

section
/-! SUPPORT. The layout of the configuration page (R336), and what the page reads as once the device has written it. -/

namespace Sys2Proof.Machine

/-! ## Bytes of numbers, masks and lists -/

theorem leNat_leBytes_toNat {n w : Nat} (h : w ≤ 8 * n) (x : BitVec w) : leNat (leBytes n x.toNat) = x.toNat := by
  rw [leNat_leBytes, Nat.mod_eq_of_lt (Nat.lt_of_lt_of_le x.isLt (Nat.pow_le_pow_right (by decide) h))]

theorem leNat_singleton (b : Byte) : leNat [b] = b.toNat := by simp [leNat]

theorem leNat_eq_zero {l : List Byte} (h : ∀ b ∈ l, b = 0) : leNat l = 0 := by
  induction l with
  | nil => rfl
  | cons b l ih =>
    obtain ⟨hb, hl⟩ := List.forall_mem_cons.1 h
    rw [leNat, hb, ih hl]
    rfl

theorem read_eq_slice {m : Memory} {k n i : Nat} {bs : List Byte} (hn : i + n ≤ bs.length)
    (h : ∀ j (hj : j < bs.length), m.get (k + j) = bs[j]) : m.read (k + i) n = (bs.drop i).take n := by
  refine List.ext_getElem (by rw [read_length, List.length_take, List.length_drop]; omega) fun j h1 _ => ?_
  rw [read_length] at h1
  simp only [Memory.read, List.getElem_map, List.getElem_range, List.getElem_take, List.getElem_drop, Nat.add_assoc]
  exact h _ (by omega)

theorem eraseDups_of_nodup {l : List Nat} (h : l.Nodup) : l.eraseDups = l := by
  induction l with
  | nil => rfl
  | cons a l ih =>
    obtain ⟨ha, hl⟩ := List.nodup_cons.1 h
    rw [List.eraseDups_cons, List.filter_eq_self.2, ih hl]
    intro b hb
    simpa using fun e : b = a => ha (e ▸ hb)

/-- A power of two added where its bit is not set sets that bit alone. -/
theorem getLsbD_add_two_pow {w v i j : Nat} (hi : (BitVec.ofNat w v).getLsbD i = false) :
    (BitVec.ofNat w (v + 2 ^ i)).getLsbD j = true ↔ (BitVec.ofNat w v).getLsbD j = true ∨ i < w ∧ i = j := by
  have apart : BitVec.ofNat w v &&& BitVec.twoPow w i = 0#w := by rw [BitVec.and_twoPow, hi, if_neg Bool.false_ne_true]
  have pow : BitVec.twoPow w i = BitVec.ofNat w (2 ^ i) := BitVec.eq_of_toNat_eq (by rw [BitVec.toNat_twoPow, BitVec.toNat_ofNat])
  rw [BitVec.ofNat_add, ← pow, BitVec.add_eq_or_of_and_eq_zero _ _ apart, BitVec.getLsbD_or, BitVec.getLsbD_twoPow, Bool.or_eq_true,
    Bool.and_eq_true, decide_eq_true_iff, decide_eq_true_iff]

/-- The sum of the powers of two of a list has the bits of the list. -/
theorem getLsbD_foldl_two_pow {w v h : Nat} {l : List Nat} (hl : l.Nodup) (hv : ∀ i ∈ l, (BitVec.ofNat w v).getLsbD i = false)
    (hh : h < w) : (BitVec.ofNat w (l.foldl (fun v i => v + 2 ^ i) v)).getLsbD h = true ↔
      (BitVec.ofNat w v).getLsbD h = true ∨ h ∈ l := by
  induction l generalizing v with
  | nil => exact ⟨.inl, fun hm => hm.resolve_right List.not_mem_nil⟩
  | cons a l ih =>
    obtain ⟨ha, hl⟩ := List.nodup_cons.1 hl
    obtain ⟨hva, hvl⟩ := List.forall_mem_cons.1 hv
    have later : ∀ i ∈ l, (BitVec.ofNat w (v + 2 ^ a)).getLsbD i = false := fun i hi => Bool.eq_false_iff.2 fun hb => by
      rcases (getLsbD_add_two_pow hva).1 hb with hb | ⟨-, rfl⟩
      · exact Bool.eq_false_iff.1 (hvl i hi) hb
      · exact ha hi
    rw [List.foldl_cons, ih hl later, getLsbD_add_two_pow hva, List.mem_cons, or_assoc]
    exact or_congr_right (or_congr_left ⟨fun ⟨_, e⟩ => e.symm, fun e => ⟨e ▸ hh, e.symm⟩⟩)

/-- A mask of 64 bits has the bits of its list. -/
theorem leNat_maskBytes_testBit {l : List Nat} (hl : l.Nodup) {h : Nat} (hh : h < 64) :
    (leNat (maskBytes 8 l)).testBit h = true ↔ h ∈ l := by
  have zero (i : Nat) : (BitVec.ofNat 64 0).getLsbD i = false := BitVec.getLsbD_zero
  have bits := getLsbD_foldl_two_pow (v := 0) hl (fun i _ => zero i) hh
  rw [maskBytes, eraseDups_of_nodup hl, leNat_leBytes]
  rw [zero] at bits
  exact bits.trans ⟨fun h => h.resolve_left Bool.false_ne_true, .inr⟩

theorem length_flatMap_uniform {α : Type} {f : α → List Byte} {n : Nat} (hf : ∀ x, (f x).length = n) (l : List α) :
    (l.flatMap f).length = n * l.length := by
  induction l with
  | nil => rfl
  | cons x l ih => rw [List.flatMap_cons, List.length_append, hf, ih, List.length_cons, Nat.mul_succ, Nat.add_comm]

theorem padTo_length (d : Byte) (n : Nat) (l : List Byte) : (padTo d n l).length = n := by
  simp only [padTo, List.length_append, List.length_take, List.length_replicate]
  omega

theorem padTo_of_le {d : Byte} {n : Nat} {l : List Byte} (h : l.length ≤ n) : padTo d n l = l ++ List.replicate (n - l.length) d := by
  rw [padTo, List.take_of_length_le h]

/-- Two bytes of a list of tags that zeros follow are those of its tag, or 0 beyond its end. -/
theorem tagBytes_slice (l : List (BitVec 16)) (k : Nat) {i : Nat} (hi : 2 * i + 2 ≤ 2 * l.length + k) :
    ((l.flatMap (fun t : BitVec 16 => leBytes 2 t.toNat) ++ List.replicate k 0).drop (2 * i)).take 2 = leBytes 2 (l.getD i 0).toNat := by
  induction l generalizing i with
  | nil =>
    rw [List.flatMap_nil, List.nil_append, List.drop_replicate, List.take_replicate, Nat.min_eq_left, List.getD_nil]
    · rfl
    · simp only [List.length_nil] at hi
      omega
  | cons t l ih =>
    cases i with
    | zero => rfl
    | succ i => exact ih (by simp only [List.length_cons] at hi; omega)

/-- The same of the four tags of a page. -/
theorem ctrlTags_slice {l : List (BitVec 16)} (hl : l.length ≤ 4) {i : Nat} (hi : i < 4) :
    ((padTo 0 8 (l.flatMap (fun t : BitVec 16 => leBytes 2 t.toNat))).drop (2 * i)).take 2 = leBytes 2 (l.getD i 0).toNat := by
  have hlen := length_flatMap_uniform (fun t : BitVec 16 => leBytes_length 2 t.toNat) l
  rw [padTo_of_le (by omega)]
  exact tagBytes_slice _ _ (by omega)

theorem partnerBytes_length (c : PartCfg) (h : Nat) : (partnerBytes c h).length = 4 := by
  unfold partnerBytes
  split <;> rfl

theorem partnerBytes_last (c : PartCfg) (h : Nat) : (partnerBytes c h).drop 3 = [0] := by
  unfold partnerBytes
  split <;> rfl

theorem partnerBytes_of_none {c : PartCfg} {h : Nat} (hn : ∀ p ∈ c.partners, p.1 ≠ h) : partnerBytes c h = [0xFF, 0xFF, 0xFF, 0] := by
  have : c.partners.find? (fun p => decide (p.1 = h)) = none := List.find?_eq_none.2 fun p hp => by simpa using hn p hp
  rw [partnerBytes, this]

theorem partnerBytes_of_some {c : PartCfg} {h : Nat} {a b d : Byte}
    (hs : c.partners.find? (fun p => decide (p.1 = h)) = some (h, a, b, d)) : partnerBytes c h = [a, b, d, 0] := by
  rw [partnerBytes, hs]

/-- The bytes of a window's entry (R332, R336). -/
def windowBytes (w : Window) : List Byte :=
  leBytes 2 (1 + (if w.r then 2 else 0) + (if w.w then 4 else 0)) ++ leBytes 2 w.dest.toNat ++ leBytes 4 0 ++ leBytes 8 w.base.toNat

/-! ## The parts of a page -/

theorem PartCfg.wf_elim {c : PartCfg} (h : c.wf = true) :
    c.halls.Nodup ∧ c.faultLog ≤ 16 ∧ c.intrLog ≤ 16 ∧ c.lateCap ≤ 1024 ∧ c.ctrlTags.length ≤ 4 := by
  simp only [PartCfg.wf, hallsWf, Bool.and_eq_true, decide_eq_true_eq] at h
  obtain ⟨⟨⟨⟨⟨⟨⟨⟨⟨⟨-, hnd⟩, -⟩, -⟩, -⟩, -⟩, -, hfault⟩, -, hintr⟩, hlate⟩, htags⟩, -⟩ := h
  exact ⟨hnd, hfault, hintr, hlate, htags⟩

theorem partner_mem_pageParts (c : PartCfg) {h : Nat} (hh : h < 48) : (192 + 4 * h, partnerBytes c h) ∈ pageParts c :=
  List.mem_append_left _ (List.mem_append_right _ (List.mem_map.2 ⟨h, List.mem_range.2 hh, rfl⟩))

theorem window_mem_pageParts {c : PartCfg} {w : Window} (hw : w ∈ c.windows) : (1024 + 16 * w.index.toNat, windowBytes w) ∈ pageParts c :=
  List.mem_append_right _ (List.mem_map.2 ⟨w, hw, rfl⟩)

/-- The fields of eight bytes that hold addresses and sizes. -/
theorem placement_mem_pageParts {c : PartCfg} {o v : Nat} (h : (o, v) ∈ [(80, c.memSize), (88, c.faultBase), (96, c.intrBase),
    (112, c.ctxBase), (120, c.ctxSize), (128, c.engBase), (136, c.engSize), (144, c.saveBase), (152, c.saveSize)]) :
    (o, leBytes 8 v) ∈ pageParts c := by
  simp only [List.mem_cons, Prod.mk.injEq, List.not_mem_nil, or_false] at h
  rcases h with ⟨rfl, rfl⟩ | ⟨rfl, rfl⟩ | ⟨rfl, rfl⟩ | ⟨rfl, rfl⟩ | ⟨rfl, rfl⟩ | ⟨rfl, rfl⟩ | ⟨rfl, rfl⟩ | ⟨rfl, rfl⟩ | ⟨rfl, rfl⟩ <;>
    simp [pageParts]

/-- The offsets and lengths of the parts of a page below its windows. -/
def headSpans : List (Nat × Nat) :=
  [(0, 8), (8, 8), (16, 32), (48, 32), (80, 8), (88, 8), (96, 8), (104, 2), (112, 8), (120, 8), (128, 8), (136, 8), (144, 8), (152, 8),
    (160, 4), (168, 8), (176, 8)] ++ (List.range 48).map (fun h => (192 + 4 * h, 4))

/-- The offsets and lengths of the windows of a page. -/
def windowSpans (c : PartCfg) : List (Nat × Nat) := c.windows.map (fun w => (1024 + 16 * w.index.toNat, 16))

theorem headSpans_le : ∀ p ∈ headSpans, p.1 + p.2 ≤ 1024 := by decide

theorem pageParts_spans (c : PartCfg) : (pageParts c).map (fun p => (p.1, p.2.length)) = headSpans ++ windowSpans c := by
  simp [pageParts, headSpans, windowSpans, maskBytes, padTo_length, partnerBytes_length, Function.comp_def]

theorem forall_pageParts {c : PartCfg} {P : Nat × Nat → Prop} (hh : ∀ p ∈ headSpans, P p)
    (hw : ∀ w ∈ c.windows, P (1024 + 16 * w.index.toNat, 16)) : ∀ p ∈ pageParts c, P (p.1, p.2.length) := by
  intro p hp
  have : (p.1, p.2.length) ∈ headSpans ++ windowSpans c := pageParts_spans c ▸ List.mem_map_of_mem hp
  rcases List.mem_append.1 this with h | h
  · exact hh _ h
  · obtain ⟨w, hm, he⟩ := List.mem_map.1 h
    exact he ▸ hw w hm

/-- The parts of a page share no byte where each window has its own index. -/
theorem pageParts_apart {c : PartCfg} (hc : (c.windows.map (·.index)).Nodup) : (pageParts c).Pairwise Apart := by
  have spans : (headSpans ++ windowSpans c).Pairwise (fun p q => p.1 + p.2 ≤ q.1 ∨ q.1 + q.2 ≤ p.1) := by
    refine List.pairwise_append.2 ⟨by decide, List.pairwise_map.2 ((List.pairwise_map.1 hc).imp fun {v w} hne => ?_), fun p hp q hq => ?_⟩
    · have : v.index.toNat ≠ w.index.toNat := fun e => hne (BitVec.eq_of_toNat_eq e)
      dsimp only
      omega
    · obtain ⟨w, -, rfl⟩ := List.mem_map.1 hq
      have := headSpans_le p hp
      dsimp only
      omega
  rw [← pageParts_spans, List.pairwise_map] at spans
  exact spans

/-! ## The page as it reads -/

/-- The number in n bytes at an offset of the page that the device has written. -/
def pageAt (s : State) (o n : Nat) : Nat := (writePage s).peekNat (physKey s.part.cfg.pid 0 + o) n

theorem writePage_eq_pokes (s : State) :
    writePage s = (s.wipe (physKey s.part.cfg.pid 0) (2 ^ 16)).pokes (physKey s.part.cfg.pid 0) (pageParts s.part.cfg) := rfl

section
variable {s : State} (hs : s.MemOk)
include hs

/-- Memory outside the page stays. -/
theorem writePage_outside {k : Nat} (hk : k < physKey s.part.cfg.pid 0 ∨ physKey s.part.cfg.pid 0 + 2 ^ 16 ≤ k) :
    (writePage s).mem.get k = s.mem.get k := by
  have inside := forall_pageParts (c := s.part.cfg) (P := fun p => p.1 + p.2 ≤ 2 ^ 16) (by decide)
    (fun w _ => by have := w.index.isLt; dsimp only; omega)
  rw [writePage_eq_pokes, get_pokes_outside (wipe_ok _ _ hs) fun p hp => by have := inside p hp; omega, State.wipe_mem, get_clear,
    if_neg (by omega)]

/-- What no part of a page covers reads 0. -/
theorem pageAt_gap {o n : Nat} (hn : o + n ≤ 2 ^ 16) (hh : ∀ p ∈ headSpans, o + n ≤ p.1 ∨ p.1 + p.2 ≤ o)
    (hw : ∀ w ∈ s.part.cfg.windows, o + n ≤ 1024 + 16 * w.index.toNat ∨ 1024 + 16 * w.index.toNat + 16 ≤ o) : pageAt s o n = 0 := by
  have apart := forall_pageParts (P := fun p => o + n ≤ p.1 ∨ p.1 + p.2 ≤ o) hh hw
  refine leNat_eq_zero fun b hb => ?_
  obtain ⟨i, hi, rfl⟩ := List.mem_map.1 hb
  have hi := List.mem_range.1 hi
  rw [writePage_eq_pokes, get_pokes_outside (wipe_ok _ _ hs) fun p hp => by have := apart p hp; omega, State.wipe_mem, get_clear,
    if_pos (by omega)]

/-- The same below the windows. -/
theorem pageAt_head_gap {o n : Nat} (hn : o + n ≤ 1024) (hh : ∀ p ∈ headSpans, o + n ≤ p.1 ∨ p.1 + p.2 ≤ o) : pageAt s o n = 0 :=
  pageAt_gap hs (by omega) hh (fun w _ => .inl (by omega))

/-- The entry of a window that the configuration does not name reads 0. -/
theorem pageAt_unused_window {i : Nat} (hi : i < 2048) (hne : ∀ w ∈ s.part.cfg.windows, w.index.toNat ≠ i) :
    pageAt s (1024 + 16 * i) 16 = 0 := by
  refine pageAt_gap hs (by omega) (fun p hp => .inr (Nat.le_trans (headSpans_le p hp) (Nat.le_add_right ..))) fun w hw => ?_
  have := hne w hw
  omega

/-- Nothing lies behind the windows. -/
theorem pageAt_tail : pageAt s 33792 31744 = 0 :=
  pageAt_gap hs (by decide) (by decide) (fun w _ => by have := w.index.isLt; omega)

variable (hw : (s.part.cfg.windows.map (·.index)).Nodup)
include hw

/-- The bytes of a page, from their place in a part of it. -/
theorem pageAt_slice {o : Nat} {bs : List Byte} (hm : (o, bs) ∈ pageParts s.part.cfg) {i n : Nat} (hn : i + n ≤ bs.length) :
    pageAt s (o + i) n = leNat ((bs.drop i).take n) := by
  rw [pageAt, State.peekNat, writePage_eq_pokes, ← Nat.add_assoc, read_eq_slice hn]
  exact fun j hj => get_pokes_mem (wipe_ok _ _ hs) (pageParts_apart hw) hm hj

/-- The whole of a part of a page. -/
theorem pageAt_part {o n : Nat} {bs : List Byte} (hm : (o, bs) ∈ pageParts s.part.cfg) (hn : bs.length = n) :
    pageAt s o n = leNat bs := by
  subst hn
  have := pageAt_slice hs hw hm (i := 0) (n := bs.length) (by omega)
  rwa [Nat.add_zero, List.drop_zero, List.take_length] at this

/-- A number in a page, from the place of its bytes in a part of it. -/
theorem pageAt_number {o : Nat} {bs : List Byte} (hm : (o, bs) ∈ pageParts s.part.cfg) (i : Nat) {n v : Nat}
    (hb : (bs.drop i).take n = leBytes n v) : pageAt s (o + i) n = v % 2 ^ (8 * n) := by
  have hl := congrArg List.length hb
  rw [List.length_take, List.length_drop, leBytes_length] at hl
  rcases Nat.eq_zero_or_pos n with rfl | hn
  · exact (Nat.mod_one v).symm
  · rw [pageAt_slice hs hw hm (by omega), hb, leNat_leBytes]

/-- The same of a number that its bytes can hold. -/
theorem pageAt_value {o : Nat} {bs : List Byte} (hm : (o, bs) ∈ pageParts s.part.cfg) (i : Nat) {n v : Nat}
    (hb : (bs.drop i).take n = leBytes n v) (hv : v < 2 ^ (8 * n)) : pageAt s (o + i) n = v :=
  (pageAt_number hs hw hm i hb).trans (Nat.mod_eq_of_lt hv)

theorem pageAt_halls (hn : s.part.cfg.halls.Nodup) {h : Nat} (hh : h < 64) :
    (pageAt s 8 8).testBit h = true ↔ h ∈ s.part.cfg.halls := by
  have : pageAt s 8 8 = leNat (maskBytes 8 s.part.cfg.halls) := pageAt_part hs hw (List.mem_of_getElem? (i := 1) rfl) (leBytes_length ..)
  rw [this, leNat_maskBytes_testBit hn hh]

section
variable {h : Nat} (hh : h < 48)
include hh

/-- A byte of a hall's partner entry. -/
theorem pageAt_partner {i : Nat} (hi : i < 4) :
    pageAt s (192 + i + 4 * h) 1 = leNat (((partnerBytes s.part.cfg h).drop i).take 1) := by
  rw [Nat.add_right_comm]
  exact pageAt_slice hs hw (partner_mem_pageParts _ hh) (by rw [partnerBytes_length]; omega)

theorem pageAt_partner_last : pageAt s (195 + 4 * h) 1 = 0 := by
  refine (pageAt_partner hs hw hh (i := 3) (by decide)).trans ?_
  rw [partnerBytes_last]
  rfl

theorem pageAt_partner_of_none (hn : ∀ p ∈ s.part.cfg.partners, p.1 ≠ h) : pageAt s (192 + 4 * h) 3 = 0xFFFFFF := by
  refine (pageAt_slice hs hw (partner_mem_pageParts _ hh) (i := 0) (n := 3) (by rw [partnerBytes_length]; decide)).trans ?_
  rw [partnerBytes_of_none hn]
  rfl

theorem pageAt_partner_of_some {a b d : Byte} (hp : s.part.cfg.partners.find? (fun p => decide (p.1 = h)) = some (h, a, b, d)) :
    pageAt s (192 + 4 * h) 1 = a.toNat ∧ pageAt s (193 + 4 * h) 1 = b.toNat ∧ pageAt s (194 + 4 * h) 1 = d.toNat := by
  have byte {i : Nat} (hi : i < 4) : pageAt s (192 + i + 4 * h) 1 = leNat ((([a, b, d, 0] : List Byte).drop i).take 1) :=
    partnerBytes_of_some hp ▸ pageAt_partner hs hw hh hi
  exact ⟨(byte (i := 0) (by decide)).trans (leNat_singleton a), (byte (i := 1) (by decide)).trans (leNat_singleton b),
    (byte (i := 2) (by decide)).trans (leNat_singleton d)⟩

end

/-- The fields of a window's entry. -/
theorem pageAt_window {w : Window} (hm : w ∈ s.part.cfg.windows) :
    pageAt s (1024 + 16 * w.index.toNat) 2 = 1 + (if w.r then 2 else 0) + (if w.w then 4 else 0) ∧
      pageAt s (1026 + 16 * w.index.toNat) 2 = w.dest.toNat ∧ pageAt s (1028 + 16 * w.index.toNat) 4 = 0 ∧
      pageAt s (1032 + 16 * w.index.toNat) 8 = w.base.toNat := by
  have hm := window_mem_pageParts hm
  have off (i n : Nat) : pageAt s (1024 + i + 16 * w.index.toNat) n = pageAt s (1024 + 16 * w.index.toNat + i) n := by
    rw [Nat.add_right_comm]
  refine ⟨?_, ?_, ?_, ?_⟩
  · exact pageAt_value hs hw hm 0 rfl (by split <;> split <;> decide)
  · exact (off 2 2).trans (pageAt_value hs hw hm 2 rfl w.dest.isLt)
  · exact (off 4 4).trans (pageAt_value hs hw hm 4 rfl (by decide))
  · exact (off 8 8).trans (pageAt_value hs hw hm 8 rfl w.base.isLt)

end

end Sys2Proof.Machine
end

section
/-! SUPPORT. The fields of an attestation report in their order (R359). -/

namespace Sys2Proof.Machine

/-! ## The length of a digest -/

theorem beBytes_length (n v : Nat) : (beBytes n v).length = n := by
  induction n with
  | zero => rfl
  | succ n ih => rw [beBytes, List.length_cons, ih]

theorem beBytes_getElem? {n v j : Nat} (hj : j < n) : (beBytes n v)[j]? = some (BitVec.ofNat 8 (v / 256 ^ (n - 1 - j))) := by
  induction n generalizing j with
  | zero => omega
  | succ n ih =>
    cases j with
    | zero => rfl
    | succ j => rw [beBytes, List.getElem?_cons_succ, ih (by omega), show n + 1 - 1 - (j + 1) = n - 1 - j by omega]

theorem shaAbsorb_length {digest : List (BitVec 32)} (h : digest.length = 8) (block : List Byte) : (shaAbsorb digest block).length = 8 := by
  simp only [shaAbsorb, List.length_zipWith, ShaVars.words, h, List.length_cons, List.length_nil]
  rfl

theorem shaStart_length : ((shaPrimes.take 8).map (rootFraction 2)).length = 8 := by
  rw [List.length_map]
  decide +kernel

theorem sha256_length (bs : List Byte) : (sha256 bs).length = 32 := by
  have digest (l : List (List Byte)) {d : List (BitVec 32)} (h : d.length = 8) : (l.foldl shaAbsorb d).length = 8 := by
    induction l generalizing d with
    | nil => exact h
    | cons b l ih => exact ih (shaAbsorb_length h b)
  rw [sha256, length_flatMap_uniform (fun w : BitVec 32 => beBytes_length 4 w.toNat), digest _ shaStart_length]

/-! ## Parts of a list of bytes -/

/-- A part of a list, from the length of what stands before it. -/
theorem slice_append {a b c : List Byte} {i n : Nat} (ha : a.length = i) (hb : b.length = n) : ((a ++ (b ++ c)).drop i).take n = b := by
  rw [← ha, List.drop_left, ← hb, List.take_left]

theorem getElem?_flatMap_uniform {α : Type} {f : α → List Byte} {n : Nat} (hf : ∀ x, (f x).length = n) (l : List α) {i j : Nat}
    (hi : i < l.length) (hj : j < n) : (l.flatMap f)[n * i + j]? = (f l[i])[j]? := by
  induction l generalizing i with
  | nil => cases hi
  | cons x l ih =>
    cases i with
    | zero => rw [Nat.mul_zero, Nat.zero_add, List.flatMap_cons, List.getElem?_append_left (by rw [hf]; exact hj)]; rfl
    | succ i =>
      rw [List.flatMap_cons, List.getElem?_append_right (by rw [hf, Nat.mul_succ]; omega), hf,
        show n * (i + 1) + j - n = n * i + j by rw [Nat.mul_succ]; omega]
      exact ih (Nat.lt_of_succ_lt_succ hi)

/-! ## The body of a report -/

/-- The measurement registers as a report holds them. -/
def mrBytes (s : State) : List Byte := s.dev.mr.toList.flatMap (fun m => beBytes 32 m.toNat)

theorem mrBytes_length (s : State) : (mrBytes s).length = 128 := by
  rw [mrBytes, length_flatMap_uniform (fun m : BitVec 256 => beBytes_length 32 m.toNat), Vector.length_toList]

theorem mrBytes_getElem? (s : State) (i : Fin 4) {j : Nat} (hj : j < 32) :
    (mrBytes s)[32 * i.val + j]? = some (BitVec.ofNat 8 (s.dev.mr[i].toNat / 2 ^ (8 * (31 - j)))) := by
  rw [mrBytes, getElem?_flatMap_uniform (fun m : BitVec 256 => beBytes_length 32 m.toNat) _ (by simp) hj, beBytes_getElem? hj, Nat.pow_mul]
  rfl

/-- The fields of a report in their order. -/
theorem reportBody_eq (p : PartId) (nonce : List Byte) (s : State) : reportBody p nonce s =
    leBytes 4 1 ++ (leBytes 8 s.dev.devstat.toNat ++ (mrBytes s ++ (leBytes 1 p.toNat ++
      (sha256 (s.peek (physKey p 0) (2 ^ 16)) ++ padTo 0 32 nonce)))) := by
  simp only [reportBody, mrBytes, List.append_assoc]

section
variable (p : PartId) (nonce : List Byte) (s : State)

theorem reportBody_length : (reportBody p nonce s).length = 205 := by
  simp only [reportBody_eq, List.length_append, leBytes_length, mrBytes_length, sha256_length, padTo_length]

theorem reportBody_version : leNat ((reportBody p nonce s).take 4) = 1 := by
  rw [reportBody_eq, List.take_left' (leBytes_length 4 1)]
  rfl

theorem reportBody_devstat : leNat (((reportBody p nonce s).drop 4).take 8) = s.dev.devstat.toNat := by
  rw [reportBody_eq, slice_append (leBytes_length 4 1) (leBytes_length ..), leNat_leBytes_toNat (by decide)]

theorem reportBody_mr (i : Fin 4) {j : Nat} (hj : j < 32) : ((reportBody p nonce s).drop (12 + 32 * i.val))[j]? =
    some (BitVec.ofNat 8 (s.dev.mr[i].toNat / 2 ^ (8 * (31 - j)))) := by
  have hi := i.isLt
  rw [List.getElem?_drop, Nat.add_assoc, reportBody_eq, ← List.append_assoc, List.getElem?_append_right (by simp), List.getElem?_append_left]
  · simpa using mrBytes_getElem? s i hj
  · simp only [mrBytes_length, List.length_append, leBytes_length]
    omega

theorem reportBody_partition : leNat (((reportBody p nonce s).drop 140).take 1) = p.toNat := by
  rw [reportBody_eq, ← List.append_assoc, ← List.append_assoc, slice_append (by simp [mrBytes_length]) (leBytes_length ..),
    leNat_leBytes_toNat (by decide)]

theorem reportBody_page : ((reportBody p nonce s).drop 141).take 32 = sha256 (s.peek (physKey p 0) (2 ^ 16)) := by
  rw [reportBody_eq, ← List.append_assoc, ← List.append_assoc, ← List.append_assoc,
    slice_append (by simp [mrBytes_length]) (sha256_length _)]

theorem execAttestationReport_of_settled (h : settledFor s p = true) : execAttestationReport p nonce s =
    .next (s.modDev (fun d => { d with outbox := d.outbox ++
      [.report (reportBody p nonce s ++ (List.range 17088).map (Config.identitySignature (reportBody p nonce s)))] })) := by
  rw [execAttestationReport, if_pos h]

theorem execAttestationReport_of_unsettled (h : settledFor s p = false) : execAttestationReport p nonce s = .next s := by
  rw [execAttestationReport, if_neg (Bool.eq_false_iff.1 h)]

theorem reportBody_nonce {nonce : List Byte} (hn : nonce.length = 32) : (reportBody p nonce s).drop 173 = nonce := by
  rw [reportBody_eq, ← List.append_assoc, ← List.append_assoc, ← List.append_assoc, ← List.append_assoc,
    List.drop_left' (by simp [mrBytes_length, sha256_length]), padTo_of_le (Nat.le_of_eq hn), hn]
  exact List.append_nil _

end

end Sys2Proof.Machine
end

section
/-! SUPPORT. What an uncorrectable error in a lane does to a hart (R107, R108, R361). -/

namespace Sys2Proof.Machine

theorem slotsPer_eq (bricks lmod nreg : Nat) : slotsPer bricks lmod nreg = bricks * lmod * 256 / nreg := by
  rw [slotsPer, Nat.mul_assoc _ 8 32]

/-- The slots that lie in a logical lane of a brick. -/
theorem mem_laneSlots {h : Hart} {i lane u k : Nat} : (u, k) ∈ h.laneSlots i lane ↔ h.LiesIn i lane u k := by
  simp only [Hart.laneSlots, Hart.LiesIn, Hart.slotIn, tileCols, slotsPer_eq, List.mem_append, List.mem_flatMap, List.mem_map,
    List.mem_filter, List.mem_range, decide_eq_true_eq, Prod.mk.injEq]
  constructor
  · rintro (⟨r, hr, j, ⟨hj, hin⟩, rfl, rfl⟩ | ⟨r, hr, j, ⟨hj, hin⟩, rfl, rfl⟩)
    · exact ⟨.inl ⟨hr, hj⟩, hin⟩
    · exact ⟨.inr ⟨Nat.le_add_right .., by omega, hj⟩, hin⟩
  · rintro ⟨⟨hu, hk⟩ | ⟨hlo, hhi, hk⟩, hin⟩
    · exact .inl ⟨u, hu, k, ⟨hk, hin⟩, rfl, rfl⟩
    · exact .inr ⟨u - 32, by omega, k, ⟨hk, hin⟩, by omega, rfl⟩

theorem loseSlot_of_none {n i lane : Nat} {h : Hart} (hn : ∀ u k, ¬ h.LiesIn i lane u k) : h.loseSlot n i lane = h := by
  have : h.laneSlots i lane = [] := List.eq_nil_iff_forall_not_mem.2 fun ⟨u, k⟩ hm => hn u k (mem_laneSlots.1 hm)
  simp only [Hart.loseSlot, this, List.getElem?_nil]

theorem loseSlot_of_some (n : Nat) {i lane : Nat} {h : Hart} (hs : ∃ u k, h.LiesIn i lane u k) :
    ∃ u k, h.LiesIn i lane u k ∧ h.loseSlot n i lane = { h with
      live := { h.live with lost := (u, k) :: h.live.lost }
      ckpt := { h.ckpt with lost := (u, k) :: h.ckpt.lost } } := by
  obtain ⟨u, k, huk⟩ := hs
  have hlt : Config.lostUnit n % (h.laneSlots i lane).length < (h.laneSlots i lane).length :=
    Nat.mod_lt _ (List.length_pos_of_mem (mem_laneSlots.2 huk))
  rcases hp : (h.laneSlots i lane)[Config.lostUnit n % (h.laneSlots i lane).length] with ⟨u, k⟩
  refine ⟨u, k, mem_laneSlots.1 (hp ▸ List.getElem_mem hlt), ?_⟩
  simp only [Hart.loseSlot, List.getElem?_eq_getElem hlt, hp]

theorem placeOf_eq_some {s : State} {b : Nat × Nat} {h : Hart} {i : Nat} (hl : h.isLive = true) (hi : (placeBricks s h)[i]? = some b)
    (hfirst : ∀ j, j < i → (placeBricks s h)[j]? ≠ some b) : h.placeOf s b = some i := by
  obtain ⟨hlt, hb⟩ := List.getElem?_eq_some_iff.1 hi
  rw [Hart.placeOf, if_pos hl, List.findIdx?_eq_some_iff_getElem]
  refine ⟨hlt, by simp [hb], fun j hj => ?_⟩
  have := hfirst j hj
  rw [List.getElem?_eq_getElem (Nat.lt_trans hj hlt)] at this
  simpa using this

theorem placeOf_eq_none {s : State} {b : Nat × Nat} {h : Hart} (hb : h.isLive = false ∨ b ∉ placeBricks s h) :
    h.placeOf s b = none := by
  cases hl : h.isLive with
  | false => rw [Hart.placeOf, if_neg (by simp [hl])]
  | true =>
    have hb : b ∉ placeBricks s h := hb.resolve_left (by simp [hl])
    rw [Hart.placeOf, if_pos hl, List.findIdx?_eq_none_iff]
    exact fun c hc => by simpa using fun e : c = b => hb (e ▸ hc)

theorem struck_spec (s : State) (n : Nat) (b : Nat × Nat) (lane : Nat) (h : Hart) : Struck s b lane h (h.struck s n b lane) where
  spared hs := by
    unfold Hart.struck
    rcases or_assoc.2 hs with hp | hr
    · rw [placeOf_eq_none hp]
    · rw [Brick.logical, if_pos hr]
      cases h.placeOf s b <;> rfl
  loses i hl hi hfirst hr := by
    have : h.struck s n b lane =
        h.loseSlot n i ((List.range lane).filter (fun j => !(s.brickAt b.1 b.2).retired.getLsbD j)).length := by
      rw [Hart.struck, placeOf_eq_some hl hi hfirst, Brick.logical, if_neg (by simp [hr])]
    rw [this]
    exact ⟨loseSlot_of_none, loseSlot_of_some n⟩

end Sys2Proof.Machine
end

section
/-! SUPPORT. Bring-up: failures, the firmware image, and the clock (R354 to R357, R360). -/

namespace Sys2Proof.Machine

/-! ## Failures -/

/-- A table without partitions measures as no bytes. -/
theorem tableBytes_of_unconfigured {s : State} (h : ∀ q ∈ s.allParts, q.configured = false) : tableBytes s = [] := by
  refine List.flatMap_eq_nil_iff.2 fun i _ => ?_
  rw [List.filter_eq_nil_iff.2 fun q hq => by simp [h q hq], List.flatMap_nil]

theorem failDevice_eq_failedWith (code : Nat) (s : State) : failDevice code s = s.failedWith code := by
  have empty : tableBytes ({ s with
      part := Partition.fresh PartCfg.none false
      parts := []
      hart := Hart.absent
      harts := []
      dev := { s.dev with
        jobs := []
        contexts := [] } } : State) = [] := tableBytes_of_unconfigured (by simp [State.allParts, Partition.fresh])
  unfold failDevice State.failedWith
  cases s.allParts.any (·.configured) with
  | false => rfl
  | true =>
    simp only [if_true, measureTable, State.modDev, empty]
    rfl

/-! ## The firmware image -/

theorem field_eq_bitsOf (r off lo n : Nat) : field r off lo n = bitsOf r (8 * off + lo) n := by
  rw [field, bitsOf, Nat.shiftRight_eq_div_pow]

/-- An image that the boot ROM accepts: the vendor's key by its digest, its signature, and the layout of the header (R357). -/
def Firmware.Good (fw : Firmware) : Prop :=
  (fw.key.length = 48 ∧ fw.signature.length = 16224 ∧ sha256 fw.key = (List.range 32).map Config.vendorDigest ∧
    Config.slhVerify fw.key fw.image fw.signature = true) ∧
  64 ≤ fw.image.length ∧ field (leNat (fw.image.take 64)) 0 0 32 = 1 ∧
  field (leNat (fw.image.take 64)) 8 0 64 = fw.image.length - 64 ∧ field (leNat (fw.image.take 64)) 16 0 384 = 0

theorem Firmware.not_good_iff (fw : Firmware) : ¬ Firmware.Good fw ↔ (Firmware.signed fw = false ∨ Firmware.headerOk fw = false) := by
  rw [← Bool.not_eq_true, ← Bool.not_eq_true, ← Classical.not_and_iff_not_or_not]
  simp only [Firmware.Good, Firmware.signed, Firmware.headerOk, Bool.and_eq_true, decide_eq_true_eq, beq_iff_eq, field_eq_bitsOf,
    and_assoc]

theorem Firmware.version_ult_iff (fw : Firmware) (v : BitVec 32) :
    (Firmware.version fw).ult v = true ↔ field (leNat (fw.image.take 64)) 4 0 32 < v.toNat := by
  rw [BitVec.ult_eq_decide, decide_eq_true_iff, Firmware.version, BitVec.toNat_ofNat, field_eq_bitsOf,
    Nat.mod_eq_of_lt (show bitsOf _ 32 32 < 2 ^ 32 from Nat.mod_lt _ (by decide))]

section
variable {fw : Firmware} {s : State} (hp : phaseOf s = 1) (hv : s.dev.verified = false)
include hp hv

theorem execFirmwareVerify_of_bad (hg : ¬ Firmware.Good fw) : execFirmwareVerify fw s = .next (s.failedWith 1) := by
  rw [execFirmwareVerify, if_neg (by simp [hp, hv]), if_pos ((Firmware.not_good_iff fw).1 hg), failDevice_eq_failedWith]

variable (hg : Firmware.Good fw)
include hg

theorem execFirmwareVerify_of_good : execFirmwareVerify fw s = .next (if (Firmware.version fw).ult (Config.minVersion 0) then s.failedWith 2
    else (extend 1 (sha256 fw.image) s).modDev (fun d => { d with verified := true })) := by
  rw [execFirmwareVerify, if_neg (by simp [hp, hv]), if_neg (fun h => (Firmware.not_good_iff fw).2 h hg), failDevice_eq_failedWith]

theorem execFirmwareVerify_of_old (ho : field (leNat (fw.image.take 64)) 4 0 32 < (Config.minVersion 0).toNat) :
    execFirmwareVerify fw s = .next (s.failedWith 2) := by
  rw [execFirmwareVerify_of_good hp hv hg, if_pos ((Firmware.version_ult_iff ..).2 ho)]

theorem execFirmwareVerify_of_new (ho : ¬ field (leNat (fw.image.take 64)) 4 0 32 < (Config.minVersion 0).toNat) :
    execFirmwareVerify fw s = .next ((extend 1 (sha256 fw.image) s).modDev (fun d => { d with verified := true })) := by
  rw [execFirmwareVerify_of_good hp hv hg, if_neg (fun h => ho ((Firmware.version_ult_iff ..).1 h))]

end

/-! ## Self-test and training -/

section
variable {passed : BitVec 4} {s : State} (hp : phaseOf s = 1) (hv : s.dev.verified = true)
include hp hv

theorem execDieSelfTest_of_none (h : passed = 0) : execDieSelfTest passed s = .next (s.failedWith 5) := by
  rw [execDieSelfTest, if_neg (by simp [hp, hv]), if_pos h, failDevice_eq_failedWith]

theorem execDieSelfTest_of_some (h : passed ≠ 0) : execDieSelfTest passed s =
    .next (setPhase 2 0 (s.modDev (fun d => { d with
      devstat := d.devstat ||| (passed.setWidth 64 <<< 16)
      clock := 18 }))) := by
  rw [execDieSelfTest, if_neg (by simp [hp, hv]), if_neg h]

end

/-- Some partition needs a channel that has failed (R355). -/
theorem neededChannel_iff {s : State} {failed : BitVec 256} :
    s.allParts.any (fun p => p.configured && (p.cfg.chans &&& failed) != 0) = true ↔
      ∃ p ∈ s.allParts, p.configured = true ∧ (p.cfg.chans &&& failed) ≠ 0 := by
  simp

section
variable {failed : BitVec 256} {s : State} (hp : phaseOf s = 2) (hr : readyBit s = false)
include hp hr

theorem execHbmTraining_of_needed (hn : ∃ p ∈ s.allParts, p.configured = true ∧ (p.cfg.chans &&& failed) ≠ 0) :
    execHbmTraining failed s = .next (s.failedWith 3) := by
  rw [execHbmTraining, if_neg (by simp [hp, hr]), if_pos (neededChannel_iff.2 hn), failDevice_eq_failedWith]

theorem execHbmTraining_of_spared (hn : ¬ ∃ p ∈ s.allParts, p.configured = true ∧ (p.cfg.chans &&& failed) ≠ 0) :
    execHbmTraining failed s = .next (setBit 3 true (s.modDev (fun d => { d with withdrawn := d.withdrawn ||| failed }))) := by
  rw [execHbmTraining, if_neg (by simp [hp, hr]), if_neg (fun h => hn (neededChannel_iff.1 h))]

end

/-! ## The clock -/

/-- The clock rises to the full rate of the service at most, and THR clears there (R360; log entry 44). -/
theorem execUnthrottle_eq (s : State) : execUnthrottle s = .next (s.withDev { s.dev with
    devstat := if min (nominalClock s) (s.dev.clock + 3) = nominalClock s then s.dev.devstat &&& ~~~(2 : Word) else s.dev.devstat
    clock := min (nominalClock s) (s.dev.clock + 3) }) := by
  have same (c : Nat) : nominalClock (s.modDev (fun d => { d with clock := c })) = nominalClock s := rfl
  by_cases h : min (nominalClock s) (s.dev.clock + 3) = nominalClock s
  · simp only [execUnthrottle, same, if_pos h]
    rfl
  · simp only [execUnthrottle, same, if_neg h]
    rfl

end Sys2Proof.Machine
end

section
/-! PROOF. What the management plane does. -/

namespace Sys2Proof.Machine

/-- Settles O60, clause by clause: each event is a condition on the state and what happens where it holds; the lemmas above say what
the conditions ask for and what the page, the report, a resize and an error leave. -/
theorem managementEventResults : Obligations.ManagementEventResults := by
  unfold Obligations.ManagementEventResults
  refine ⟨?start, fun _ _ => rfl, ?configure, fun _ _ _ _ _ h => memoryOk_iff.1 h, fun _ _ _ _ _ => rfl, ?page, fun _ _ ht => ht ▸ rfl,
    fun _ _ _ => rfl, ?resize, ?halls, ?report, ?lane, ?device⟩
  case start =>
    intro s job payload m answer
    refine ⟨startMessage_of_none, fun q t hq ht => ?_⟩
    intro idle free ok room ends
    have refused : ∀ {b : Byte}, startStatus t m = b → b ≠ 0 → ends b t := fun hb h0 => startMessage_eq_visit hq ht hb (if_neg h0)
    exact ⟨fun hi => refused (startStatus_of_busy hi) (by decide), fun hi hf => refused (startStatus_of_live hi hf) (by decide),
      fun hi hf ho => refused (startStatus_of_malformed hi hf ho) (by decide),
      fun hi hf ho hr => refused (startStatus_of_no_room hi hf ho hr) (by decide),
      fun hi hf ho hr => startMessage_eq_visit hq ht (startStatus_of_room hi hf ho hr) (if_pos rfl)⟩
  case configure =>
    intro s c
    refine ⟨fun h => ?_, execPartitionConfigure_of_not, execPartitionConfigure_of_may⟩
    obtain ⟨hwf, htags, hphase, hsize, hnd, hmem, hhalls, hjobs, hjob, hset⟩ := mayConfigure_elim h
    exact ⟨hwf, htags, hphase, hsize, hnd, hmem, hhalls, hjobs, jobSettled_iff.1 hjob, settledFor_iff.1 hset⟩
  case page =>
    intro s hs hwf hw c t base at_
    obtain ⟨hhalls, hfault, hintr, hlate, htags⟩ := PartCfg.wf_elim (show c.wf = true from hwf)
    have part : ∀ {k o bs}, (pageParts c)[k]? = some (o, bs) → (o, bs) ∈ pageParts c := List.mem_of_getElem?
    have ident := part (k := 0) rfl
    have logs := part (k := 7) rfl
    have mask {x : Nat} : ((leBytes 32 x).drop 0).take 32 = leBytes 32 x := List.take_of_length_le (Nat.le_of_eq (leBytes_length ..))
    exact ⟨pageAt_value hs hw ident 0 rfl (by decide), pageAt_value hs hw ident 2 rfl (Nat.lt_of_lt_of_le c.pid.isLt (by decide)),
      pageAt_value hs hw ident 3 rfl (by decide), pageAt_value hs hw ident 4 rfl c.node.isLt, pageAt_value hs hw ident 6 rfl c.job.isLt,
      fun h hh => pageAt_halls hs hw hhalls hh, pageAt_value hs hw (part (k := 2) rfl) 0 mask c.l2.isLt,
      pageAt_value hs hw (part (k := 3) rfl) 0 mask c.chans.isLt,
      fun o v hov => pageAt_number hs hw (placement_mem_pageParts hov) 0 rfl, pageAt_value hs hw logs 0 rfl (by omega),
      pageAt_value hs hw logs 1 rfl (by omega), pageAt_head_gap hs (by decide) (by decide),
      pageAt_value hs hw (part (k := 14) rfl) 0 rfl (by omega), pageAt_head_gap hs (by decide) (by decide),
      fun i hi => pageAt_value hs hw (part (k := 15) rfl) (2 * i) (ctrlTags_slice htags hi) (c.ctrlTags.getD i 0).isLt,
      pageAt_value hs hw (part (k := 16) rfl) 0 rfl c.limits.isLt, pageAt_head_gap hs (by decide) (by decide),
      fun h hh => ⟨pageAt_partner_last hs hw hh, pageAt_partner_of_none hs hw hh, fun a b d => pageAt_partner_of_some hs hw hh⟩,
      fun w => pageAt_window hs hw, fun i => pageAt_unused_window hs, pageAt_head_gap hs (by decide) (by decide), pageAt_tail hs,
      fun k => writePage_outside hs⟩
  case resize =>
    intro s p t ht quiet
    have settled : quiet → noSwitch t = true := noSwitch_of_quiet
    have kept : ∀ src dst, mayRemove t src dst = false → exec (.resizeHall (.remove p src dst)) s = .next s :=
      fun src dst h => next_inPart_of_fixed ht (if_neg (by simp [h]))
    refine ⟨fun src dst h => next_inPart_of_eq ht (if_pos h), fun src dst h => ?_, kept,
      fun hall hq hoff hred hfree hnew => next_inPart_of_eq ht (if_pos ⟨settled hq, hoff, hred, hfree, hnew⟩),
      fun l2 chans => ⟨fun hq hm => next_inPart_of_eq ht (if_pos ⟨settled hq, hm⟩),
        fun hm => next_inPart_of_fixed ht (if_neg (by simp [hm]))⟩,
      fun hq => next_inPart_of_eq ht (if_pos (settled hq)), fun hno => ⟨next_inPart_of_fixed ht (if_neg (by simp [hno])),
        fun hall => next_inPart_of_fixed ht (if_neg (by simp [hno])), fun l2 chans => next_inPart_of_fixed ht (if_neg (by simp [hno])),
        fun src dst => kept src dst (mayRemove_of_switch hno)⟩⟩
    obtain ⟨hsrc, hdst, hne, -, hempty, hdrain⟩ := mayRemove_elim h
    exact ⟨hsrc, hdst, hne, hempty, fun h hh => Hart.drainable_elim (hdrain h hh)⟩
  case halls =>
    intro s hall src dst h
    refine ⟨?_, ?_, drainHart_of_off, fun ho => ⟨_, drainHart_of_not_off ho, ?_, ?_⟩, rfl, fun t ht => ht,
      fun hs i hi => movePad_get hs src dst hi⟩
    · rintro _ rfl
      rfl
    · rintro _ rfl _ rfl
      rfl
    · intro hn
      rw [hn]
      rfl
    · intro w hw
      rw [hw]
      rfl
  case report =>
    intro s p nonce body report
    exact ⟨execAttestationReport_of_settled p nonce s, execAttestationReport_of_unsettled p nonce s, settledFor_iff,
      reportBody_length p nonce s, reportBody_version p nonce s, reportBody_devstat p nonce s,
      fun i j => reportBody_mr p nonce s i, reportBody_partition p nonce s, reportBody_page p nonce s, reportBody_nonce p s⟩
  case lane =>
    intro s hall brick lane hh hb b n
    refine ⟨_, struck_spec s n (hall, brick) lane.toNat, ?_⟩
    rintro _ rfl
    exact congrArg Host.Outcome.next (if_pos ⟨hh, hb⟩)
  case device =>
    intro s d restarted nominal clock
    exact ⟨rfl, rfl, execUnthrottle_eq s, rfl, rfl,
      fun fw hp hv => ⟨execFirmwareVerify_of_bad hp hv, execFirmwareVerify_of_old hp hv, execFirmwareVerify_of_new hp hv⟩,
      fun passed hp hv => ⟨execDieSelfTest_of_none hp hv, execDieSelfTest_of_some hp hv⟩,
      fun failed hp hr => ⟨execHbmTraining_of_needed hp hr, execHbmTraining_of_spared hp hr⟩,
      fun h => congrArg Host.Outcome.next (if_neg fun ⟨_, _, _, hj⟩ => h (jobsSettled_iff.1 hj)),
      fun hp hr hl hj => congrArg Host.Outcome.next (if_pos ⟨hp, hr, by simpa using hl, jobsSettled_iff.2 hj⟩)⟩

end Sys2Proof.Machine
end

section
/-! SUPPORT. The rational number of an exact fraction: what the operations on fractions compute, and how they compare. -/

namespace Sys2Proof.Machine

namespace Frac

/-- The number that a fraction stands for. -/
def val (a : Frac) : Rat := mkRat a.num a.den

/-! ## The operations -/

theorem val_ofInt (n : Int) : (ofInt n).val = n := (Rat.mk_eq_mkRat n 1 (by decide) (Nat.coprime_one_right _)).symm

theorem val_mul (a b : Frac) : (a.mul b).val = a.val * b.val := (Rat.mkRat_mul_mkRat ..).symm

theorem val_zero : zero.val = 0 := Rat.zero_mkRat 1

theorem val_nonneg {a : Frac} (h : 0 ≤ a.num) : 0 ≤ a.val := by
  rw [val, ← Rat.divInt_ofNat]
  exact Rat.divInt_nonneg h (Int.natCast_nonneg _)

theorem val_neg (a : Frac) : a.neg.val = -a.val := (Rat.neg_mkRat ..).symm

/-- The power of two, as the rational numbers have it. -/
theorem val_pow2 (e : Int) : (pow2 e).val = 2 ^ e := by
  unfold pow2
  split
  case isTrue h =>
    obtain ⟨n, rfl⟩ := Int.eq_ofNat_of_zero_le h
    exact (val_ofInt _).trans (by rw [Rat.zpow_natCast, Int.toNat_natCast, Rat.intCast_natCast, Rat.natCast_pow]; rfl)
  case isFalse h =>
    obtain ⟨n, hn⟩ := Int.eq_ofNat_of_zero_le (a := -e) (by omega)
    obtain rfl : e = -n := by omega
    rw [val, Int.neg_neg, Int.toNat_natCast, Rat.mkRat_eq_div, Rat.zpow_neg, Rat.zpow_natCast, Rat.natCast_pow, Rat.div_def,
      Rat.intCast_one, Rat.one_mul]
    rfl

theorem val_scale (a : Frac) (e : Int) : (a.scale e).val = a.val * 2 ^ e := by
  rw [scale, val_mul, val_pow2]

theorem pow2_den_pos (e : Int) : 0 < (pow2 e).den := by
  unfold pow2
  split
  · exact Nat.one_pos
  · exact Nat.two_pow_pos _

section
variable {a b : Frac} (ha : 0 < a.den) (hb : 0 < b.den)
include ha

theorem scale_den_pos (e : Int) : 0 < (a.scale e).den := Nat.mul_pos ha (pow2_den_pos e)

theorem val_mul_den : a.val * a.den = a.num := by
  rw [val, Rat.mkRat_eq_div]
  exact Rat.div_mul_cancel (fun h => Nat.ne_of_gt ha (Rat.natCast_eq_zero_iff.1 h))

theorem isZero_iff : a.isZero = true ↔ a.val = 0 := by
  rw [isZero, decide_eq_true_iff, val, Rat.mkRat_eq_zero (Nat.ne_of_gt ha)]

include hb

theorem add_den_pos : 0 < (a.add b).den := Nat.mul_pos ha hb

theorem val_add : (a.add b).val = a.val + b.val := (Rat.mkRat_add_mkRat _ _ (Nat.ne_of_gt ha) (Nat.ne_of_gt hb)).symm

theorem val_sub : (a.sub b).val = a.val - b.val := by
  rw [sub, val_add ha (show 0 < b.neg.den from hb), val_neg, Rat.sub_eq_add_neg]

/-! ## The comparisons -/

theorem lt_iff : a.lt b = true ↔ a.val < b.val := by
  have ha' : (0 : Rat) < a.den := Rat.natCast_pos.2 ha
  have hb' : (0 : Rat) < b.den := Rat.natCast_pos.2 hb
  have cross : a.val * (a.den * b.den) < b.val * (a.den * b.den) ↔ a.num * b.den < b.num * a.den := by
    rw [← Rat.mul_assoc, val_mul_den ha, Rat.mul_comm (a.den : Rat), ← Rat.mul_assoc, val_mul_den hb, ← Rat.intCast_lt_intCast]
    simp only [Rat.intCast_mul, Rat.intCast_natCast]
  rw [lt, decide_eq_true_iff, ← cross, Rat.mul_lt_mul_right (Rat.mul_pos ha' hb')]

theorem le_iff : a.le b = true ↔ a.val ≤ b.val := by
  rw [← Rat.not_lt, ← lt_iff hb ha, lt, decide_eq_true_iff, Int.not_lt, le, decide_eq_true_iff]

theorem eq_iff : a.eq b = true ↔ a.val = b.val := by
  rw [eq, decide_eq_true_iff, val, val, Rat.mkRat_eq_iff (Nat.ne_of_gt ha) (Nat.ne_of_gt hb)]

end

section
variable {a : Frac} (ha : 0 < a.den)
include ha

theorem half_le_iff : (⟨1, 2⟩ : Frac).le a = true ↔ 1 / 2 ≤ a.val :=
  Rat.mkRat_eq_div 1 2 ▸ le_iff (a := ⟨1, 2⟩) (by decide) ha

theorem half_lt_iff : (⟨1, 2⟩ : Frac).lt a = true ↔ 1 / 2 < a.val :=
  Rat.mkRat_eq_div 1 2 ▸ lt_iff (a := ⟨1, 2⟩) (by decide) ha

theorem half_eq_iff : (⟨1, 2⟩ : Frac).eq a = true ↔ 1 / 2 = a.val :=
  Rat.mkRat_eq_div 1 2 ▸ eq_iff (a := ⟨1, 2⟩) (by decide) ha

end

/-! ## The floor and the exponent -/

section
variable {a : Frac} (ha : 0 < a.den)
include ha

theorem floor_le_val : (a.floor : Rat) ≤ a.val := by
  rw [← val_ofInt, ← le_iff (show 0 < (ofInt _).den from Nat.one_pos) ha, le, decide_eq_true_iff, ofInt]
  simpa [floor] using Int.ediv_mul_le a.num (Int.ne_of_gt (Int.natCast_pos.2 ha))

theorem val_lt_floor_add_one : a.val < (a.floor : Rat) + 1 := by
  have : a.val < ((a.floor + 1 : Int) : Rat) := by
    rw [← val_ofInt, ← lt_iff ha (show 0 < (ofInt _).den from Nat.one_pos), lt, decide_eq_true_iff, ofInt]
    simpa [floor] using Int.lt_ediv_add_one_mul_self a.num (Int.natCast_pos.2 ha)
  simpa using this

/-- The floor of a magnitude is a natural number. -/
theorem exists_floor_eq_natCast (h : 0 ≤ a.val) : ∃ k : Nat, a.floor = k ∧ (k : Rat) ≤ a.val ∧ a.val < (k : Rat) + 1 := by
  have low := floor_le_val ha
  have high := val_lt_floor_add_one ha
  have : (0 : Rat) < ((a.floor + 1 : Int) : Rat) := Std.lt_of_le_of_lt h (by simpa using high)
  obtain ⟨k, hk⟩ := Int.eq_ofNat_of_zero_le (Int.lt_add_one_iff.1 (Rat.intCast_pos.1 this))
  rw [hk, Rat.intCast_natCast] at low high
  exact ⟨k, hk, low, high⟩

end

theorem two_zpow_pos (e : Int) : (0 : Rat) < 2 ^ e := Rat.zpow_pos (by decide)

theorem two_zpow_add (d e : Int) : (2 : Rat) ^ (d + e) = 2 ^ d * 2 ^ e := Rat.zpow_add (by decide) d e

theorem two_zpow_natCast (n : Nat) : (2 : Rat) ^ (n : Int) = ((2 ^ n : Nat) : Rat) := by
  rw [Rat.zpow_natCast, Rat.natCast_pow]
  rfl

theorem two_zpow_le {d e : Int} (h : d ≤ e) : (2 : Rat) ^ d ≤ 2 ^ e := by
  obtain ⟨n, rfl⟩ := Int.le.dest h
  have one_le : (1 : Rat) ≤ 2 ^ (n : Int) := by
    rw [two_zpow_natCast]
    exact Rat.natCast_le_natCast.2 (Nat.two_pow_pos n)
  have := Rat.mul_le_mul_of_nonneg_left one_le (Rat.le_of_lt (two_zpow_pos d))
  rwa [Rat.mul_one, ← two_zpow_add] at this

theorem two_zpow_log2_le {n : Nat} (h : n ≠ 0) : (2 : Rat) ^ (n.log2 : Int) ≤ n := by
  rw [two_zpow_natCast]
  exact Rat.natCast_le_natCast.2 (Nat.log2_self_le h)

theorem lt_two_zpow_log2 (n : Nat) : (n : Rat) < 2 ^ ((n.log2 : Int) + 1) := by
  rw [← Int.natCast_succ, two_zpow_natCast]
  exact Rat.natCast_lt_natCast.2 Nat.lt_log2_self

section
variable {a : Frac} (ha : 0 < a.den) (hn : 0 < a.num)
include ha hn

/-- The first guess at the exponent, the difference of the two logarithms, is the exponent or one too large. -/
theorem log2_guess : (2 : Rat) ^ ((a.num.natAbs.log2 : Int) - a.den.log2 - 1) ≤ a.val ∧
    a.val < 2 ^ ((a.num.natAbs.log2 : Int) - a.den.log2 + 1) := by
  have hd : (0 : Rat) < a.den := Rat.natCast_pos.2 ha
  have num : a.val * a.den = (a.num.natAbs : Rat) := by
    rw [val_mul_den ha, ← Rat.intCast_natCast, Int.natAbs_of_nonneg (Int.le_of_lt hn)]
  generalize he : (a.num.natAbs.log2 : Int) - a.den.log2 = e
  constructor
  · refine Rat.le_of_mul_le_mul_right ?_ hd
    calc (2 : Rat) ^ (e - 1) * a.den
        ≤ 2 ^ (e - 1) * 2 ^ ((a.den.log2 : Int) + 1) :=
          Rat.mul_le_mul_of_nonneg_left (Rat.le_of_lt (lt_two_zpow_log2 _)) (Rat.le_of_lt (two_zpow_pos _))
      _ = 2 ^ (a.num.natAbs.log2 : Int) := by rw [← two_zpow_add]; congr 1; omega
      _ ≤ a.num.natAbs := two_zpow_log2_le (by omega)
      _ = a.val * a.den := num.symm
  · refine Rat.lt_of_mul_lt_mul_right (Std.lt_of_lt_of_le (num ▸ lt_two_zpow_log2 _) ?_) (Rat.le_of_lt hd)
    calc (2 : Rat) ^ ((a.num.natAbs.log2 : Int) + 1)
        = 2 ^ (e + 1) * 2 ^ (a.den.log2 : Int) := by rw [← two_zpow_add]; congr 1; omega
      _ ≤ 2 ^ (e + 1) * a.den := Rat.mul_le_mul_of_nonneg_left (two_zpow_log2_le (Nat.ne_of_gt ha)) (Rat.le_of_lt (two_zpow_pos _))

theorem log2Floor_spec : (2 : Rat) ^ a.log2Floor ≤ a.val ∧ a.val < 2 ^ (a.log2Floor + 1) := by
  obtain ⟨low, high⟩ := log2_guess ha hn
  have abs_eq : a.abs = a := by rw [abs, Int.natAbs_of_nonneg (Int.le_of_lt hn)]
  simp only [log2Floor, abs_eq, lt_iff ha (pow2_den_pos _), val_pow2]
  split
  case isTrue h => exact ⟨low, by rwa [Int.sub_add_cancel]⟩
  case isFalse h => exact ⟨Rat.not_lt.1 h, high⟩

end

end Frac
end Sys2Proof.Machine
end

section
/-! PROOF. The neighbours of a magnitude in a format's grid, and which of them a rounding mode takes (R167, R169). -/

namespace Sys2Proof.Machine

/-! ## The grid of a format -/

section
variable (fm : Fmt)

theorem magOf_den_pos (code : Nat) : 0 < (fm.magOf code).den := by
  unfold Fmt.magOf
  split <;> exact Frac.scale_den_pos Nat.one_pos _

theorem magOf_subnormal {code : Nat} (h : code < 2 ^ fm.f) : (fm.magOf code).val = code * 2 ^ fm.emin := by
  rw [Fmt.magOf, if_pos h, Frac.val_scale, Frac.val_ofInt, Rat.intCast_natCast]

theorem magOf_normal (d : Nat) {r : Nat} (hr : r < 2 ^ fm.f) :
    (fm.magOf ((d + 1) * 2 ^ fm.f + r)).val = ((r + 2 ^ fm.f : Nat) : Rat) * 2 ^ (fm.emin + d) := by
  have pos := Nat.two_pow_pos fm.f
  have large : ¬ (d + 1) * 2 ^ fm.f + r < 2 ^ fm.f := by rw [Nat.succ_mul]; omega
  rw [Fmt.magOf, if_neg large, Frac.val_scale, Frac.val_ofInt, Rat.intCast_natCast, Nat.mul_comm, Nat.mul_add_mod,
    Nat.mod_eq_of_lt hr, Nat.mul_add_div pos, Nat.div_eq_of_lt hr]
  congr 2
  omega

/-- The grid at 2^d times the smallest unit: the significands count its magnitudes, up to the first of the next binade. -/
theorem magOf_significand {d k : Nat} (hk : k ≤ 2 ^ (fm.f + 1)) (hd : d = 0 ∨ 2 ^ fm.f ≤ k) :
    (fm.magOf (d * 2 ^ fm.f + k)).val = k * 2 ^ (fm.emin + d) := by
  have pos := Nat.two_pow_pos fm.f
  rw [Nat.pow_succ] at hk
  by_cases small : k < 2 ^ fm.f
  case pos =>
    obtain rfl : d = 0 := by omega
    rw [Nat.zero_mul, Nat.zero_add, magOf_subnormal fm small]
    simp
  obtain ⟨r, rfl⟩ := Nat.exists_eq_add_of_le (Nat.not_lt.1 small)
  rcases Nat.lt_or_eq_of_le (show r ≤ 2 ^ fm.f by omega) with hr | rfl
  · rw [← Nat.add_assoc, ← Nat.succ_mul, magOf_normal fm d hr, Nat.add_comm r]
  · rw [← Nat.add_assoc, ← Nat.succ_mul, ← Nat.succ_mul, ← Nat.add_zero (_ * _), magOf_normal fm (d + 1) pos]
    have next : fm.emin + ((d + 1 : Nat) : Int) = 1 + (fm.emin + d) := by omega
    rw [next, Frac.two_zpow_add, ← Rat.mul_assoc, Nat.zero_add, Rat.natCast_add, Rat.zpow_one]
    grind

end

/-! ## The split of a magnitude -/

/-- What a split says of a magnitude: its place between its two neighbours, which lie one unit u of the grid apart. -/
structure Split.Places (fm : Fmt) (q : Frac) (s : Split) (u : Rat) : Prop where
  unit_pos : 0 < u
  den_pos : 0 < s.t.den
  upper : (fm.magOf (s.code + 1)).val = (fm.magOf s.code).val + u
  place : q.val = (fm.magOf s.code).val + s.t.val * u
  nonneg : 0 ≤ s.t.val
  lt_one : s.t.val < 1

/-- A magnitude of x units: the floor of x is the significand of its lower neighbour, and the rest its place above that. -/
theorem places_of_scaled (fm : Fmt) {q x : Frac} {d : Nat} (hd : 0 < x.den) (hx : x.val * 2 ^ (fm.emin + d) = q.val) (nonneg : 0 ≤ x.val)
    (high : x.val < ((2 ^ (fm.f + 1) : Nat) : Rat)) (low : d = 0 ∨ ((2 ^ fm.f : Nat) : Rat) ≤ x.val) :
    Split.Places fm q ⟨d * 2 ^ fm.f + x.floor.toNat, x.sub (Frac.ofInt x.floor)⟩ (2 ^ (fm.emin + d)) := by
  obtain ⟨k, hk, le, lt⟩ := Frac.exists_floor_eq_natCast hd nonneg
  rw [hk, Int.toNat_natCast]
  have rest : (x.sub (Frac.ofInt k)).val = x.val - k := by
    rw [Frac.val_sub hd (b := Frac.ofInt k) Nat.one_pos, Frac.val_ofInt, Rat.intCast_natCast]
  have castSucc : ((k + 1 : Nat) : Rat) = k + 1 := Rat.natCast_add k 1
  have k_lt : k < 2 ^ (fm.f + 1) := Rat.natCast_lt_natCast.1 (Std.lt_of_le_of_lt le high)
  have le_k : d = 0 ∨ 2 ^ fm.f ≤ k := low.imp_right fun h =>
    Nat.le_of_lt_succ (Rat.natCast_lt_natCast.1 (castSucc ▸ Std.lt_of_le_of_lt h lt))
  have lower := magOf_significand fm (Nat.le_of_lt k_lt) le_k
  have upper := magOf_significand fm (k := k + 1) k_lt (le_k.imp_right Nat.le_succ_of_le)
  rw [← Nat.add_assoc, castSucc] at upper
  exact {
    unit_pos := Frac.two_zpow_pos _
    den_pos := Frac.add_den_pos hd Nat.one_pos
    upper := by grind
    place := by grind
    nonneg := by grind
    lt_one := by grind }

/-- The unit of the grid near a magnitude, 2^d times the smallest: the magnitude has at most f + 1 bits before the point there, and
that many where the unit is not the smallest. -/
theorem exists_unit (fm : Fmt) {q : Frac} (hn : 0 < q.num) (hd : 0 < q.den) :
    ∃ d : Nat, max (q.log2Floor - fm.f) fm.emin = fm.emin + d ∧ q.val < ((2 ^ (fm.f + 1) : Nat) : Rat) * 2 ^ (fm.emin + d) ∧
      (d = 0 ∨ ((2 ^ fm.f : Nat) : Rat) * 2 ^ (fm.emin + d) ≤ q.val) := by
  obtain ⟨low, high⟩ := Frac.log2Floor_spec hd hn
  obtain ⟨d, hmax⟩ := Int.le.dest (Int.le_max_right (q.log2Floor - fm.f) fm.emin)
  refine ⟨d, hmax.symm, ?_, ?_⟩
  · rw [← Frac.two_zpow_natCast, ← Frac.two_zpow_add]
    exact Std.lt_of_lt_of_le high (Frac.two_zpow_le (by omega))
  · rw [← Frac.two_zpow_natCast, ← Frac.two_zpow_add, Classical.or_iff_not_imp_left]
    exact fun h => Std.le_trans (Frac.two_zpow_le (by omega)) low

/-- The split of a magnitude places it (R167, R169). -/
theorem splitMag_places (fm : Fmt) {q : Frac} (hn : 0 ≤ q.num) (hd : 0 < q.den) :
    ∃ u, Split.Places fm q (splitMag fm.f fm.emin q) u := by
  by_cases hz : q.isZero = true
  case pos =>
    have zero_lt : Frac.zero.val < ((2 ^ (fm.f + 1) : Nat) : Rat) := Rat.natCast_pos.2 (Nat.two_pow_pos _)
    have place := places_of_scaled fm (q := q) (x := Frac.zero) (d := 0) Nat.one_pos
      (by rw [(Frac.isZero_iff hd).1 hz, Frac.val_zero, Rat.zero_mul]) (Frac.val_nonneg (Int.le_refl 0)) zero_lt (.inl rfl)
    rw [Nat.zero_mul] at place
    exact ⟨_, by rw [splitMag, if_pos hz]; exact place⟩
  case neg =>
    have hn : 0 < q.num := Int.lt_iff_le_and_ne.2 ⟨hn, fun h => hz (decide_eq_true h.symm)⟩
    obtain ⟨d, hmax, high, low⟩ := exists_unit fm hn hd
    have hu := Frac.two_zpow_pos (fm.emin + d)
    have scaled : (q.scale (-(fm.emin + d))).val * 2 ^ (fm.emin + d) = q.val := by
      rw [Frac.val_scale, Rat.mul_assoc, ← Frac.two_zpow_add, Int.add_left_neg, Rat.zpow_zero, Rat.mul_one]
    rw [← scaled] at high low
    have nonneg : 0 ≤ (q.scale (-(fm.emin + d))).val := by
      rw [Frac.val_scale]
      exact Rat.mul_nonneg (Frac.val_nonneg (Int.le_of_lt hn)) (Rat.le_of_lt (Frac.two_zpow_pos _))
    have place := places_of_scaled fm (Frac.scale_den_pos hd _) scaled nonneg ((Rat.mul_lt_mul_right hu).1 high)
      (low.imp_right fun h => Rat.le_of_mul_le_mul_right h hu)
    refine ⟨2 ^ (fm.emin + d), ?_⟩
    have exponent : (fm.emin + (d : Int) - fm.emin).toNat = d := by omega
    rw [splitMag, if_neg hz]
    simp only [hmax, exponent]
    exact place

/-! ## Where a magnitude lies -/

section
variable {fm : Fmt} {q : Frac} {s : Split} {u : Rat} (h : Split.Places fm q s u)
include h

theorem Split.Places.lower_le : (fm.magOf s.code).val ≤ q.val := by
  have := Rat.mul_nonneg h.nonneg (Rat.le_of_lt h.unit_pos)
  rw [h.place]
  grind

theorem Split.Places.lt_upper : q.val < (fm.magOf (s.code + 1)).val := by
  have := Rat.mul_lt_mul_of_pos_right h.lt_one h.unit_pos
  rw [h.place, h.upper]
  grind

theorem Split.Places.lower_eq_iff : (fm.magOf s.code).val = q.val ↔ s.t.val = 0 := by
  have := Rat.mul_eq_zero (a := s.t.val) (b := u)
  have := h.unit_pos
  rw [h.place]
  grind

theorem Split.Places.mid_lt_iff : (fm.magOf s.code).val + (fm.magOf (s.code + 1)).val < q.val + q.val ↔ 1 / 2 < s.t.val := by
  have := Rat.mul_pos_iff_of_pos_right (a := s.t.val + s.t.val - 1) h.unit_pos
  rw [h.place, h.upper]
  grind

theorem Split.Places.lt_mid_iff : q.val + q.val < (fm.magOf s.code).val + (fm.magOf (s.code + 1)).val ↔ s.t.val < 1 / 2 := by
  have := Rat.mul_neg_iff_of_pos_right (a := s.t.val + s.t.val - 1) h.unit_pos
  rw [h.place, h.upper]
  grind

theorem Split.Places.mid_le_iff : (fm.magOf s.code).val + (fm.magOf (s.code + 1)).val ≤ q.val + q.val ↔ 1 / 2 ≤ s.t.val := by
  rw [← Rat.not_lt, h.lt_mid_iff, Rat.not_lt]

theorem Split.Places.le_mid_iff : q.val + q.val ≤ (fm.magOf s.code).val + (fm.magOf (s.code + 1)).val ↔ s.t.val ≤ 1 / 2 := by
  rw [← Rat.not_lt, h.mid_lt_iff, Rat.not_lt]

theorem Split.Places.mid_eq_iff : (fm.magOf s.code).val + (fm.magOf (s.code + 1)).val = q.val + q.val ↔ 1 / 2 = s.t.val := by
  rw [Rat.le_antisymm_iff, Rat.le_antisymm_iff, h.mid_le_iff, h.le_mid_iff]

end

/-! ## What a mode reads of the split -/

section
variable (z : Word) (neg : Bool) (s : Split)

theorem roundsUp_of_exact {s : Split} (mode : RMode) (ht : s.t.isZero = true) : roundsUp mode z neg s = false := if_pos ht

theorem roundsUp_rtz : roundsUp .rtz z neg s = false := ite_self false

theorem roundsUp_rdn : roundsUp .rdn z neg s = (neg && !s.t.isZero) := by
  cases ht : s.t.isZero <;> simp [roundsUp, ht]

theorem roundsUp_rup : roundsUp .rup z neg s = (!neg && !s.t.isZero) := by
  cases ht : s.t.isZero <;> simp [roundsUp, ht]

variable {s} (hd : 0 < s.t.den)
include hd

theorem roundsUp_rna_iff : roundsUp .rna z neg s = true ↔ 1 / 2 ≤ s.t.val := by
  cases ht : s.t.isZero with
  | true =>
    have below : ¬ 1 / 2 ≤ s.t.val := by rw [(Frac.isZero_iff hd).1 ht]; grind
    exact iff_of_false (by simp [roundsUp_of_exact z neg _ ht]) below
  | false => simp [roundsUp, ht, Frac.half_le_iff hd]

theorem roundsUp_rne_iff : roundsUp .rne z neg s = true ↔ 1 / 2 < s.t.val ∨ (1 / 2 = s.t.val ∧ s.code % 2 = 1) := by
  cases ht : s.t.isZero with
  | true =>
    have below : ¬ (1 / 2 < s.t.val ∨ (1 / 2 = s.t.val ∧ s.code % 2 = 1)) := by rw [(Frac.isZero_iff hd).1 ht]; grind
    exact iff_of_false (by simp [roundsUp_of_exact z neg _ ht]) below
  | false => simp [roundsUp, ht, Frac.half_lt_iff hd, Frac.half_eq_iff hd]

end

/-- Settles O18: the split's place between the neighbours says how the magnitude lies to each and to their midpoint, and each mode reads
just that of the place. -/
theorem roundingTakesANeighbour : Obligations.RoundingTakesANeighbour := by
  unfold Obligations.RoundingTakesANeighbour
  intro fm q z neg hn hd s lower upper
  obtain ⟨u, h⟩ := splitMag_places fm hn hd
  have hlower : 0 < lower.den := magOf_den_pos fm _
  have hupper : 0 < upper.den := magOf_den_pos fm _
  have hsum := Frac.add_den_pos hlower hupper
  have htwice := Frac.add_den_pos hd hd
  have inexact : s.t.isZero = lower.eq q := by
    rw [Bool.eq_iff_iff, Frac.isZero_iff h.den_pos, Frac.eq_iff hlower hd, h.lower_eq_iff]
  rw [Frac.le_iff hlower hd, Frac.lt_iff hd hupper, Frac.le_iff hsum htwice, Frac.lt_iff hsum htwice, Frac.eq_iff hsum htwice,
    Frac.val_add hlower hupper, Frac.val_add hd hd, ← inexact]
  refine ⟨h.lower_le, h.lt_upper, roundsUp_rtz .., roundsUp_rdn .., roundsUp_rup .., ?_, ?_⟩
  · rw [roundsUp_rna_iff z neg h.den_pos, h.mid_le_iff]
  · rw [roundsUp_rne_iff z neg h.den_pos, h.mid_lt_iff, h.mid_eq_iff]

end Sys2Proof.Machine
end
